-- ==== Sys2Proof/Word.lean ====
section
/-! DEFINITION. The words of the unit: register words, bytes, tagged words, and the shapes of the register map. -/

namespace Sys2Proof

/-- A register or memory word of 32 data bits (R13, R334). -/
abbrev Word := BitVec 32
/-- A memory byte. -/
abbrev Byte := BitVec 8

/-- The 4-bit tag of a word (R334); `r0B` to `r0F` are the reserved codes. -/
inductive Tag where
  | void | int | nat | fix | real | angle | count | bits | addr | code | desc
  | r0B | r0C | r0D | r0E | r0F
deriving DecidableEq, Repr

/-- A tagged word (R334). -/
structure TWord where
  tag : Tag
  w : Word
deriving DecidableEq, Repr

/-- A bit field `[hi:lo]` of a register. -/
structure Fld where
  hi : Nat
  lo : Nat
deriving DecidableEq, Repr

/-- A register of the map: its address and its reset value. -/
structure Reg where
  addr : Nat
  rst : Word
deriving DecidableEq, Repr

/-- One row of the bus map: registers at `base + s1·i + s2·j` for `i < n1`, `j < n2`, the reset value, the bits of each
access type of R17, and the tag of a read (R14). -/
structure RegRow where
  base : Nat
  s1 : Nat
  n1 : Nat
  s2 : Nat
  n2 : Nat
  rst : Word
  rw : Word
  rwt : Word
  w1c : Word
  w1s : Word
  rc : Word
  tag : Tag
deriving DecidableEq, Repr

end Sys2Proof
end

