-- ==== Sys2Proof/Syntax.lean ====
section
/-! DEFINITION. The commands the block takes: one constructor of `Instr` per row of spec/opcode_table.json, in the
table's order, with the operands that the rules give each; before it the types of the operands. -/

namespace Sys2Proof

/-- Who makes a register or memory access (R13, R556, R669, R673). -/
inductive Initiator where
  | core (c : Fin 8)
  | host
  | debugger
  | system
deriving DecidableEq, Repr

/-- An operand specifier of a Pyquatha instruction (R341); `short`/`long` are the two lengths a mode has. -/
inductive Spec where
  | frame (s : Fin 64)
  | frameDisp (d : BitVec 12)
  | baseDisp (s : Fin 64) (u : BitVec 5)
  | baseDispLong (s : Fin 64) (e : BitVec 16)
  | index (s : Fin 64) (k : Fin 4) (x : Fin 64) (d : BitVec 10)
  | absolute (a : Word)
  | postInc (s : Fin 64)
  | preDec (s : Fin 64)
  | imm (t : BitVec 4) (v : BitVec 7)
  | immLong (t : BitVec 4) (v : Word)
  | pcRel (d : BitVec 11)
  | pcRelLong (d : Word)
  | indirect (s : Fin 64) (u : BitVec 6)
  | periph (w : BitVec 12)
  | tickBlock (p : Bool) (w : BitVec 11)
  | reserved
deriving DecidableEq, Repr

/-- The fields of a Pyquatha instruction beside its opcode: variant, extension field and specifiers (R338, R339). -/
structure Insn where
  v : BitVec 2
  x : BitVec 6
  ops : List Spec
deriving DecidableEq, Repr

/-- A chain frame as it stands on a link (R613): its header fields and its payload bytes. -/
structure Frame where
  dst : BitVec 9
  scope : BitVec 2
  src : BitVec 9
  nopip : Bool
  cls : BitVec 3
  sub : BitVec 5
  seq : BitVec 16
  payload : List Byte
deriving DecidableEq, Repr

/-- An item at a check-value unit's source (R536): a write, a curd record, a chain frame, a flash line. -/
inductive CvuItem where
  | write (ddr : Bool) (addr : Nat) (bytes : List Byte)
  | curd (ring : Fin 8) (bytes : List Byte)
  | chain (port : Fin 3) (received : Bool) (bytes : List Byte)
  | flash (addr : Nat) (bytes : List Byte)
deriving DecidableEq, Repr

/-- An item an active twin member mirrors to its partner (R454, R457, R458, R462): the heartbeat with tick number, state,
`RLINE`, divergence bits and bytes of the tick before; a ticked write and an arming, each with whether it comes after its
tick (R456); a curd signature; a loop state; the firmware area, words from an offset on; a divergence notice; the request of
`TWCMD.SWITCH` (log entry 40); a ticked register's active (true) or pending copy of the resync image; its end. DESIGN CHOICE:
log entry 29. -/
inductive MirItem where
  | heartbeat (tno : Word) (state : BitVec 3) (rline : Byte) (div : BitVec 4) (bytes : BitVec 16)
  | write (addr : Nat) (v : Word) (late : Bool)
  | arm (mask tgt : Word) (late : Bool)
  | curd (ctx : BitVec 10) (rseq : BitVec 22) (sig : Word)
  | loop (n : Fin 16) (d q : Word)
  | area (ofs : BitVec 10) (words : List Word)
  | notice (p : Fin 4)
  | switchover
  | image (addr : Nat) (act : Bool) (v : Word)
  | imageEnd
deriving DecidableEq, Repr

/-- A unit as the tree of links shows it (R599 to R601, R605): serial number, a label of its chain, physical index, serial
number of its parent, its port towards it (1 UP, 2 DOWN, 3 BRANCH), and the highest version it supports. -/
structure UnitInfo where
  serial : BitVec 64
  chain : Nat
  phys : Nat
  parent : Option (BitVec 64)
  pport : BitVec 2
  vmaj : BitVec 4
  vmin : BitVec 4
deriving DecidableEq, Repr

/-- What the identity exchange of a link tells (R605, R609): the partner's port, its pip, whether the units are joined
already, whether the partner is the parent; of the HEAD unit: its time base less the own in counts, `TICKNO` and `TPHASE`. -/
structure Peer where
  kind : BitVec 2
  pip : Option (BitVec 9)
  joined : Bool
  parent : Bool
  off : Int
  tickno : BitVec 48
  tphase : Nat
deriving DecidableEq, Repr

/-- A tick marker as it arrives (R603, R607): ε in 1/100 ps, the sender's `ALN` and `TICKNO`, counts since its cycle 0. -/
structure Marker where
  eps : Int
  aln : Bool
  tickno : BitVec 48
  phase : Nat
deriving DecidableEq, Repr

/-- A 64-byte descriptor of a host ring (R573): its sixteen words. -/
structure Desc where
  words : List Word
deriving DecidableEq, Repr

/-- The commands. Addresses are byte addresses of the core address map; `dt` is the time in time-base counts since the
command before it. -/
inductive Instr where
  | registerWrite (ini : Initiator) (addr : Nat) (size : Nat) (v : Word)
  | tick
  | huskTick
  | snap
  | tickperWrite (v : Word)
  | cmarm (mask : Word)
  | cgtgtWrite (g : Fin 16) (v : Word)
  | cgctlWrite (g : Fin 16) (v : Word)
  | tbcmpWrite (k : Fin 4) (v : Word)
  | tbcmpFire (k : Fin 4)
  | gcfgWrite (n : Fin 32) (v : Word)
  | gcntWrite (n : Fin 32) (v : Word)
  | gcmpWrite (n : Fin 32) (v : Word)
  | gptCompareFire (n : Fin 32)
  | gptWrap (n : Fin 32)
  | gptPeriodEnd (n : Fin 32)
  | gptCapture (n : Fin 32) (dt : Nat)
  | referenceReady (k : Fin 4)
  | externalReferenceReady (k : Fin 4)
  | referenceStopDone (k : Fin 4)
  | adcStartDone (n : Fin 8)
  | adcStopDone (n : Fin 8)
  | adcConfigWrite (addr : Nat) (v : Word)
  | adcTrigger (n : Fin 8) (dt : Nat)
  | aswtTrig (n : Fin 8)
  | monitoringPassStart (n : Fin 8)
  | adcResult (n : Fin 8) (mon : Bool) (i : Fin 16) (nv : Int)
  | xbarDeliver (n : Fin 8) (mon : Bool) (i : Fin 16)
  | adcCalStart (n : Fin 8)
  | adcCalDone (n : Fin 8)
  | fbEdge (f : Fin 24) (a b z : Bool) (dt : Nat)
  | standstill (f : Fin 24)
  | fcmpWrite (f : Fin 24) (k : Fin 4) (v : Word)
  | fposWrite (f : Fin 24) (v : Word)
  | iarm (f : Fin 24)
  | ssiTrigger (f : Fin 24) (aHigh : Bool)
  | swt (f : Fin 24) (aHigh : Bool)
  | ssiReadingDone (f : Fin 24) (raw : Word) (endHigh : Bool)
  | ssiMonoEnd (f : Fin 24)
  | sincosPair (f : Fin 24)
  | angleItem (f : Fin 24)
  | fbStartDone (f : Fin 24)
  | fbStopDone (f : Fin 24)
  | fbConfigWrite (addr : Nat) (v : Word)
  | periodStart (t : Fin 16)
  | centre (t : Fin 16)
  | lDutyWrite (t : Fin 16) (j : Fin 3) (v : Word)
  | deadTimeEnd (t : Fin 16) (j : Fin 3)
  | triadStartDone (t : Fin 16)
  | triadStopDone (t : Fin 16)
  | tripLineAssert (k : Fin 8)
  | lowonTurnOn (t : Fin 16) (j : Fin 3)
  | tcmdSafe (t : Fin 16)
  | tcmdRelease (t : Fin 16)
  | triadConfigWrite (addr : Nat) (v : Word)
  | windowEvent (w : Fin 48) (hi : Bool)
  | windowLatchClear (w : Fin 48) (v : Word)
  | windowStartDone (w : Fin 48)
  | windowStopDone (w : Fin 48)
  | windowDacSettled (w : Fin 48)
  | rswt (v : Word)
  | tripImport (code : BitVec 3) (pip : BitVec 9)
  | rindConfigWrite (addr : Nat) (v : Word)
  | leStartDone (n : Fin 16)
  | leStopDone (n : Fin 16)
  | leHookPoint (n : Fin 16)
  | go (n : Fin 16) (v : Word)
  | hkmiss (n : Fin 16)
  | leShadowWrite (n : Fin 16)
  | resume (n : Fin 16)
  | irst (n : Fin 16)
  | lswtsWrite (n : Fin 16) (v : Word)
  | leConfigWrite (addr : Nat) (v : Word)
  | laneOutput (c : Fin 128) (x : Word)
  | contextRunning (c : Fin 1024)
  | orderTarget (c : Fin 1024)
  | blockComplete (c : Fin 1024)
  | jobPassEnd (e : Fin 2)
  | jobComplete (e : Fin 2)
  | contextConfigWrite (addr : Nat) (v : Word)
  | curdRecordWrite (r : Fin 8)
  | spillWrite
  | snapshotSchedule (s : Fin 16)
  | snapshotCopyStart (s : Fin 16)
  | snapshotCopyDone
  | snapReady
  | poutConfigWrite (addr : Nat) (v : Word)
  | mov (c : Fin 8) (i : Insn)
  | add (c : Fin 8) (i : Insn)
  | sub (c : Fin 8) (i : Insn)
  | mul (c : Fin 8) (i : Insn)
  | mac (c : Fin 8) (i : Insn)
  | div (c : Fin 8) (i : Insn)
  | rem (c : Fin 8) (i : Insn)
  | neg (c : Fin 8) (i : Insn)
  | abs (c : Fin 8) (i : Insn)
  | and (c : Fin 8) (i : Insn)
  | or (c : Fin 8) (i : Insn)
  | xor (c : Fin 8) (i : Insn)
  | not (c : Fin 8) (i : Insn)
  | shl (c : Fin 8) (i : Insn)
  | shr (c : Fin 8) (i : Insn)
  | sha (c : Fin 8) (i : Insn)
  | rot (c : Fin 8) (i : Insn)
  | cmp (c : Fin 8) (i : Insn)
  | bcc (c : Fin 8) (i : Insn)
  | call (c : Fin 8) (i : Insn)
  | ret (c : Fin 8) (i : Insn)
  | gate (c : Fin 8) (i : Insn)
  | gret (c : Fin 8) (i : Insn)
  | reti (c : Fin 8) (i : Insn)
  | trap (c : Fin 8) (i : Insn)
  | tag (c : Fin 8) (i : Insn)
  | untag (c : Fin 8) (i : Insn)
  | tchk (c : Fin 8) (i : Insn)
  | cvt (c : Fin 8) (i : Insn)
  | sincos (c : Fin 8) (i : Insn)
  | atan2 (c : Fin 8) (i : Insn)
  | bmov (c : Fin 8) (i : Insn)
  | bfill (c : Fin 8) (i : Insn)
  | bcrc (c : Fin 8) (i : Insn)
  | vmac (c : Fin 8) (i : Insn)
  | flushi (c : Fin 8) (i : Insn)
  | chkpt (c : Fin 8) (i : Insn)
  | wft (c : Fin 8) (i : Insn)
  | sync (c : Fin 8) (i : Insn)
  | fpWrite (c : Fin 8) (v : Word)
  | tkbWrite (c : Fin 8) (v : Word)
  | inval (c : Fin 8)
  | detmChange (c : Fin 8) (detm : Bool)
  | statusWrite (c : Fin 8) (v : Word)
  | controlBlockWrite (c : Fin 8) (addr : Nat) (v : Word)
  | interruptEntry (c : Fin 8)
  | windowCompare (p : Fin 4)
  | slipTimeout (p : Fin 4)
  | watchdogExpiry (p : Fin 4)
  | watchdogService (c : Fin 8) (p : Fin 4) (key : BitVec 16)
  | watchdogStart (p : Fin 4) (v : Word)
  | mirrorReceive (it : MirItem)
  | yield
  | switch
  | rebind
  | paircConfigWrite (addr : Nat) (v : Word)
  | icuSourceRise (s : Fin 1024)
  | iset (w : Fin 32) (v : Word)
  | interruptPresentation
  | holdoffEnd (g : Fin 64)
  | ivecWrite (s : Fin 1024) (v : Word)
  | sramWriteback
  | sramScrub
  | program
  | programDone
  | erase
  | eraseDone
  | suspend
  | resumeErase
  | autoSuspend (addr : Nat)
  | autoResume
  | margin
  | marginDone (fail : Bool) (line : BitVec 11)
  | swap
  | swapDone
  | rdp
  | rdpLowering
  | ddrcStartDone (ok : Bool)
  | ddrcStopDone
  | ddrcRetrainDone
  | ddrRefresh (rank : Bool)
  | ddrScrub
  | dcfgWrite (v : Word)
  | dwinWrite (w : Fin 16) (v : Word)
  | cvuItemFold (u : Fin 8) (it : CvuItem)
  | cvrunWrite (u : Fin 8) (v : Word)
  | cvexpWrite (u : Fin 8) (v : Word)
  | cvuStopDone (u : Fin 8)
  | cvuConfigWrite (addr : Nat) (v : Word)
  | cxlLinkUp (w : Fin 4) (spd : Fin 6)
  | cxlLinkDown
  | l1Entry
  | bar0Access (addr : Nat) (size : Nat) (v : Option Word)
  | hdmDecoderCommit (k : Fin 2) (base size skip ways gran : Nat)
  | cxlMemAccess (addr : Nat) (w : Option (List Byte))
  | biasFlip (g : Nat)
  | biasFlipDone (g : Nat)
  | doorbellSnoop (line : Fin 64) (inv : Bool)
  | doorbellRead (line : Fin 64) (data : List Word)
  | doorbellPoll
  | descriptorFetch (r : Fin 12) (good : Bool) (d : Desc)
  | descriptorReread (r : Fin 12) (good : Bool) (d : Desc)
  | nop (r : Fin 12)
  | commit (r : Fin 12)
  | write (r : Fin 12)
  | read (r : Fin 12)
  | snapshot (r : Fin 12)
  | mbox (r : Fin 12)
  | imageBlock (r : Fin 12) (good : Bool) (buf : List Byte)
  | eventPost
  | fwMsg
  | statusLineWrite
  | msixFire (v : Fin 32)
  | ringEnable (r : Fin 12) (v : Word)
  | hfmtWrite (v : Word)
  | doorbellAddressWrite (addr : Nat) (v : Word)
  | flr
  | cxlReset
  | hotReset
  | cxlcConfigWrite (addr : Nat) (v : Word)
  | linkTrained (p : Fin 3) (x : Peer)
  | dreq (p : Fin 3)
  | drsp (p : Fin 3) (rtt : Nat) (f : Frame)
  | tickMarkerReceive (p : Fin 3) (m : Marker)
  | slewStep
  | tjump
  | parentLinkLoss
  | syncReceive (f : Frame)
  | frameReceive (p : Fin 3) (good : Bool) (f : Frame)
  | frameSend (p : Fin 3)
  | portQueueDrop (p : Fin 3)
  | mgmtRetry
  | chainReset (f : Frame)
  | vote (f : Frame)
  | xdataReceive (f : Frame)
  | enumeration (units : List UnitInfo)
  | mapgo
  | unitAttach (units : List UnitInfo)
  | unitDeparture (units : List UnitInfo)
  | release
  | coarseMarkerReceive (p : Fin 3) (off : Int)
  | chainConfigWrite (addr : Nat) (v : Word)
  | crystalStable
  | pllLock
  | voltageSettled
  | sgateClose (b : Fin 19)
  | gateClosed (b : Fin 19)
  | sgateOpen (b : Fin 19)
  | gateOpened (b : Fin 19)
  | sclrel (owner : BitVec 16)
  | sleep
  | sleepEntry
  | wake (src : Fin 5)
  | freeze
  | freezeRelease
  | extest (cells : BitVec 753)
  | samplePreload (cells : BitVec 753)
  | idcode
  | bypass
  | dbgacc (wr : Bool) (idx : BitVec 10) (v : Word)
  | tbsnap
  | dbgMemoryRead
  | dbgMemoryWrite
  | halt (v : BitVec 8)
  | step (c : Fin 8)
  | traceSlot
  | traceItemLost
  | dbgmark (c : Fin 8) (v : Word)
  | dbgmsg (v : Word)
  | powerOnReset
  | resetN
  | sreset (v : Word)
  | pairReset (p : Fin 4) (wd : Bool)
  | boot (bad : List Nat)
  | voteSend
  | voteTimeout
  | sbconf (v : Word)
  | gpioEdge (n : Fin 64) (lvl : Bool)
  | tripin (n : Fin 64) (lvl : Bool)
  | gpoutWrite (off : Nat) (v : Word)
  | pinmuxConfigWrite (addr : Nat) (v : Word)
  | powerDown
  | refEdge (t : Fin 16) (j : Fin 3)
  | windowEventEnd (w : Fin 48) (hi : Bool)
  | eraseSuspended
  | deviceTemperatureHot (hot : Bool)
  | l1Exit
  | itomwrGo (r : Fin 12) (good : Bool)
  | partnerLeavesElectricalIdle (p : Fin 3)
  | mgmtSecondCopy
  | frozen
  | storeCompletion (c : Fin 8)
deriving DecidableEq, Repr

end Sys2Proof
end

