-- ==== Sys2Proof/Machine/RegMap.lean ====
section
/-! DEFINITION. The register maps of the spec as data: every register's address, reset value and fields, named as the
manual names them (register `ADC.ASTAT n`, field `ADC.ASTAT_STATE`), and one row per register for the bus: where it
lies, its reset value, which bits have which access type (R17), and the tag a read gives (R14). -/

namespace Sys2Proof.Machine

/-- Core-local registers of core `c` are kept `c + 1` times 2^32 above their address (R375, R404). -/
def coreOff (c : Nat) : Nat := 0x100000000 * (c + 1)

namespace TICK
def TBLO : Reg := ⟨0x40010000, 0x0⟩
def TBLO_TB : Fld := ⟨31, 0⟩
def TBHI : Reg := ⟨0x40010004, 0x0⟩
def TBHI_TB : Fld := ⟨31, 0⟩
def TBCTL : Reg := ⟨0x40010008, 0x0⟩
def TBCTL_SNAP : Fld := ⟨0, 0⟩
def TBSLO : Reg := ⟨0x40010010, 0x0⟩
def TBSLO_SNAPLO : Fld := ⟨31, 0⟩
def TBSHI : Reg := ⟨0x40010014, 0x0⟩
def TBSHI_SNAPHI : Fld := ⟨31, 0⟩
def TBSTAT : Reg := ⟨0x40010018, 0x0⟩
def TBSTAT_HRES : Fld := ⟨0, 0⟩
def TICKPER : Reg := ⟨0x40010020, 0x927C0⟩
def TICKPER_PER : Fld := ⟨22, 0⟩
def TPHASE : Reg := ⟨0x40010024, 0x0⟩
def TPHASE_PHASE : Fld := ⟨22, 0⟩
def TICKNOLO : Reg := ⟨0x40010028, 0x0⟩
def TICKNOLO_TNO : Fld := ⟨31, 0⟩
def TICKNOHI : Reg := ⟨0x4001002C, 0x0⟩
def TICKNOHI_TNO : Fld := ⟨15, 0⟩
def TICKTSLO : Reg := ⟨0x40010030, 0x0⟩
def TICKTSLO_TS : Fld := ⟨31, 0⟩
def TICKTSHI : Reg := ⟨0x40010034, 0x0⟩
def TICKTSHI_TS : Fld := ⟨31, 0⟩
def TSTAT : Reg := ⟨0x40010038, 0x0⟩
def TSTAT_PALN : Fld := ⟨1, 1⟩
def TSTAT_PERR : Fld := ⟨0, 0⟩
def CMTGT : Reg := ⟨0x40010040, 0x0⟩
def CMTGT_TGT : Fld := ⟨31, 0⟩
def CMARM : Reg := ⟨0x40010044, 0x0⟩
def CMARM_MASK : Fld := ⟨15, 1⟩
def CGTGT (g : Nat) : Reg := ⟨0x40010100 + 0x8 * g, 0x0⟩
def CGTGT_TGT : Fld := ⟨31, 0⟩
def CGCTL (g : Nat) : Reg := ⟨0x40010104 + 0x8 * g, 0x0⟩
def CGCTL_LATEMODE : Fld := ⟨8, 8⟩
def CGCTL_ARMED : Fld := ⟨0, 0⟩
def CGLAST (g : Nat) : Reg := ⟨0x40010180 + 0x4 * g, 0x0⟩
def CGLAST_TNO : Fld := ⟨31, 0⟩
def OVRSTAT : Reg := ⟨0x40010200, 0x0⟩
def OVRSTAT_PRESS : Fld := ⟨24, 24⟩
def OVRSTAT_CORE : Fld := ⟨23, 16⟩
def OVRSTAT_LE : Fld := ⟨15, 0⟩
def OVREN : Reg := ⟨0x40010204, 0x100FFFF⟩
def OVREN_PRESS : Fld := ⟨24, 24⟩
def OVREN_CORE : Fld := ⟨23, 16⟩
def OVREN_LE : Fld := ⟨15, 0⟩
def OVRCNT (i : Nat) : Reg := ⟨0x40010210 + 0x4 * i, 0x0⟩
def OVRCNT_CNT : Fld := ⟨15, 0⟩
def LATESTAT : Reg := ⟨0x40010280, 0x0⟩
def LATESTAT_GRP : Fld := ⟨15, 1⟩
def LATECNT : Reg := ⟨0x40010284, 0x0⟩
def LATECNT_CNT : Fld := ⟨15, 0⟩
def TBCMP (k : Nat) : Reg := ⟨0x40010300 + 0x4 * k, 0x0⟩
def TBCMP_CMP : Fld := ⟨31, 0⟩
def TBCSTAT : Reg := ⟨0x40010310, 0x0⟩
def TBCSTAT_FIRED : Fld := ⟨3, 0⟩
end TICK

namespace GPT
def GFLAGS : Reg := ⟨0x40020000, 0x0⟩
def GFLAGS_ANY : Fld := ⟨31, 0⟩
def GCFG (n : Nat) : Reg := ⟨0x40020100 + 0x20 * n, 0x0⟩
def GCFG_CAPSEL : Fld := ⟨23, 17⟩
def GCFG_TICKRST : Fld := ⟨16, 16⟩
def GCFG_PRESC : Fld := ⟨15, 8⟩
def GCFG_MODE : Fld := ⟨1, 0⟩
def GRLD (n : Nat) : Reg := ⟨0x40020104 + 0x20 * n, 0xFFFFFFFF⟩
def GRLD_RLD : Fld := ⟨31, 0⟩
def GCNT (n : Nat) : Reg := ⟨0x40020108 + 0x20 * n, 0x0⟩
def GCNT_CNT : Fld := ⟨31, 0⟩
def GCMP (n : Nat) : Reg := ⟨0x4002010C + 0x20 * n, 0x0⟩
def GCMP_CMP : Fld := ⟨31, 0⟩
def GCAP (n : Nat) : Reg := ⟨0x40020110 + 0x20 * n, 0x0⟩
def GCAP_CAP : Fld := ⟨31, 0⟩
def GSTAT (n : Nat) : Reg := ⟨0x40020114 + 0x20 * n, 0x0⟩
def GSTAT_CFGERR : Fld := ⟨4, 4⟩
def GSTAT_WRAPF : Fld := ⟨3, 3⟩
def GSTAT_CAPOVF : Fld := ⟨2, 2⟩
def GSTAT_CAPF : Fld := ⟨1, 1⟩
def GSTAT_CMPF : Fld := ⟨0, 0⟩
def GSEL (n : Nat) : Reg := ⟨0x40020118 + 0x20 * n, 0x0⟩
def GSEL_IE : Fld := ⟨8, 4⟩
def GSEL_CGRP : Fld := ⟨3, 0⟩
end GPT

namespace ADC
def ACTL (n : Nat) : Reg := ⟨0x40100000 + 0x1000 * n, 0x0⟩
def ACTL_LP : Fld := ⟨1, 1⟩
def ACTL_EN : Fld := ⟨0, 0⟩
def ATRIG (n : Nat) : Reg := ⟨0x40100004 + 0x1000 * n, 0x0⟩
def ATRIG_DELAY : Fld := ⟨31, 16⟩
def ATRIG_TSEL : Fld := ⟨6, 0⟩
def ACSEQ (n : Nat) : Reg := ⟨0x40100008 + 0x1000 * n, 0x0⟩
def ACSEQ_LEN : Fld := ⟨4, 0⟩
def AMSEQ (n : Nat) : Reg := ⟨0x4010000C + 0x1000 * n, 0x0⟩
def AMSEQ_LEN : Fld := ⟨4, 0⟩
def ASEL (n : Nat) : Reg := ⟨0x40100010 + 0x1000 * n, 0x0⟩
def ASEL_IE : Fld := ⟨11, 4⟩
def ASEL_CGRP : Fld := ⟨3, 0⟩
def ASTAT (n : Nat) : Reg := ⟨0x40100014 + 0x1000 * n, 0x0⟩
def ASTAT_CALBUSY : Fld := ⟨10, 10⟩
def ASTAT_STATE : Fld := ⟨9, 8⟩
def ASTAT_CALERR : Fld := ⟨7, 7⟩
def ASTAT_CFGERR : Fld := ⟨6, 6⟩
def ASTAT_SADJ : Fld := ⟨5, 5⟩
def ASTAT_LIMF : Fld := ⟨4, 4⟩
def ASTAT_VOIDF : Fld := ⟨3, 3⟩
def ASTAT_PATCHF : Fld := ⟨2, 2⟩
def ASTAT_DROPF : Fld := ⟨1, 1⟩
def ASTAT_CDONE : Fld := ⟨0, 0⟩
def ADROP (n : Nat) : Reg := ⟨0x40100018 + 0x1000 * n, 0x0⟩
def ADROP_CNT : Fld := ⟨31, 0⟩
def APATCH (n : Nat) : Reg := ⟨0x4010001C + 0x1000 * n, 0x0⟩
def APATCH_CNT : Fld := ⟨31, 0⟩
def APASS (n : Nat) : Reg := ⟨0x40100020 + 0x1000 * n, 0x0⟩
def APASS_CNT : Fld := ⟨31, 0⟩
def ACAL (n : Nat) : Reg := ⟨0x40100024 + 0x1000 * n, 0x0⟩
def ACAL_SKIP : Fld := ⟨1, 1⟩
def ACAL_START : Fld := ⟨0, 0⟩
def ADAC (n : Nat) : Reg := ⟨0x40100028 + 0x1000 * n, 0x800⟩
def ADAC_CODE : Fld := ⟨11, 0⟩
def ASWT (n : Nat) : Reg := ⟨0x4010002C + 0x1000 * n, 0x0⟩
def ASWT_TRIG : Fld := ⟨0, 0⟩
def CALG (n g : Nat) : Reg := ⟨0x40100040 + 0x1000 * n + 0x4 * g, 0x0⟩
def CALG_GTRIM : Fld := ⟨31, 16⟩
def CALG_OTRIM : Fld := ⟨15, 0⟩
def CENT (n i : Nat) : Reg := ⟨0x40100100 + 0x1000 * n + 0x4 * i, 0x10713⟩
def CENT_LIMIT : Fld := ⟨27, 27⟩
def CENT_PRESS : Fld := ⟨26, 26⟩
def CENT_XBAR : Fld := ⟨25, 25⟩
def CENT_RES : Fld := ⟨24, 24⟩
def CENT_GAIN : Fld := ⟨18, 16⟩
def CENT_SAMPT : Fld := ⟨15, 8⟩
def CENT_INPUT : Fld := ⟨4, 0⟩
def MENT (n i : Nat) : Reg := ⟨0x40100140 + 0x1000 * n + 0x4 * i, 0x10713⟩
def MENT_LIMIT : Fld := ⟨27, 27⟩
def MENT_PRESS : Fld := ⟨26, 26⟩
def MENT_XBAR : Fld := ⟨25, 25⟩
def MENT_RES : Fld := ⟨24, 24⟩
def MENT_GAIN : Fld := ⟨18, 16⟩
def MENT_SAMPT : Fld := ⟨15, 8⟩
def MENT_INPUT : Fld := ⟨4, 0⟩
def CRES (n i : Nat) : Reg := ⟨0x40100180 + 0x1000 * n + 0x4 * i, 0x0⟩
def CRES_RESULT : Fld := ⟨31, 0⟩
def MRES (n i : Nat) : Reg := ⟨0x401001C0 + 0x1000 * n + 0x4 * i, 0x0⟩
def MRES_RESULT : Fld := ⟨31, 0⟩
def LIMCFG (n k : Nat) : Reg := ⟨0x40100200 + 0x1000 * n + 0x8 * k, 0x1⟩
def LIMCFG_EN : Fld := ⟨31, 31⟩
def LIMCFG_SEQ : Fld := ⟨20, 20⟩
def LIMCFG_ENTRY : Fld := ⟨19, 16⟩
def LIMCFG_CNT : Fld := ⟨7, 0⟩
def LIMTH (n k : Nat) : Reg := ⟨0x40100204 + 0x1000 * n + 0x8 * k, 0x7FFF8000⟩
def LIMTH_HI : Fld := ⟨31, 16⟩
def LIMTH_LO : Fld := ⟨15, 0⟩
def LIMSTAT (n : Nat) : Reg := ⟨0x40100240 + 0x1000 * n, 0x0⟩
def LIMSTAT_HIF : Fld := ⟨15, 8⟩
def LIMSTAT_LOF : Fld := ⟨7, 0⟩
end ADC

namespace REF
def REFCTL : Reg := ⟨0x40108000, 0x0⟩
def REFCTL_EXT : Fld := ⟨7, 4⟩
def REFCTL_EN : Fld := ⟨3, 0⟩
def REFSTAT : Reg := ⟨0x40108004, 0x0⟩
def REFSTAT_READY : Fld := ⟨11, 8⟩
def REFSTAT_STATE : Fld := ⟨7, 0⟩
def REFSEL : Reg := ⟨0x40108008, 0x0⟩
def REFSEL_CGRP : Fld := ⟨3, 0⟩
end REF

namespace FB
def FCFG (f : Nat) : Reg := ⟨0x40130000 + 0x400 * f, 0x3400F00⟩
def FCFG_FILT : Fld := ⟨27, 24⟩
def FCFG_INV : Fld := ⟨23, 23⟩
def FCFG_IGATE : Fld := ⟨22, 20⟩
def FCFG_CMODE : Fld := ⟨19, 18⟩
def FCFG_SPDM : Fld := ⟨17, 16⟩
def FCFG_SPDN : Fld := ⟨15, 8⟩
def FCFG_MODE : Fld := ⟨2, 0⟩
def FCTL (f : Nat) : Reg := ⟨0x40130004 + 0x400 * f, 0x0⟩
def FCTL_EN : Fld := ⟨0, 0⟩
def FCPR (f : Nat) : Reg := ⟨0x40130008 + 0x400 * f, 0x1000⟩
def FCPR_CPR : Fld := ⟨31, 0⟩
def FIDXV (f : Nat) : Reg := ⟨0x4013000C + 0x400 * f, 0x0⟩
def FIDXV_VAL : Fld := ⟨31, 0⟩
def FTOOTH (f : Nat) : Reg := ⟨0x40130010 + 0x400 * f, 0x20080800⟩
def FTOOTH_THI : Fld := ⟨31, 24⟩
def FTOOTH_TLO : Fld := ⟨23, 16⟩
def FTOOTH_TTYPE : Fld := ⟨13, 13⟩
def FTOOTH_TGAP : Fld := ⟨12, 11⟩
def FSC (f : Nat) : Reg := ⟨0x40130014 + 0x400 * f, 0x20F0⟩
def FSC_SCONV : Fld := ⟨31, 29⟩
def FSC_SSEQ : Fld := ⟨28, 28⟩
def FSC_SENT : Fld := ⟨27, 24⟩
def FSC_CCONV : Fld := ⟨23, 21⟩
def FSC_CSEQ : Fld := ⟨20, 20⟩
def FSC_CENT : Fld := ⟨19, 16⟩
def FSC_AMIN : Fld := ⟨15, 8⟩
def FSC_AMAX : Fld := ⟨7, 0⟩
def FSCOFS (f : Nat) : Reg := ⟨0x40130018 + 0x400 * f, 0x0⟩
def FSCOFS_SOFS : Fld := ⟨31, 16⟩
def FSCOFS_COFS : Fld := ⟨15, 0⟩
def FSSI (f : Nat) : Reg := ⟨0x4013001C + 0x400 * f, 0x12B30014⟩
def FSSI_DIV : Fld := ⟨31, 22⟩
def FSSI_LEN : Fld := ⟨21, 17⟩
def FSSI_GRAY : Fld := ⟨16, 16⟩
def FSSI_TSEL : Fld := ⟨14, 8⟩
def FSSI_MONO : Fld := ⟨7, 0⟩
def FSUP (f : Nat) : Reg := ⟨0x40130020 + 0x400 * f, 0x19⟩
def FSUP_STO : Fld := ⟨31, 24⟩
def FSUP_FMASK : Fld := ⟨12, 0⟩
def FASCFG (f : Nat) : Reg := ⟨0x40130024 + 0x400 * f, 0x0⟩
def FASCFG_ASEN : Fld := ⟨31, 31⟩
def FASCFG_ASDIV : Fld := ⟨7, 0⟩
def FSEL (f : Nat) : Reg := ⟨0x40130028 + 0x400 * f, 0x0⟩
def FSEL_IE : Fld := ⟨28, 16⟩
def FSEL_CGRP : Fld := ⟨3, 0⟩
def FSTAT (f : Nat) : Reg := ⟨0x4013002C + 0x400 * f, 0x0⟩
def FSTAT_STATE : Fld := ⟨31, 30⟩
def FSTAT_DIR : Fld := ⟨29, 29⟩
def FSTAT_REFD : Fld := ⟨28, 28⟩
def FSTAT_STILL : Fld := ⟨27, 27⟩
def FSTAT_LVL : Fld := ⟨26, 24⟩
def FSTAT_CFGERR : Fld := ⟨12, 12⟩
def FSTAT_VOIDF : Fld := ⟨11, 11⟩
def FSTAT_DROPF : Fld := ⟨10, 10⟩
def FSTAT_ASLOSTF : Fld := ⟨9, 9⟩
def FSTAT_CMPF : Fld := ⟨8, 8⟩
def FSTAT_IDXF : Fld := ⟨7, 7⟩
def FSTAT_WRAPF : Fld := ⟨6, 6⟩
def FSTAT_SSIERR : Fld := ⟨5, 5⟩
def FSTAT_SCERR : Fld := ⟨4, 4⟩
def FSTAT_REFERR : Fld := ⟨3, 3⟩
def FSTAT_REFF : Fld := ⟨2, 2⟩
def FSTAT_SKIPF : Fld := ⟨1, 1⟩
def FSTAT_INVF : Fld := ⟨0, 0⟩
def FPOS (f : Nat) : Reg := ⟨0x40130030 + 0x400 * f, 0x0⟩
def FPOS_POS : Fld := ⟨31, 0⟩
def FWRAP (f : Nat) : Reg := ⟨0x40130034 + 0x400 * f, 0x0⟩
def FWRAP_WRAPS : Fld := ⟨31, 0⟩
def FSPOS (f : Nat) : Reg := ⟨0x40130038 + 0x400 * f, 0x0⟩
def FSPOS_SPOS : Fld := ⟨31, 0⟩
def FSTS (f : Nat) : Reg := ⟨0x4013003C + 0x400 * f, 0x0⟩
def FSTS_TS : Fld := ⟨31, 0⟩
def FANG (f : Nat) : Reg := ⟨0x40130040 + 0x400 * f, 0x0⟩
def FANG_ANG : Fld := ⟨31, 0⟩
def FSPD (f : Nat) : Reg := ⟨0x40130044 + 0x400 * f, 0x0⟩
def FSPD_SPD : Fld := ⟨31, 0⟩
def FETS (f : Nat) : Reg := ⟨0x40130048 + 0x400 * f, 0x0⟩
def FETS_TS : Fld := ⟨31, 0⟩
def FIDXP (f : Nat) : Reg := ⟨0x4013004C + 0x400 * f, 0x0⟩
def FIDXP_POS : Fld := ⟨31, 0⟩
def FSSID (f : Nat) : Reg := ⟨0x40130050 + 0x400 * f, 0x0⟩
def FSSID_DATA : Fld := ⟨31, 0⟩
def FERRA (f : Nat) : Reg := ⟨0x40130054 + 0x400 * f, 0x0⟩
def FERRA_INV : Fld := ⟨31, 16⟩
def FERRA_SKIP : Fld := ⟨15, 0⟩
def FERRB (f : Nat) : Reg := ⟨0x40130058 + 0x400 * f, 0x0⟩
def FERRB_SIG : Fld := ⟨31, 16⟩
def FERRB_REF : Fld := ⟨15, 0⟩
def FERRC (f : Nat) : Reg := ⟨0x4013005C + 0x400 * f, 0x0⟩
def FERRC_ASLOST : Fld := ⟨31, 16⟩
def FERRC_DROP : Fld := ⟨15, 0⟩
def FCMD (f : Nat) : Reg := ⟨0x40130060 + 0x400 * f, 0x0⟩
def FCMD_IARM : Fld := ⟨1, 1⟩
def FCMD_SWT : Fld := ⟨0, 0⟩
def FCMPCFG (f k : Nat) : Reg := ⟨0x40130080 + 0x400 * f + 0x10 * k, 0x4⟩
def FCMPCFG_AUTO : Fld := ⟨10, 10⟩
def FCMPCFG_MODE : Fld := ⟨9, 8⟩
def FCMPCFG_HYST : Fld := ⟨7, 0⟩
def FCMP (f k : Nat) : Reg := ⟨0x40130084 + 0x400 * f + 0x10 * k, 0x0⟩
def FCMP_CMP : Fld := ⟨31, 0⟩
def FCMPINC (f k : Nat) : Reg := ⟨0x40130088 + 0x400 * f + 0x10 * k, 0x0⟩
def FCMPINC_INC : Fld := ⟨31, 0⟩
def FCMPTS (f k : Nat) : Reg := ⟨0x4013008C + 0x400 * f + 0x10 * k, 0x0⟩
def FCMPTS_TS : Fld := ⟨31, 0⟩
def FCMPSTAT (f : Nat) : Reg := ⟨0x401300C0 + 0x400 * f, 0x0⟩
def FCMPSTAT_ARMED : Fld := ⟨7, 4⟩
def FCMPSTAT_FIRED : Fld := ⟨3, 0⟩
end FB

namespace TRIAD
def TCFG (t : Nat) : Reg := ⟨0x40120000 + 0x400 * t, 0x1⟩
def TCFG_UPD : Fld := ⟨13, 11⟩
def TCFG_AALN : Fld := ⟨10, 10⟩
def TCFG_TSYNC : Fld := ⟨9, 9⟩
def TCFG_PIMM : Fld := ⟨8, 8⟩
def TCFG_PRESC : Fld := ⟨5, 4⟩
def TCFG_CMODE : Fld := ⟨0, 0⟩
def TCTL (t : Nat) : Reg := ⟨0x40120004 + 0x400 * t, 0x0⟩
def TCTL_EN : Fld := ⟨0, 0⟩
def TPER (t : Nat) : Reg := ⟨0x40120008 + 0x400 * t, 0xFFFF⟩
def TPER_TOP : Fld := ⟨15, 0⟩
def TPHS (t : Nat) : Reg := ⟨0x4012000C + 0x400 * t, 0x0⟩
def TPHS_PDIR : Fld := ⟨16, 16⟩
def TPHS_PHASE : Fld := ⟨15, 0⟩
def TISEL (t : Nat) : Reg := ⟨0x40120010 + 0x400 * t, 0x0⟩
def TISEL_IE : Fld := ⟨22, 16⟩
def TISEL_CGRP : Fld := ⟨3, 0⟩
def TSTAT (t : Nat) : Reg := ⟨0x40120014 + 0x400 * t, 0x0⟩
def TSTAT_STATE : Fld := ⟨31, 30⟩
def TSTAT_SLOPE : Fld := ⟨29, 29⟩
def TSTAT_CFGERR : Fld := ⟨6, 6⟩
def TSTAT_SHORTP : Fld := ⟨5, 5⟩
def TSTAT_SYNCF : Fld := ⟨4, 4⟩
def TSTAT_SAFEF : Fld := ⟨3, 3⟩
def TSTAT_RELF : Fld := ⟨2, 2⟩
def TSTAT_CENTF : Fld := ⟨1, 1⟩
def TSTAT_PSTF : Fld := ⟨0, 0⟩
def TCNT (t : Nat) : Reg := ⟨0x40120018 + 0x400 * t, 0x0⟩
def TCNT_CNT : Fld := ⟨15, 0⟩
def TLOCK (t : Nat) : Reg := ⟨0x4012001C + 0x400 * t, 0x0⟩
def TLOCK_LOCK : Fld := ⟨0, 0⟩
def TCMD (t : Nat) : Reg := ⟨0x40120020 + 0x400 * t, 0x0⟩
def TCMD_SAFE : Fld := ⟨1, 1⟩
def TCMD_RELEASE : Fld := ⟨0, 0⟩
def TERR (t : Nat) : Reg := ⟨0x40120024 + 0x400 * t, 0x0⟩
def TERR_SYNC : Fld := ⟨31, 16⟩
def TERR_SAFE : Fld := ⟨15, 0⟩
def LDUTY (t j : Nat) : Reg := ⟨0x40120040 + 0x400 * t + 0x10 * j, 0x0⟩
def LDUTY_CMP : Fld := ⟨21, 6⟩
def LDUTY_FINE : Fld := ⟨5, 0⟩
def LCFG (t j : Nat) : Reg := ⟨0x40120044 + 0x400 * t + 0x10 * j, 0x60000⟩
def LCFG_TRIPM : Fld := ⟨31, 24⟩
def LCFG_SAFE : Fld := ⟨23, 22⟩
def LCFG_REL : Fld := ⟨21, 21⟩
def LCFG_FORCE : Fld := ⟨20, 19⟩
def LCFG_HPOL : Fld := ⟨18, 18⟩
def LCFG_LPOL : Fld := ⟨17, 17⟩
def LCFG_RPOL : Fld := ⟨16, 16⟩
def LDT (t j : Nat) : Reg := ⟨0x40120048 + 0x400 * t + 0x10 * j, 0xF000F00⟩
def LDT_DTHC : Fld := ⟨31, 22⟩
def LDT_DTHF : Fld := ⟨21, 16⟩
def LDT_DTLC : Fld := ⟨15, 6⟩
def LDT_DTLF : Fld := ⟨5, 0⟩
def LSTAT (t j : Nat) : Reg := ⟨0x4012004C + 0x400 * t + 0x10 * j, 0x0⟩
def LSTAT_CAUSE : Fld := ⟨7, 4⟩
def LSTAT_RELPEND : Fld := ⟨3, 3⟩
def LSTAT_SAFEACT : Fld := ⟨2, 2⟩
def LSTAT_HLVL : Fld := ⟨1, 1⟩
def LSTAT_LLVL : Fld := ⟨0, 0⟩
end TRIAD

namespace RIND
def RLINE : Reg := ⟨0x40110000, 0x0⟩
def RLINE_LINE : Fld := ⟨7, 0⟩
def RSWT : Reg := ⟨0x40110004, 0x0⟩
def RSWT_SET : Fld := ⟨7, 0⟩
def RILAT : Reg := ⟨0x40110008, 0x0⟩
def RILAT_SWL : Fld := ⟨15, 8⟩
def RILAT_IMPL : Fld := ⟨7, 0⟩
def RXEXP : Reg := ⟨0x4011000C, 0x0⟩
def RXEXP_EXP : Fld := ⟨7, 0⟩
def RXMAP : Reg := ⟨0x40110010, 0xFAC688⟩
def RXMAP_CODE : Fld := ⟨23, 0⟩
def RIMAP0 : Reg := ⟨0x40110014, 0x8040201⟩
def RIMAP0_MASK : Fld := ⟨31, 0⟩
def RIMAP1 : Reg := ⟨0x40110018, 0x80402010⟩
def RIMAP1_MASK : Fld := ⟨31, 0⟩
def RSEL : Reg := ⟨0x4011001C, 0x0⟩
def RSEL_IE : Fld := ⟨8, 4⟩
def RSEL_CGRP : Fld := ⟨3, 0⟩
def RSTAT : Reg := ⟨0x40110020, 0x0⟩
def RSTAT_CFGERR : Fld := ⟨4, 4⟩
def RSTAT_EXPDROP : Fld := ⟨3, 3⟩
def RSTAT_EXPF : Fld := ⟨2, 2⟩
def RSTAT_IMPF : Fld := ⟨1, 1⟩
def RSTAT_WINF : Fld := ⟨0, 0⟩
def RCNT : Reg := ⟨0x40110024, 0x0⟩
def RCNT_IMP : Fld := ⟨31, 16⟩
def RCNT_EXP : Fld := ⟨15, 0⟩
def RLAST : Reg := ⟨0x40110028, 0x0⟩
def RLAST_CODE : Fld := ⟨11, 9⟩
def RLAST_PIP : Fld := ⟨8, 0⟩
def RDROP : Reg := ⟨0x4011002C, 0x0⟩
def RDROP_CNT : Fld := ⟨15, 0⟩
def WCFG (w : Nat) : Reg := ⟨0x40110100 + 0x10 * w, 0x202100⟩
def WCFG_TMASK : Fld := ⟨31, 24⟩
def WCFG_HIEN : Fld := ⟨23, 23⟩
def WCFG_LOEN : Fld := ⟨22, 22⟩
def WCFG_LATCH : Fld := ⟨21, 21⟩
def WCFG_CLR : Fld := ⟨20, 20⟩
def WCFG_CTRI : Fld := ⟨19, 16⟩
def WCFG_EN : Fld := ⟨15, 15⟩
def WCFG_HYS : Fld := ⟨14, 13⟩
def WCFG_WIN : Fld := ⟨12, 8⟩
def WCFG_PRESC : Fld := ⟨7, 0⟩
def WTHR (w : Nat) : Reg := ⟨0x40110104 + 0x10 * w, 0x3FF0000⟩
def WTHR_HI : Fld := ⟨25, 16⟩
def WTHR_LO : Fld := ⟨9, 0⟩
def WSTAT (w : Nat) : Reg := ⟨0x40110108 + 0x10 * w, 0x0⟩
def WSTAT_STATE : Fld := ⟨31, 30⟩
def WSTAT_HILAT : Fld := ⟨3, 3⟩
def WSTAT_LOLAT : Fld := ⟨2, 2⟩
def WSTAT_HIEV : Fld := ⟨1, 1⟩
def WSTAT_LOEV : Fld := ⟨0, 0⟩
def WCNT (w : Nat) : Reg := ⟨0x4011010C + 0x10 * w, 0x0⟩
def WCNT_HI : Fld := ⟨31, 16⟩
def WCNT_LO : Fld := ⟨15, 0⟩
end RIND

namespace LE
def LCTL (n : Nat) : Reg := ⟨0x40140000 + 0x400 * n, 0x0⟩
def LCTL_DRIVE : Fld := ⟨1, 1⟩
def LCTL_EN : Fld := ⟨0, 0⟩
def LBIND (n : Nat) : Reg := ⟨0x40140004 + 0x400 * n, 0x0⟩
def LBIND_ASRC : Fld := ⟨16, 16⟩
def LBIND_FB : Fld := ⟨12, 8⟩
def LBIND_TRI : Fld := ⟨3, 0⟩
def LROLE (n : Nat) : Reg := ⟨0x40140008 + 0x400 * n, 0x421⟩
def LROLE_ROLE3 : Fld := ⟨14, 12⟩
def LROLE_ROLE2 : Fld := ⟨10, 8⟩
def LROLE_ROLE1 : Fld := ⟨6, 4⟩
def LROLE_ROLE0 : Fld := ⟨2, 0⟩
def LSLOT (n : Nat) : Reg := ⟨0x4014000C + 0x400 * n, 0x201000⟩
def LSLOT_SLOT : Fld := ⟨31, 0⟩
def LMOTOR (n : Nat) : Reg := ⟨0x40140010 + 0x400 * n, 0x100⟩
def LMOTOR_MODM : Fld := ⟨8, 8⟩
def LMOTOR_PPM1 : Fld := ⟨5, 0⟩
def LEOFS (n : Nat) : Reg := ⟨0x40140014 + 0x400 * n, 0x0⟩
def LEOFS_EOFS : Fld := ⟨31, 0⟩
def LADV (n : Nat) : Reg := ⟨0x40140018 + 0x400 * n, 0x0⟩
def LADV_ADV : Fld := ⟨19, 0⟩
def LAGE (n : Nat) : Reg := ⟨0x4014001C + 0x400 * n, 0x1D4C0⟩
def LAGE_AGEMAX : Fld := ⟨23, 0⟩
def LSET (n : Nat) : Reg := ⟨0x40140020 + 0x400 * n, 0x4000040⟩
def LSET_DSMAX : Fld := ⟨31, 24⟩
def LSET_SKMAX : Fld := ⟨15, 0⟩
def LHOOK (n : Nat) : Reg := ⟨0x40140024 + 0x400 * n, 0x40⟩
def LHOOK_HKEN : Fld := ⟨31, 31⟩
def LHOOK_HKDL : Fld := ⟨11, 0⟩
def LSEL (n : Nat) : Reg := ⟨0x40140028 + 0x400 * n, 0x0⟩
def LSEL_IE : Fld := ⟨25, 16⟩
def LSEL_RGRP : Fld := ⟨7, 4⟩
def LSEL_CGRP : Fld := ⟨3, 0⟩
def LSTAT (n : Nat) : Reg := ⟨0x4014002C + 0x400 * n, 0x0⟩
def LSTAT_STATE : Fld := ⟨31, 30⟩
def LSTAT_SAFEREQ : Fld := ⟨29, 29⟩
def LSTAT_CA : Fld := ⟨28, 28⟩
def LSTAT_CF : Fld := ⟨27, 27⟩
def LSTAT_CD : Fld := ⟨26, 26⟩
def LSTAT_HKPEND : Fld := ⟨25, 25⟩
def LSTAT_CFGERR : Fld := ⟨9, 9⟩
def LSTAT_HKLATE : Fld := ⟨8, 8⟩
def LSTAT_HKMISS : Fld := ⟨7, 7⟩
def LSTAT_COLL : Fld := ⟨6, 6⟩
def LSTAT_SKEWF : Fld := ⟨5, 5⟩
def LSTAT_VOIDF : Fld := ⟨4, 4⟩
def LSTAT_UVF : Fld := ⟨3, 3⟩
def LSTAT_SATF : Fld := ⟨2, 2⟩
def LSTAT_SAFEF : Fld := ⟨1, 1⟩
def LSTAT_DONE : Fld := ⟨0, 0⟩
def LCMD (n : Nat) : Reg := ⟨0x40140030 + 0x400 * n, 0x0⟩
def LCMD_IRST : Fld := ⟨1, 1⟩
def LCMD_RESUME : Fld := ⟨0, 0⟩
def LOFS (n k : Nat) : Reg := ⟨0x40140040 + 0x400 * n + 0x8 * k, 0x0⟩
def LOFS_OFS : Fld := ⟨31, 0⟩
def LGN (n k : Nat) : Reg := ⟨0x40140044 + 0x400 * n + 0x8 * k, 0x3F800000⟩
def LGN_GN : Fld := ⟨31, 0⟩
def LKPD (n : Nat) : Reg := ⟨0x40140060 + 0x400 * n, 0x0⟩
def LKPD_KP : Fld := ⟨31, 0⟩
def LKID (n : Nat) : Reg := ⟨0x40140064 + 0x400 * n, 0x0⟩
def LKID_KI : Fld := ⟨31, 0⟩
def LKPQ (n : Nat) : Reg := ⟨0x40140068 + 0x400 * n, 0x0⟩
def LKPQ_KP : Fld := ⟨31, 0⟩
def LKIQ (n : Nat) : Reg := ⟨0x4014006C + 0x400 * n, 0x0⟩
def LKIQ_KI : Fld := ⟨31, 0⟩
def LMLIM (n : Nat) : Reg := ⟨0x40140070 + 0x400 * n, 0x3F800000⟩
def LMLIM_MLIM : Fld := ⟨31, 0⟩
def LDFRAC (n : Nat) : Reg := ⟨0x40140074 + 0x400 * n, 0x3F000000⟩
def LDFRAC_DFRAC : Fld := ⟨31, 0⟩
def LDMIN (n : Nat) : Reg := ⟨0x40140078 + 0x400 * n, 0x0⟩
def LDMIN_DMIN : Fld := ⟨31, 0⟩
def LDMAX (n : Nat) : Reg := ⟨0x4014007C + 0x400 * n, 0x3F800000⟩
def LDMAX_DMAX : Fld := ⟨31, 0⟩
def LVDCN (n : Nat) : Reg := ⟨0x40140080 + 0x400 * n, 0x44160000⟩
def LVDCN_VDC : Fld := ⟨31, 0⟩
def LVDCMIN (n : Nat) : Reg := ⟨0x40140084 + 0x400 * n, 0x42C80000⟩
def LVDCMIN_VMIN : Fld := ⟨31, 0⟩
def LIDREF (n : Nat) : Reg := ⟨0x40140090 + 0x400 * n, 0x0⟩
def LIDREF_REF : Fld := ⟨31, 0⟩
def LIQREF (n : Nat) : Reg := ⟨0x40140094 + 0x400 * n, 0x0⟩
def LIQREF_REF : Fld := ⟨31, 0⟩
def LFFD (n : Nat) : Reg := ⟨0x40140098 + 0x400 * n, 0x0⟩
def LFFD_FF : Fld := ⟨31, 0⟩
def LFFQ (n : Nat) : Reg := ⟨0x4014009C + 0x400 * n, 0x0⟩
def LFFQ_FF : Fld := ⟨31, 0⟩
def LID (n : Nat) : Reg := ⟨0x401400A0 + 0x400 * n, 0x0⟩
def LID_ID : Fld := ⟨31, 0⟩
def LIQ (n : Nat) : Reg := ⟨0x401400A4 + 0x400 * n, 0x0⟩
def LIQ_IQ : Fld := ⟨31, 0⟩
def LVD (n : Nat) : Reg := ⟨0x401400A8 + 0x400 * n, 0x0⟩
def LVD_VD : Fld := ⟨31, 0⟩
def LVQ (n : Nat) : Reg := ⟨0x401400AC + 0x400 * n, 0x0⟩
def LVQ_VQ : Fld := ⟨31, 0⟩
def LINTD (n : Nat) : Reg := ⟨0x401400B0 + 0x400 * n, 0x0⟩
def LINTD_INT : Fld := ⟨31, 0⟩
def LINTQ (n : Nat) : Reg := ⟨0x401400B4 + 0x400 * n, 0x0⟩
def LINTQ_INT : Fld := ⟨31, 0⟩
def LTHE (n : Nat) : Reg := ⟨0x401400B8 + 0x400 * n, 0x0⟩
def LTHE_TE : Fld := ⟨31, 0⟩
def LVDC (n : Nat) : Reg := ⟨0x401400BC + 0x400 * n, 0x0⟩
def LVDC_VDC : Fld := ⟨31, 0⟩
def LTS (n : Nat) : Reg := ⟨0x401400C0 + 0x400 * n, 0x0⟩
def LTS_TS : Fld := ⟨31, 0⟩
def LSKEW (n : Nat) : Reg := ⟨0x401400C4 + 0x400 * n, 0x0⟩
def LSKEW_DELTA : Fld := ⟨31, 0⟩
def LSETS (n : Nat) : Reg := ⟨0x401400C8 + 0x400 * n, 0x0⟩
def LSETS_CNT : Fld := ⟨31, 0⟩
def LHID (n : Nat) : Reg := ⟨0x401400D0 + 0x400 * n, 0x0⟩
def LHID_ID : Fld := ⟨31, 0⟩
def LHIQ (n : Nat) : Reg := ⟨0x401400D4 + 0x400 * n, 0x0⟩
def LHIQ_IQ : Fld := ⟨31, 0⟩
def LHOD (n : Nat) : Reg := ⟨0x401400D8 + 0x400 * n, 0x0⟩
def LHOD_ID : Fld := ⟨31, 0⟩
def LHOQ (n : Nat) : Reg := ⟨0x401400DC + 0x400 * n, 0x0⟩
def LHOQ_IQ : Fld := ⟨31, 0⟩
def LHCMD (n : Nat) : Reg := ⟨0x401400E0 + 0x400 * n, 0x0⟩
def LHCMD_SEQ : Fld := ⟨31, 16⟩
def LHCMD_OVR : Fld := ⟨1, 1⟩
def LHCMD_GO : Fld := ⟨0, 0⟩
def LHSEQ (n : Nat) : Reg := ⟨0x401400E4 + 0x400 * n, 0x0⟩
def LHSEQ_PEND : Fld := ⟨16, 16⟩
def LHSEQ_SEQ : Fld := ⟨15, 0⟩
def LSWANG (n : Nat) : Reg := ⟨0x401400F0 + 0x400 * n, 0x0⟩
def LSWANG_ANG : Fld := ⟨31, 0⟩
def LSWSPD (n : Nat) : Reg := ⟨0x401400F4 + 0x400 * n, 0x0⟩
def LSWSPD_SPD : Fld := ⟨31, 0⟩
def LSWTS (n : Nat) : Reg := ⟨0x401400F8 + 0x400 * n, 0x0⟩
def LSWTS_TS : Fld := ⟨31, 0⟩
def LERRA (n : Nat) : Reg := ⟨0x40140100 + 0x400 * n, 0x0⟩
def LERRA_DISC : Fld := ⟨31, 16⟩
def LERRA_COLL : Fld := ⟨15, 0⟩
def LERRB (n : Nat) : Reg := ⟨0x40140104 + 0x400 * n, 0x0⟩
def LERRB_HKMISS : Fld := ⟨31, 16⟩
def LERRB_HKLATE : Fld := ⟨15, 0⟩
def LERRC (n : Nat) : Reg := ⟨0x40140108 + 0x400 * n, 0x0⟩
def LERRC_SAFE : Fld := ⟨31, 16⟩
def LERRC_ALOSS : Fld := ⟨15, 0⟩
end LE

namespace PRESS
def PSTAT : Reg := ⟨0x40200000, 0x0⟩
def PSTAT_ALMF : Fld := ⟨7, 7⟩
def PSTAT_SUSPF : Fld := ⟨6, 6⟩
def PSTAT_CANCF : Fld := ⟨5, 5⟩
def PSTAT_LATEF : Fld := ⟨4, 4⟩
def PSTAT_SHEDF : Fld := ⟨3, 3⟩
def PSTAT_CMTERR : Fld := ⟨1, 1⟩
def PSTAT_CFGERR : Fld := ⟨0, 0⟩
def PSEL : Reg := ⟨0x40200004, 0x0⟩
def PSEL_IE : Fld := ⟨23, 16⟩
def PSEL_CGRP : Fld := ⟨3, 0⟩
def PLOAD : Reg := ⟨0x40200008, 0x0⟩
def PLOAD_STREAM : Fld := ⟨25, 16⟩
def PLOAD_BACKLOG : Fld := ⟨15, 0⟩
def PERRCTX : Reg := ⟨0x4020000C, 0x0⟩
def PERRCTX_CTX : Fld := ⟨25, 16⟩
def PERRCTX_CODE : Fld := ⟨2, 0⟩
def PSHED (c : Nat) : Reg := ⟨0x40200010 + 0x4 * c, 0x0⟩
def PSHED_CNT : Fld := ⟨31, 0⟩
def PLATE (c : Nat) : Reg := ⟨0x40200020 + 0x4 * c, 0x0⟩
def PLATE_CNT : Fld := ⟨31, 0⟩
def PCANCEL : Reg := ⟨0x40200030, 0x0⟩
def PCANCEL_CNT : Fld := ⟨31, 0⟩
def PSUSP : Reg := ⟨0x40200034, 0x0⟩
def PSUSP_CNT : Fld := ⟨31, 0⟩
def LNCFG (c : Nat) : Reg := ⟨0x40200100 + 0x4 * c, 0x20⟩
def LNCFG_CEL : Fld := ⟨31, 31⟩
def LNCFG_MC : Fld := ⟨10, 0⟩
def PCSTATE (w : Nat) : Reg := ⟨0x40200300 + 0x4 * w, 0x0⟩
def PCSTATE_STATE : Fld := ⟨31, 0⟩
def PCGRP (w : Nat) : Reg := ⟨0x40200400 + 0x4 * w, 0x0⟩
def PCGRP_CGRP : Fld := ⟨31, 0⟩
end PRESS

namespace CTX
def CCTL (c : Nat) : Reg := ⟨0x40280000 + 0x200 * c, 0x1⟩
def CCTL_EN : Fld := ⟨31, 31⟩
def CCTL_CLASS : Fld := ⟨30, 29⟩
def CCTL_CHAN : Fld := ⟨22, 16⟩
def CCTL_DL : Fld := ⟨15, 0⟩
def CPATH (c : Nat) : Reg := ⟨0x40280004 + 0x200 * c, 0x0⟩
def CPATH_INTEG : Fld := ⟨31, 31⟩
def CPATH_ENV : Fld := ⟨30, 30⟩
def CPATH_ORDER : Fld := ⟨29, 29⟩
def CPATH_ACRMS : Fld := ⟨28, 28⟩
def CPATH_RTRIG : Fld := ⟨27, 27⟩
def CPATH_FB : Fld := ⟨26, 22⟩
def CPATH_MXLOG : Fld := ⟨21, 18⟩
def CPATH_EDEC : Fld := ⟨17, 15⟩
def CPATH_NRLOG : Fld := ⟨14, 11⟩
def CPATH_BLOG : Fld := ⟨10, 7⟩
def CPATH_OVL : Fld := ⟨6, 5⟩
def CPATH_WIN : Fld := ⟨4, 3⟩
def CPATH_AVGM : Fld := ⟨2, 1⟩
def CPATH_ASEL : Fld := ⟨0, 0⟩
def CAVG (c : Nat) : Reg := ⟨0x40280008 + 0x200 * c, 0x0⟩
def CAVG_AVGN : Fld := ⟨31, 24⟩
def CAVG_NBAND : Fld := ⟨21, 16⟩
def CAVG_NORD : Fld := ⟨13, 8⟩
def CAVG_RING : Fld := ⟨2, 0⟩
def CSCALE (c : Nat) : Reg := ⟨0x4028000C + 0x200 * c, 0x3F800000⟩
def CSCALE_SCALE : Fld := ⟨31, 0⟩
def COFS (c : Nat) : Reg := ⟨0x40280010 + 0x200 * c, 0x0⟩
def COFS_OFS : Fld := ⟨31, 0⟩
def IHPF (c : Nat) : Reg := ⟨0x40280014 + 0x200 * c, 0x40000000⟩
def IHPF_HZ : Fld := ⟨31, 0⟩
def ISCALE (c : Nat) : Reg := ⟨0x40280018 + 0x200 * c, 0x3F800000⟩
def ISCALE_SCALE : Fld := ⟨31, 0⟩
def EBLO (c : Nat) : Reg := ⟨0x4028001C + 0x200 * c, 0x43FA0000⟩
def EBLO_HZ : Fld := ⟨31, 0⟩
def EBHI (c : Nat) : Reg := ⟨0x40280020 + 0x200 * c, 0x44FA0000⟩
def EBHI_HZ : Fld := ⟨31, 0⟩
def ELP (c : Nat) : Reg := ⟨0x40280024 + 0x200 * c, 0x43480000⟩
def ELP_HZ : Fld := ⟨31, 0⟩
def RTPCT (c : Nat) : Reg := ⟨0x40280028 + 0x200 * c, 0x3D4CCCCD⟩
def RTPCT_FRAC : Fld := ⟨31, 0⟩
def CWS (c : Nat) : Reg := ⟨0x4028002C + 0x200 * c, 0x0⟩
def CWS_ADDR : Fld := ⟨31, 0⟩
def CBAND (c b : Nat) : Reg := ⟨0x40280040 + 0x200 * c + 0x4 * b, 0x0⟩
def CBAND_KHI : Fld := ⟨31, 16⟩
def CBAND_KLO : Fld := ⟨15, 0⟩
def CORD (c m : Nat) : Reg := ⟨0x402800C0 + 0x200 * c + 0x4 * m, 0x0⟩
def CORD_LINE1 : Fld := ⟨31, 16⟩
def CORD_LINE0 : Fld := ⟨15, 0⟩
def CSTAT (c : Nat) : Reg := ⟨0x40280100 + 0x200 * c, 0x0⟩
def CSTAT_STATE : Fld := ⟨31, 30⟩
def CSTAT_SUSP : Fld := ⟨29, 29⟩
def CSTAT_NOREF : Fld := ⟨28, 28⟩
def CSTAT_GAP : Fld := ⟨27, 27⟩
def CSTAT_FILL : Fld := ⟨23, 0⟩
def CNBLK (c : Nat) : Reg := ⟨0x40280104 + 0x200 * c, 0x0⟩
def CNBLK_CNT : Fld := ⟨31, 0⟩
def CNREC (c : Nat) : Reg := ⟨0x40280108 + 0x200 * c, 0x0⟩
def CNREC_CNT : Fld := ⟨31, 0⟩
def CJERR (c : Nat) : Reg := ⟨0x4028010C + 0x200 * c, 0x0⟩
def CJERR_SHED : Fld := ⟨31, 16⟩
def CJERR_LATE : Fld := ⟨15, 0⟩
def CSERR (c : Nat) : Reg := ⟨0x40280110 + 0x200 * c, 0x0⟩
def CSERR_ODISC : Fld := ⟨31, 16⟩
def CSERR_RETRIG : Fld := ⟨15, 0⟩
def CPATCH (c : Nat) : Reg := ⟨0x40280114 + 0x200 * c, 0x0⟩
def CPATCH_CNT : Fld := ⟨31, 0⟩
def CVOID (c : Nat) : Reg := ⟨0x40280118 + 0x200 * c, 0x0⟩
def CVOID_CNT : Fld := ⟨31, 0⟩
def CAVGN (c : Nat) : Reg := ⟨0x4028011C + 0x200 * c, 0x0⟩
def CAVGN_CNT : Fld := ⟨31, 0⟩
def CBTSLO (c : Nat) : Reg := ⟨0x40280120 + 0x200 * c, 0x0⟩
def CBTSLO_TS : Fld := ⟨31, 0⟩
def CBTSHI (c : Nat) : Reg := ⟨0x40280124 + 0x200 * c, 0x0⟩
def CBTSHI_TS : Fld := ⟨31, 0⟩
def CSPD (c : Nat) : Reg := ⟨0x40280128 + 0x200 * c, 0x0⟩
def CSPD_SPD : Fld := ⟨31, 0⟩
def CSPD0 (c : Nat) : Reg := ⟨0x4028012C + 0x200 * c, 0x0⟩
def CSPD0_SPD : Fld := ⟨31, 0⟩
def CDEAD (c : Nat) : Reg := ⟨0x40280130 + 0x200 * c, 0x0⟩
def CDEAD_TNO : Fld := ⟨31, 0⟩
def CPEND (c : Nat) : Reg := ⟨0x40280134 + 0x200 * c, 0x0⟩
def CPEND_JOBS : Fld := ⟨2, 0⟩
def CALM (c w : Nat) : Reg := ⟨0x40280138 + 0x200 * c + 0x4 * w, 0x0⟩
def CALM_STATE : Fld := ⟨31, 0⟩
end CTX

namespace POUT
def OSTAT : Reg := ⟨0x40210000, 0x0⟩
def OSTAT_SNDONE : Fld := ⟨7, 7⟩
def OSTAT_SNDROPF : Fld := ⟨6, 6⟩
def OSTAT_CELSUSPF : Fld := ⟨5, 5⟩
def OSTAT_SPOVF : Fld := ⟨4, 4⟩
def OSTAT_QOVF : Fld := ⟨3, 3⟩
def OSTAT_CMTERR : Fld := ⟨1, 1⟩
def OSTAT_CFGERR : Fld := ⟨0, 0⟩
def OSEL : Reg := ⟨0x40210004, 0x0⟩
def OSEL_IE : Fld := ⟨23, 16⟩
def OSEL_CGRP : Fld := ⟨3, 0⟩
def OFMT : Reg := ⟨0x40210008, 0x101⟩
def OFMT_MAJOR : Fld := ⟨15, 8⟩
def OFMT_MINOR : Fld := ⟨7, 0⟩
def PRCK : Reg := ⟨0x4021000C, 0x0⟩
def PRCK_EN : Fld := ⟨31, 31⟩
def PRCK_CVU : Fld := ⟨2, 0⟩
def PRCKSEED : Reg := ⟨0x40210010, 0xFFFFFFFF⟩
def PRCKSEED_SEED : Fld := ⟨31, 0⟩
def OQFILL : Reg := ⟨0x40210014, 0x0⟩
def OQFILL_FILL : Fld := ⟨8, 0⟩
def SPBASE : Reg := ⟨0x40210018, 0x0⟩
def SPBASE_ADDR : Fld := ⟨29, 0⟩
def SPLEN : Reg := ⟨0x4021001C, 0x0⟩
def SPLEN_LEN : Fld := ⟨23, 0⟩
def SPFILL : Reg := ⟨0x40210020, 0x0⟩
def SPFILL_FILL : Fld := ⟨23, 0⟩
def SPOVF : Reg := ⟨0x40210024, 0x0⟩
def SPOVF_CNT : Fld := ⟨31, 0⟩
def SNBASE : Reg := ⟨0x40210028, 0x0⟩
def SNBASE_ADDR : Fld := ⟨29, 0⟩
def SNLEN : Reg := ⟨0x4021002C, 0x0⟩
def SNLEN_LEN : Fld := ⟨29, 0⟩
def SNDROP : Reg := ⟨0x40210030, 0x0⟩
def SNDROP_CNT : Fld := ⟨31, 0⟩
def SNMERGE : Reg := ⟨0x40210034, 0x0⟩
def SNMERGE_CNT : Fld := ⟨31, 0⟩
def CELRATE : Reg := ⟨0x40210038, 0x0⟩
def CELRATE_RATE : Fld := ⟨22, 0⟩
def PQOVF (r : Nat) : Reg := ⟨0x40210040 + 0x4 * r, 0x0⟩
def PQOVF_CNT : Fld := ⟨31, 0⟩
def CELSUSP (w : Nat) : Reg := ⟨0x40210060 + 0x4 * w, 0x0⟩
def CELSUSP_SUSP : Fld := ⟨31, 0⟩
def CELBASE (c : Nat) : Reg := ⟨0x40210100 + 0x8 * c, 0x0⟩
def CELBASE_ADDR : Fld := ⟨29, 0⟩
def CELLEN (c : Nat) : Reg := ⟨0x40210104 + 0x8 * c, 0x400⟩
def CELLEN_LEN : Fld := ⟨23, 0⟩
def SNCFG (s : Nat) : Reg := ⟨0x40210500 + 0x20 * s, 0x0⟩
def SNCFG_EN : Fld := ⟨31, 31⟩
def SNCFG_ALM : Fld := ⟨30, 30⟩
def SNCFG_SCHED : Fld := ⟨29, 29⟩
def SNCFG_SEV : Fld := ⟨26, 26⟩
def SNCFG_CTX : Fld := ⟨25, 16⟩
def SNWIN (s : Nat) : Reg := ⟨0x40210504 + 0x20 * s, 0x3E803E8⟩
def SNWIN_PRE : Fld := ⟨31, 16⟩
def SNWIN_POST : Fld := ⟨15, 0⟩
def SNPER (s : Nat) : Reg := ⟨0x40210508 + 0x20 * s, 0x0⟩
def SNPER_PER : Fld := ⟨31, 0⟩
def SNNEXT (s : Nat) : Reg := ⟨0x4021050C + 0x20 * s, 0x0⟩
def SNNEXT_TNO : Fld := ⟨31, 0⟩
def SNLANE (s w : Nat) : Reg := ⟨0x40210510 + 0x20 * s + 0x4 * w, 0x0⟩
def SNLANE_MASK : Fld := ⟨31, 0⟩
end POUT

namespace CORE
def FEAT0 (c : Nat) : Reg := ⟨0x40410000 + coreOff c, BitVec.ofNat 32 (0x1010000 + c)⟩
def FEAT0_MAJOR : Fld := ⟨31, 24⟩
def FEAT0_MINOR : Fld := ⟨23, 16⟩
def FEAT0_CORE : Fld := ⟨2, 0⟩
def FEAT1 (c : Nat) : Reg := ⟨0x40410004 + coreOff c, 0xF⟩
def FEAT1_DUAL : Fld := ⟨3, 3⟩
def FEAT1_CORDIC : Fld := ⟨2, 2⟩
def FEAT1_VMAC : Fld := ⟨1, 1⟩
def FEAT1_DIV : Fld := ⟨0, 0⟩
def FEAT2 (c : Nat) : Reg := ⟨0x40410008 + coreOff c, 0x7FF⟩
def FEAT2_TAGS : Fld := ⟨15, 0⟩
def FEAT3 (c : Nat) : Reg := ⟨0x4041000C + coreOff c, 0x4400020⟩
def FEAT3_FWIN : Fld := ⟨31, 24⟩
def FEAT3_FWORDS : Fld := ⟨23, 16⟩
def FEAT3_L1KIB : Fld := ⟨15, 0⟩
def AFLAGS (c : Nat) : Reg := ⟨0x40410010 + coreOff c, 0x0⟩
def AFLAGS_IEEE : Fld := ⟨12, 8⟩
def AFLAGS_SAT : Fld := ⟨4, 4⟩
def AFLAGS_REL : Fld := ⟨1, 0⟩
def FPTRAP (c : Nat) : Reg := ⟨0x40410014 + coreOff c, 0x0⟩
def FPTRAP_EN : Fld := ⟨4, 0⟩
def PWB (c : Nat) : Reg := ⟨0x40410018 + coreOff c, 0x40000000⟩
def PWB_BASE : Fld := ⟨31, 14⟩
def TKB (c : Nat) : Reg := ⟨0x4041001C + coreOff c, 0x10000801⟩
def TKB_BASE : Fld := ⟨31, 12⟩
def TKB_SZ : Fld := ⟨11, 8⟩
def TKB_NLOG : Fld := ⟨2, 0⟩
def STATUS (c : Nat) : Reg := ⟨0x40411000 + coreOff c, 0x0⟩
def CCTL (c : Nat) : Reg := ⟨0x40411004 + coreOff c, 0xE⟩
def CCTL_DUALEN : Fld := ⟨3, 3⟩
def CCTL_PREDEN : Fld := ⟨2, 2⟩
def CCTL_L1EN : Fld := ⟨1, 1⟩
def CCTL_DETM : Fld := ⟨0, 0⟩
def HPRIV (c : Nat) : Reg := ⟨0x40411008 + coreOff c, 0x2⟩
def HPRIV_IPRIV : Fld := ⟨1, 1⟩
def HPRIV_FPRIV : Fld := ⟨0, 0⟩
def FP (c : Nat) : Reg := ⟨0x4041100C + coreOff c, 0x0⟩
def FP_FP : Fld := ⟨31, 0⟩
def SP (c p : Nat) : Reg := ⟨0x40411010 + coreOff c + 0x4 * p, 0x0⟩
def SP_SP : Fld := ⟨31, 0⟩
def FCAUSE (c : Nat) : Reg := ⟨0x4041101C + coreOff c, 0x0⟩
def FCAUSE_VEC : Fld := ⟨31, 24⟩
def FCAUSE_CODE : Fld := ⟨23, 16⟩
def FCAUSE_OPND : Fld := ⟨15, 8⟩
def FADDR (c : Nat) : Reg := ⟨0x40411020 + coreOff c, 0x0⟩
def FADDR_ADDR : Fld := ⟨31, 0⟩
def L1CTL (c : Nat) : Reg := ⟨0x40411024 + coreOff c, 0x0⟩
def L1CTL_INVAL : Fld := ⟨0, 0⟩
def GTBASE (c : Nat) : Reg := ⟨0x40411028 + coreOff c, 0x0⟩
def GTBASE_BASE : Fld := ⟨31, 4⟩
def GTLEN (c : Nat) : Reg := ⟨0x4041102C + coreOff c, 0x0⟩
def GTLEN_LEN : Fld := ⟨8, 0⟩
def FVEC (c k : Nat) : Reg := ⟨0x40411040 + coreOff c + 0x4 * k, 0x0⟩
def FVEC_ENTRY : Fld := ⟨31, 0⟩
def MPUCTL (c : Nat) : Reg := ⟨0x40411080 + coreOff c, 0x2⟩
def MPUCTL_SDEF : Fld := ⟨1, 1⟩
def MPUCTL_MCHK : Fld := ⟨0, 0⟩
def MPUBASE (c i : Nat) : Reg := ⟨0x40411100 + coreOff c + 0x10 * i, 0x0⟩
def MPUBASE_BASE : Fld := ⟨31, 5⟩
def MPULIM (c i : Nat) : Reg := ⟨0x40411104 + coreOff c + 0x10 * i, 0x0⟩
def MPULIM_LIMIT : Fld := ⟨31, 5⟩
def MPUATTR (c i : Nat) : Reg := ⟨0x40411108 + coreOff c + 0x10 * i, 0x0⟩
def MPUATTR_EN : Fld := ⟨8, 8⟩
def MPUATTR_C : Fld := ⟨7, 7⟩
def MPUATTR_SX : Fld := ⟨5, 5⟩
def MPUATTR_SW : Fld := ⟨4, 4⟩
def MPUATTR_SR : Fld := ⟨3, 3⟩
def MPUATTR_TX : Fld := ⟨2, 2⟩
def MPUATTR_TW : Fld := ⟨1, 1⟩
def MPUATTR_TR : Fld := ⟨0, 0⟩
def SSPC (c s : Nat) : Reg := ⟨0x40411200 + coreOff c + 0x20 * s, 0x0⟩
def SSPC_PC : Fld := ⟨31, 0⟩
def SSST (c s : Nat) : Reg := ⟨0x40411204 + coreOff c + 0x20 * s, 0x0⟩
def SSST_STATUS : Fld := ⟨31, 0⟩
def SSFP (c s : Nat) : Reg := ⟨0x40411208 + coreOff c + 0x20 * s, 0x0⟩
def SSFP_FP : Fld := ⟨31, 0⟩
def SSSP (c s : Nat) : Reg := ⟨0x4041120C + coreOff c + 0x20 * s, 0x0⟩
def SSSP_SP : Fld := ⟨31, 0⟩
def SSPRG (c s : Nat) : Reg := ⟨0x40411210 + coreOff c + 0x20 * s, 0x0⟩
def SSPRG_PROG : Fld := ⟨31, 0⟩
def SSCP (c s : Nat) : Reg := ⟨0x40411214 + coreOff c + 0x20 * s, 0x0⟩
def SSCP_CPRIV : Fld := ⟨1, 0⟩
end CORE

namespace PAIRC
def PCTL (p : Nat) : Reg := ⟨0x40070000 + 0x40 * p, 0x10001000⟩
def PCTL_MAXSLIP : Fld := ⟨28, 20⟩
def PCTL_MINSLIP : Fld := ⟨17, 9⟩
def PCTL_MODE : Fld := ⟨0, 0⟩
def PWIN (p : Nat) : Reg := ⟨0x40070004 + 0x40 * p, 0x1000⟩
def PWIN_ILIM : Fld := ⟨16, 0⟩
def POCWIN (p : Nat) : Reg := ⟨0x40070008 + 0x40 * p, 0x0⟩
def POCWIN_WIN : Fld := ⟨15, 0⟩
def PSEL (p : Nat) : Reg := ⟨0x4007000C + 0x40 * p, 0x0⟩
def PSEL_IE : Fld := ⟨12, 8⟩
def PSEL_CGRP : Fld := ⟨3, 0⟩
def PSTAT (p : Nat) : Reg := ⟨0x40070010 + 0x40 * p, 0x0⟩
def PSTAT_MODE : Fld := ⟨30, 30⟩
def PSTAT_MPEND : Fld := ⟨29, 29⟩
def PSTAT_SLIP : Fld := ⟨28, 20⟩
def PSTAT_OQFILL : Fld := ⟨19, 13⟩
def PSTAT_DCAUSE : Fld := ⟨12, 11⟩
def PSTAT_WDWARN : Fld := ⟨4, 4⟩
def PSTAT_CFGERR : Fld := ⟨3, 3⟩
def PSTAT_OQSTALL : Fld := ⟨2, 2⟩
def PSTAT_LOGSTALL : Fld := ⟨1, 1⟩
def PSTAT_DIVF : Fld := ⟨0, 0⟩
def PWINCNT (p : Nat) : Reg := ⟨0x40070014 + 0x40 * p, 0x0⟩
def PWINCNT_CNT : Fld := ⟨31, 0⟩
def PERR (p : Nat) : Reg := ⟨0x40070018 + 0x40 * p, 0x0⟩
def PERR_DIV : Fld := ⟨31, 16⟩
def PERR_OQSTALL : Fld := ⟨15, 0⟩
def PDLSLO (p : Nat) : Reg := ⟨0x4007001C + 0x40 * p, 0x0⟩
def PDLSLO_SIG : Fld := ⟨31, 0⟩
def PDLSHI (p : Nat) : Reg := ⟨0x40070020 + 0x40 * p, 0x0⟩
def PDLSHI_SIG : Fld := ⟨31, 0⟩
def PDFSLO (p : Nat) : Reg := ⟨0x40070024 + 0x40 * p, 0x0⟩
def PDFSLO_SIG : Fld := ⟨31, 0⟩
def PDFSHI (p : Nat) : Reg := ⟨0x40070028 + 0x40 * p, 0x0⟩
def PDFSHI_SIG : Fld := ⟨31, 0⟩
def PWDCFG (p : Nat) : Reg := ⟨0x4007002C + 0x40 * p, 0xFA0⟩
def PWDCFG_EN : Fld := ⟨31, 31⟩
def PWDCFG_BOTH : Fld := ⟨30, 30⟩
def PWDCFG_WARN : Fld := ⟨23, 16⟩
def PWDCFG_LIMIT : Fld := ⟨15, 0⟩
def PWDSVC (p : Nat) : Reg := ⟨0x40070030 + 0x40 * p, 0x0⟩
def PWDSVC_KEY : Fld := ⟨15, 0⟩
def PWDCNT (p : Nat) : Reg := ⟨0x40070034 + 0x40 * p, 0xFA0⟩
def PWDCNT_LEFT : Fld := ⟨15, 0⟩
def TWCFG : Reg := ⟨0x40070400, 0xF000010⟩
def TWCFG_EN : Fld := ⟨31, 31⟩
def TWCFG_PREF : Fld := ⟨30, 30⟩
def TWCFG_SIGTO : Fld := ⟨29, 29⟩
def TWCFG_PMASK : Fld := ⟨27, 24⟩
def TWCFG_RFLT : Fld := ⟨23, 16⟩
def TWCFG_SDL : Fld := ⟨7, 0⟩
def TWMIR : Reg := ⟨0x40070404, 0x10000000⟩
def TWMIR_BASE : Fld := ⟨31, 12⟩
def TWMIR_LEN : Fld := ⟨9, 0⟩
def TWSEL : Reg := ⟨0x40070408, 0x0⟩
def TWSEL_IE : Fld := ⟨15, 8⟩
def TWSEL_CGRP : Fld := ⟨3, 0⟩
def TWSTAT : Reg := ⟨0x4007040C, 0x8000000⟩
def TWSTAT_STATE : Fld := ⟨31, 29⟩
def TWSTAT_PEERRDY : Fld := ⟨28, 28⟩
def TWSTAT_ACT : Fld := ⟨27, 27⟩
def TWSTAT_PEER : Fld := ⟨26, 26⟩
def TWSTAT_CFGERR : Fld := ⟨7, 7⟩
def TWSTAT_MIROVF : Fld := ⟨6, 6⟩
def TWSTAT_MIRLATE : Fld := ⟨5, 5⟩
def TWSTAT_SIGF : Fld := ⟨4, 4⟩
def TWSTAT_HBMISS : Fld := ⟨3, 3⟩
def TWSTAT_TAKEOVER : Fld := ⟨2, 2⟩
def TWSTAT_YIELD : Fld := ⟨1, 1⟩
def TWSTAT_PEERF : Fld := ⟨0, 0⟩
def TWCNTA : Reg := ⟨0x40070410, 0x0⟩
def TWCNTA_HBMISS : Fld := ⟨31, 16⟩
def TWCNTA_SIGF : Fld := ⟨15, 0⟩
def TWCNTB : Reg := ⟨0x40070414, 0x0⟩
def TWCNTB_MIRLATE : Fld := ⟨31, 16⟩
def TWCNTB_MIROVF : Fld := ⟨15, 0⟩
def TWLAST : Reg := ⟨0x40070418, 0x0⟩
def TWLAST_CAUSE : Fld := ⟨31, 29⟩
def TWTNO : Reg := ⟨0x4007041C, 0x0⟩
def TWTNO_TNO : Fld := ⟨31, 0⟩
def TWMBYTES : Reg := ⟨0x40070420, 0x10000000⟩
def TWMBYTES_MAX : Fld := ⟨31, 16⟩
def TWMBYTES_LAST : Fld := ⟨15, 0⟩
def TWCMD : Reg := ⟨0x40070424, 0x0⟩
def TWCMD_REBIND : Fld := ⟨1, 1⟩
def TWCMD_SWITCH : Fld := ⟨0, 0⟩
def TWRSZ : Reg := ⟨0x40070428, 0x0⟩
def TWRSZ_BYTES : Fld := ⟨31, 0⟩
end PAIRC

namespace ICU
def ISTAT : Reg := ⟨0x40030000, 0x0⟩
def ISTAT_VECERR : Fld := ⟨1, 1⟩
def ISTAT_CFGERR : Fld := ⟨0, 0⟩
def ISEL : Reg := ⟨0x40030004, 0x0⟩
def ISEL_IE : Fld := ⟨1, 0⟩
def IVERR : Reg := ⟨0x40030008, 0x0⟩
def IVERR_SRC : Fld := ⟨9, 0⟩
def ITKCNT : Reg := ⟨0x4003000C, 0x0⟩
def ITKCNT_CNT : Fld := ⟨15, 0⟩
def ICORE (c : Nat) : Reg := ⟨0x40030040 + 0x4 * c, 0x0⟩
def ICORE_ENT : Fld := ⟨31, 31⟩
def ICORE_PAIRED : Fld := ⟨30, 30⟩
def ICORE_SRC : Fld := ⟨25, 16⟩
def ICORE_PRIO : Fld := ⟨3, 0⟩
def IPEND (w : Nat) : Reg := ⟨0x40030100 + 0x4 * w, 0x0⟩
def IPEND_PEND : Fld := ⟨31, 0⟩
def ISET (w : Nat) : Reg := ⟨0x40030180 + 0x4 * w, 0x0⟩
def ISET_SET : Fld := ⟨31, 0⟩
def IACT (w : Nat) : Reg := ⟨0x40030200 + 0x4 * w, 0x0⟩
def IACT_ACT : Fld := ⟨31, 0⟩
def IMASK (w : Nat) : Reg := ⟨0x40030280 + 0x4 * w, 0x0⟩
def IMASK_MASK : Fld := ⟨31, 0⟩
def IHOLD (g : Nat) : Reg := ⟨0x40030300 + 0x4 * g, 0x0⟩
def IHOLD_HOLD : Fld := ⟨15, 0⟩
def IGSEL (g : Nat) : Reg := ⟨0x40030400 + 0x4 * g, 0x0⟩
def IGSEL_HACT : Fld := ⟨4, 4⟩
def IGSEL_CGRP : Fld := ⟨3, 0⟩
def IACTL (c L : Nat) : Reg := ⟨0x40030600 + 0x40 * c + 0x4 * L, 0x0⟩
def IACTL_V : Fld := ⟨31, 31⟩
def IACTL_SRC : Fld := ⟨9, 0⟩
def ISRC (s : Nat) : Reg := ⟨0x40032000 + 0x4 * s, 0xFF00⟩
def ISRC_TARGET : Fld := ⟨15, 8⟩
def ISRC_LEVEL : Fld := ⟨3, 0⟩
def IVEC (s : Nat) : Reg := ⟨0x40033000 + 0x4 * s, 0x0⟩
def IVEC_ENTRY : Fld := ⟨31, 0⟩
end ICU

namespace FLASHC
def FLCTL : Reg := ⟨0x40040000, 0x10F⟩
def FLCTL_AUTOSUS : Fld := ⟨8, 8⟩
def FLCTL_WS : Fld := ⟨3, 0⟩
def FLSEL : Reg := ⟨0x40040004, 0x0⟩
def FLSEL_IE : Fld := ⟨15, 8⟩
def FLSEL_CGRP : Fld := ⟨3, 0⟩
def FLSTAT : Reg := ⟨0x40040008, 0x0⟩
def FLSTAT_OP : Fld := ⟨31, 30⟩
def FLSTAT_SUSP : Fld := ⟨29, 29⟩
def FLSTAT_CFGERR : Fld := ⟨7, 7⟩
def FLSTAT_UEF : Fld := ⟨6, 6⟩
def FLSTAT_CEF : Fld := ⟨5, 5⟩
def FLSTAT_MARGF : Fld := ⟨4, 4⟩
def FLSTAT_ACCF : Fld := ⟨3, 3⟩
def FLSTAT_CMDERR : Fld := ⟨2, 2⟩
def FLSTAT_SUSPF : Fld := ⟨1, 1⟩
def FLSTAT_DONE : Fld := ⟨0, 0⟩
def FLCMD : Reg := ⟨0x4004000C, 0x0⟩
def FLCMD_KEY : Fld := ⟨15, 8⟩
def FLCMD_OP : Fld := ⟨3, 0⟩
def FLADDR : Reg := ⟨0x40040010, 0x0⟩
def FLADDR_ADDR : Fld := ⟨24, 5⟩
def FLCERR : Reg := ⟨0x40040014, 0x0⟩
def FLCERR_CODE : Fld := ⟨3, 0⟩
def FLBUFT : Reg := ⟨0x40040018, 0x0⟩
def FLBUFT_TAGS : Fld := ⟨31, 0⟩
def FLBUF (k : Nat) : Reg := ⟨0x40040020 + 0x4 * k, 0x0⟩
def FLBUF_DATA : Fld := ⟨31, 0⟩
def FLBOOT : Reg := ⟨0x40040040, 0x8000⟩
def FLBOOT_SWAPS : Fld := ⟨31, 16⟩
def FLBOOT_ROM : Fld := ⟨15, 15⟩
def FLBOOT_BOOTSEL : Fld := ⟨0, 0⟩
def FLRDP : Reg := ⟨0x40040044, 0x0⟩
def FLRDP_LEVEL : Fld := ⟨1, 0⟩
def FLRDPKEY : Reg := ⟨0x40040048, 0x0⟩
def FLRDPKEY_KEY2 : Fld := ⟨23, 16⟩
def FLRDPKEY_NEW : Fld := ⟨1, 0⟩
def FLJSTAT : Reg := ⟨0x4004004C, 0x0⟩
def FLJSTAT_SEQ : Fld := ⟨31, 16⟩
def FLJSTAT_REP : Fld := ⟨15, 12⟩
def FLJSTAT_FREE : Fld := ⟨10, 0⟩
def FLECC : Reg := ⟨0x40040050, 0x0⟩
def FLECC_UE : Fld := ⟨31, 16⟩
def FLECC_CE : Fld := ⟨15, 0⟩
def FLEADDR : Reg := ⟨0x40040054, 0x0⟩
def FLEADDR_ADDR : Fld := ⟨31, 0⟩
def FLMARG : Reg := ⟨0x40040058, 0x0⟩
def FLMARG_FAIL : Fld := ⟨31, 31⟩
def FLMARG_LINE : Fld := ⟨10, 0⟩
end FLASHC

namespace DDRC
def DCFG : Reg := ⟨0x40050000, 0x43⟩
def DCFG_SUBB : Fld := ⟨6, 6⟩
def DCFG_RANK2 : Fld := ⟨5, 5⟩
def DCFG_DENS : Fld := ⟨4, 3⟩
def DCFG_SPEED : Fld := ⟨1, 0⟩
def DCTL : Reg := ⟨0x40050004, 0x2⟩
def DCTL_ZFILL : Fld := ⟨1, 1⟩
def DCTL_EN : Fld := ⟨0, 0⟩
def DSEL : Reg := ⟨0x40050008, 0x0⟩
def DSEL_IE : Fld := ⟨13, 8⟩
def DSEL_CGRP : Fld := ⟨3, 0⟩
def DSTAT : Reg := ⟨0x4005000C, 0x0⟩
def DSTAT_STATE : Fld := ⟨31, 30⟩
def DSTAT_SREF : Fld := ⟨29, 29⟩
def DSTAT_SCRUBREQ : Fld := ⟨28, 28⟩
def DSTAT_CFGERR : Fld := ⟨5, 5⟩
def DSTAT_WINERR : Fld := ⟨4, 4⟩
def DSTAT_UEF : Fld := ⟨3, 3⟩
def DSTAT_CEF : Fld := ⟨2, 2⟩
def DSTAT_TRNERR : Fld := ⟨1, 1⟩
def DSTAT_RDYF : Fld := ⟨0, 0⟩
def DCAP : Reg := ⟨0x40050010, 0x0⟩
def DCAP_MIB : Fld := ⟨19, 0⟩
def DTEMP : Reg := ⟨0x40050014, 0x0⟩
def DTEMP_HOT : Fld := ⟨0, 0⟩
def DSCRUB : Reg := ⟨0x40050018, 0x100⟩
def DSCRUB_DIV : Fld := ⟨15, 0⟩
def DECC : Reg := ⟨0x4005001C, 0x0⟩
def DECC_UE : Fld := ⟨31, 16⟩
def DECC_CE : Fld := ⟨15, 0⟩
def DEADDR : Reg := ⟨0x40050020, 0x0⟩
def DEADDR_ADDR : Fld := ⟨31, 0⟩
def DWERR : Reg := ⟨0x40050024, 0x0⟩
def DWERR_ADDR : Fld := ⟨31, 0⟩
def DWIN (w : Nat) : Reg := ⟨0x40050040 + 0x4 * w, BitVec.ofNat 32 (0x7000000 + w)⟩
def DWIN_EN : Fld := ⟨31, 31⟩
def DWIN_DTAG : Fld := ⟨27, 24⟩
def DWIN_DBASE : Fld := ⟨8, 0⟩
def SMCTL : Reg := ⟨0x40050200, 0x400⟩
def SMCTL_SCRDIV : Fld := ⟨15, 0⟩
def SMSTAT : Reg := ⟨0x40050204, 0x0⟩
def SMSTAT_UEF : Fld := ⟨1, 1⟩
def SMSTAT_CEF : Fld := ⟨0, 0⟩
def SMECC : Reg := ⟨0x40050208, 0x0⟩
def SMECC_UE : Fld := ⟨31, 16⟩
def SMECC_CE : Fld := ⟨15, 0⟩
def SMEADDR : Reg := ⟨0x4005020C, 0x0⟩
def SMEADDR_ADDR : Fld := ⟨31, 0⟩
def SMSEL : Reg := ⟨0x40050210, 0x0⟩
def SMSEL_IE : Fld := ⟨1, 0⟩
end DDRC

namespace CVU
def CVCFG (u : Nat) : Reg := ⟨0x40060000 + 0x40 * u, 0x0⟩
def CVCFG_EN : Fld := ⟨31, 31⟩
def CVCFG_SRC : Fld := ⟨30, 28⟩
def CVCFG_POLY : Fld := ⟨27, 26⟩
def CVCFG_GUARD : Fld := ⟨25, 25⟩
def CVFILT (u : Nat) : Reg := ⟨0x40060004 + 0x40 * u, 0x1F00⟩
def CVFILT_SPACE : Fld := ⟨13, 13⟩
def CVFILT_CLASS : Fld := ⟨12, 8⟩
def CVFILT_DIR : Fld := ⟨7, 7⟩
def CVFILT_PORT : Fld := ⟨6, 5⟩
def CVFILT_RING : Fld := ⟨2, 0⟩
def CVLO (u : Nat) : Reg := ⟨0x40060008 + 0x40 * u, 0x0⟩
def CVLO_ADDR : Fld := ⟨31, 0⟩
def CVHI (u : Nat) : Reg := ⟨0x4006000C + 0x40 * u, 0x0⟩
def CVHI_ADDR : Fld := ⟨31, 0⟩
def CVSEL (u : Nat) : Reg := ⟨0x40060010 + 0x40 * u, 0x0⟩
def CVSEL_IE : Fld := ⟨11, 8⟩
def CVSEL_CGRP : Fld := ⟨3, 0⟩
def CVSTAT (u : Nat) : Reg := ⟨0x40060014 + 0x40 * u, 0x0⟩
def CVSTAT_STATE : Fld := ⟨31, 30⟩
def CVSTAT_BORROW : Fld := ⟨29, 29⟩
def CVSTAT_CFGERR : Fld := ⟨3, 3⟩
def CVSTAT_LOSTF : Fld := ⟨2, 2⟩
def CVSTAT_MISF : Fld := ⟨1, 1⟩
def CVSTAT_MATCHF : Fld := ⟨0, 0⟩
def CVRUN (u : Nat) : Reg := ⟨0x40060018 + 0x40 * u, 0xFFFFFFFF⟩
def CVRUN_RUN : Fld := ⟨31, 0⟩
def CVXOR (u : Nat) : Reg := ⟨0x4006001C + 0x40 * u, 0xFFFFFFFF⟩
def CVXOR_XOR : Fld := ⟨31, 0⟩
def CVRES (u : Nat) : Reg := ⟨0x40060020 + 0x40 * u, 0x0⟩
def CVRES_RES : Fld := ⟨31, 0⟩
def CVEXP (u : Nat) : Reg := ⟨0x40060024 + 0x40 * u, 0x0⟩
def CVEXP_EXP : Fld := ⟨31, 0⟩
def CVCTX (u : Nat) : Reg := ⟨0x40060028 + 0x40 * u, 0x0⟩
def CVCTX_CTX : Fld := ⟨15, 0⟩
def CVSEQ (u : Nat) : Reg := ⟨0x4006002C + 0x40 * u, 0x0⟩
def CVSEQ_SEQ : Fld := ⟨31, 0⟩
def CVICNT (u : Nat) : Reg := ⟨0x40060030 + 0x40 * u, 0x0⟩
def CVICNT_CNT : Fld := ⟨31, 0⟩
def CVLOST (u : Nat) : Reg := ⟨0x40060034 + 0x40 * u, 0x0⟩
def CVLOST_CNT : Fld := ⟨15, 0⟩
end CVU

namespace HOST
def HSTAT : Reg := ⟨0xB0000000000, 0x0⟩
def HSTAT_STOP : Fld := ⟨27, 16⟩
def HSTAT_UP : Fld := ⟨2, 2⟩
def HSTAT_SETERR : Fld := ⟨1, 1⟩
def HSTAT_FMTERR : Fld := ⟨0, 0⟩
def HFMT : Reg := ⟨0xB0000000004, 0x1010101⟩
def HFMT_RMAJ : Fld := ⟨31, 24⟩
def HFMT_RMIN : Fld := ⟨23, 16⟩
def HFMT_CMAJ : Fld := ⟨15, 8⟩
def HFMT_CMIN : Fld := ⟨7, 0⟩
def HSTLO : Reg := ⟨0xB0000000008, 0x0⟩
def HSTLO_ADDR : Fld := ⟨31, 6⟩
def HSTHI : Reg := ⟨0xB000000000C, 0x0⟩
def HSTHI_ADDR : Fld := ⟨31, 0⟩
def DBPOLL : Reg := ⟨0xB0000000010, 0x3E8⟩
def DBPOLL_US : Fld := ⟨15, 0⟩
def HEVDROP : Reg := ⟨0xB0000000014, 0x0⟩
def HEVDROP_CNT : Fld := ⟨15, 0⟩
def HLOSTCMP : Reg := ⟨0xB0000000018, 0x0⟩
def HLOSTCMP_CNT : Fld := ⟨15, 0⟩
def RBASELO (r : Nat) : Reg := ⟨0xB0000000100 + 0x20 * r, 0x0⟩
def RBASELO_ADDR : Fld := ⟨31, 12⟩
def RBASEHI (r : Nat) : Reg := ⟨0xB0000000104 + 0x20 * r, 0x0⟩
def RBASEHI_ADDR : Fld := ⟨31, 0⟩
def RCFG (r : Nat) : Reg := ⟨0xB0000000108 + 0x20 * r, 0x800000⟩
def RCFG_EN : Fld := ⟨31, 31⟩
def RCFG_LOG : Fld := ⟨24, 20⟩
def RCFG_DBLINE : Fld := ⟨19, 14⟩
def RCFG_DBWORD : Fld := ⟨13, 10⟩
def RCFG_VEC : Fld := ⟨9, 5⟩
def RIDX (r : Nat) : Reg := ⟨0xB000000010C + 0x20 * r, 0x0⟩
def RIDX_IDX : Fld := ⟨31, 0⟩
def RHIDX (r : Nat) : Reg := ⟨0xB0000000110 + 0x20 * r, 0x0⟩
def RHIDX_IDX : Fld := ⟨31, 0⟩
def RSTAT (r : Nat) : Reg := ⟨0xB0000000114 + 0x20 * r, 0x0⟩
def RSTAT_ERR : Fld := ⟨3, 0⟩
def DBLO (d : Nat) : Reg := ⟨0xB0000000300 + 0x8 * d, 0x0⟩
def DBLO_ADDR : Fld := ⟨31, 6⟩
def DBHI (d : Nat) : Reg := ⟨0xB0000000304 + 0x8 * d, 0x0⟩
def DBHI_ADDR : Fld := ⟨31, 0⟩
def VMOD (v : Nat) : Reg := ⟨0xB0000000600 + 0x4 * v, 0x10000⟩
def VMOD_CNT : Fld := ⟨31, 16⟩
def VMOD_TIM : Fld := ⟨15, 0⟩
end HOST

namespace CXLC
def CXSTAT : Reg := ⟨0x40090000, 0x0⟩
def CXSTAT_WIDTH : Fld := ⟨31, 28⟩
def CXSTAT_SPEED : Fld := ⟨27, 25⟩
def CXSTAT_LSTATE : Fld := ⟨24, 22⟩
def CXSTAT_SRISA : Fld := ⟨21, 21⟩
def CXSTAT_CFGERR : Fld := ⟨6, 6⟩
def CXSTAT_MEMERRF : Fld := ⟨5, 5⟩
def CXSTAT_MBXINF : Fld := ⟨4, 4⟩
def CXSTAT_RINGERRF : Fld := ⟨3, 3⟩
def CXSTAT_HRSTF : Fld := ⟨2, 2⟩
def CXSTAT_LINKDNF : Fld := ⟨1, 1⟩
def CXSTAT_LINKUPF : Fld := ⟨0, 0⟩
def CXSEL : Reg := ⟨0x40090004, 0x0⟩
def CXSEL_IE : Fld := ⟨14, 8⟩
def CXSEL_CGRP : Fld := ⟨3, 0⟩
def CXCFG : Reg := ⟨0x40090008, 0x8000002B⟩
def CXCFG_EN : Fld := ⟨31, 31⟩
def CXCFG_SRIS : Fld := ⟨6, 6⟩
def CXCFG_MAXSPD : Fld := ⟨5, 3⟩
def CXCFG_MAXW : Fld := ⟨2, 0⟩
def HRCAUSE : Reg := ⟨0x4009000C, 0x0⟩
def HRCAUSE_CNT : Fld := ⟨31, 16⟩
def HRCAUSE_CAUSE : Fld := ⟨2, 0⟩
def HWMASKLO : Reg := ⟨0x40090010, 0x0⟩
def HWMASKLO_MASK : Fld := ⟨31, 0⟩
def HWMASKHI : Reg := ⟨0x40090014, 0x0⟩
def HWMASKHI_MASK : Fld := ⟨31, 0⟩
def HRMASKLO : Reg := ⟨0x40090018, 0x0⟩
def HRMASKLO_MASK : Fld := ⟨31, 0⟩
def HRMASKHI : Reg := ⟨0x4009001C, 0x0⟩
def HRMASKHI_MASK : Fld := ⟨31, 0⟩
def MEMERR : Reg := ⟨0x40090020, 0x0⟩
def MEMERR_CNT : Fld := ⟨15, 0⟩
def BIASWR : Reg := ⟨0x40090024, 0x0⟩
def BIASWR_CNT : Fld := ⟨15, 0⟩
def MBXIN (k : Nat) : Reg := ⟨0x40090040 + 0x4 * k, 0x0⟩
def MBXIN_DATA : Fld := ⟨31, 0⟩
def MBXINST : Reg := ⟨0x40090070, 0x0⟩
def MBXINST_FULL : Fld := ⟨31, 31⟩
def MBXINST_TAG : Fld := ⟨15, 0⟩
def MBXOUT (k : Nat) : Reg := ⟨0x40090080 + 0x4 * k, 0x0⟩
def MBXOUT_DATA : Fld := ⟨31, 0⟩
def MBXCMD : Reg := ⟨0x400900B0, 0x0⟩
def MBXCMD_POST : Fld := ⟨0, 0⟩
end CXLC

namespace CHAIN
def CHCFG : Reg := ⟨0x40080000, 0x701⟩
def CHCFG_PORTEN : Fld := ⟨10, 8⟩
def CHCFG_MAPHOLD : Fld := ⟨2, 2⟩
def CHCFG_RSTEN : Fld := ⟨1, 1⟩
def CHCFG_TKFIX : Fld := ⟨0, 0⟩
def CHSEL : Reg := ⟨0x40080004, 0x0⟩
def CHSEL_IE : Fld := ⟨25, 16⟩
def CHSEL_CGRP : Fld := ⟨3, 0⟩
def CHSTAT : Reg := ⟨0x40080008, 0x0⟩
def CHSTAT_HEAD : Fld := ⟨31, 31⟩
def CHSTAT_ALN : Fld := ⟨30, 30⟩
def CHSTAT_SLEW : Fld := ⟨29, 29⟩
def CHSTAT_ENUM : Fld := ⟨28, 27⟩
def CHSTAT_CFGERR : Fld := ⟨9, 9⟩
def CHSTAT_HOPF : Fld := ⟨8, 8⟩
def CHSTAT_WIRERR : Fld := ⟨7, 7⟩
def CHSTAT_VERSERR : Fld := ⟨6, 6⟩
def CHSTAT_XLATEF : Fld := ⟨5, 5⟩
def CHSTAT_TFAR : Fld := ⟨4, 4⟩
def CHSTAT_TKERR : Fld := ⟨3, 3⟩
def CHSTAT_ENUMF : Fld := ⟨2, 2⟩
def CHSTAT_ALNLF : Fld := ⟨1, 1⟩
def CHSTAT_LINKF : Fld := ⟨0, 0⟩
def CHPOS : Reg := ⟨0x4008000C, 0x0⟩
def CHPOS_V : Fld := ⟨31, 31⟩
def CHPOS_PARENT : Fld := ⟨26, 25⟩
def CHPOS_PHYS : Fld := ⟨24, 20⟩
def CHPOS_HOPS : Fld := ⟨18, 12⟩
def CHPOS_PIP : Fld := ⟨8, 0⟩
def CHVER : Reg := ⟨0x40080010, 0x1000101⟩
def CHVER_RMAJ : Fld := ⟨31, 24⟩
def CHVER_RMIN : Fld := ⟨23, 16⟩
def CHVER_MAJ : Fld := ⟨15, 8⟩
def CHVER_MIN : Fld := ⟨7, 0⟩
def CHLONG : Reg := ⟨0x40080014, 0x0⟩
def CHLONG_HOPS : Fld := ⟨6, 0⟩
def CHOFS : Reg := ⟨0x40080018, 0x0⟩
def CHOFS_EPS : Fld := ⟨31, 0⟩
def CHSTEP : Reg := ⟨0x4008001C, 0x0⟩
def CHSTEP_CNT : Fld := ⟨31, 0⟩
def CHTERR : Reg := ⟨0x40080020, 0x0⟩
def CHTERR_TK : Fld := ⟨31, 16⟩
def CHTERR_ALNL : Fld := ⟨15, 0⟩
def CHCMD : Reg := ⟨0x40080024, 0x0⟩
def CHCMD_PIP : Fld := ⟨24, 16⟩
def CHCMD_RELEASE : Fld := ⟨2, 2⟩
def CHCMD_MAPGO : Fld := ⟨1, 1⟩
def CHCMD_TJUMP : Fld := ⟨0, 0⟩
def CHMAPADR : Reg := ⟨0x40080028, 0x0⟩
def CHMAPADR_ADDR : Fld := ⟨31, 4⟩
def CHMAPLEN : Reg := ⟨0x4008002C, 0x0⟩
def CHMAPLEN_N : Fld := ⟨9, 0⟩
def CHPSTAT (p : Nat) : Reg := ⟨0x40080040 + 0x10 * p, 0x0⟩
def CHPSTAT_STATE : Fld := ⟨31, 29⟩
def CHPSTAT_PKIND : Fld := ⟨28, 27⟩
def CHPSTAT_PPIP : Fld := ⟨8, 0⟩
def CHPDLY (p : Nat) : Reg := ⟨0x40080044 + 0x10 * p, 0x0⟩
def CHPDLY_DLY : Fld := ⟨15, 0⟩
def CHPASYM (p : Nat) : Reg := ⟨0x40080048 + 0x10 * p, 0x0⟩
def CHPASYM_ASYM : Fld := ⟨15, 0⟩
def CHPERR (p : Nat) : Reg := ⟨0x4008004C + 0x10 * p, 0x0⟩
def CHPERR_CRC : Fld := ⟨31, 16⟩
def CHPERR_LOST : Fld := ⟨15, 0⟩
def XCFG : Reg := ⟨0x40080080, 0x200000⟩
def XCFG_PUB : Fld := ⟨31, 31⟩
def XCFG_NW : Fld := ⟨30, 24⟩
def XCFG_SUB : Fld := ⟨23, 23⟩
def XCFG_XLAT : Fld := ⟨22, 21⟩
def XCFG_SCOPE : Fld := ⟨20, 20⟩
def XCFG_XLO : Fld := ⟨8, 0⟩
def XPBASE : Reg := ⟨0x40080084, 0x10000000⟩
def XPBASE_ADDR : Fld := ⟨31, 9⟩
def XRBASE : Reg := ⟨0x40080088, 0x10000000⟩
def XRBASE_ADDR : Fld := ⟨31, 15⟩
def XSUB : Reg := ⟨0x4008008C, 0x0⟩
def XSUB_MASK : Fld := ⟨31, 0⟩
def XPRES (k : Nat) : Reg := ⟨0x40080090 + 0x4 * k, 0x0⟩
def XPRES_PRES : Fld := ⟨31, 0⟩
def XERR : Reg := ⟨0x400800A0, 0x0⟩
def XERR_LATE : Fld := ⟨31, 16⟩
def XERR_DROP : Fld := ⟨15, 0⟩
def CHTOPO (q : Nat) : Reg := ⟨0x40081000 + 0x4 * q, 0x0⟩
def CHTOPO_V : Fld := ⟨31, 31⟩
def CHTOPO_HELD : Fld := ⟨30, 30⟩
def CHTOPO_PHYS : Fld := ⟨29, 25⟩
def CHTOPO_PARENT : Fld := ⟨24, 23⟩
def CHTOPO_HOPS : Fld := ⟨22, 16⟩
def CHTOPO_VMAJ : Fld := ⟨15, 12⟩
def CHTOPO_VMIN : Fld := ⟨11, 8⟩
end CHAIN

namespace DBG
def DBGID : Reg := ⟨0x40400000, 0x272405A3⟩
def DBGID_ID : Fld := ⟨31, 0⟩
def DBGCTL : Reg := ⟨0x40400004, 0x1400⟩
def DBGCTL_TREXC : Fld := ⟨15, 15⟩
def DBGCTL_TRTICK : Fld := ⟨14, 14⟩
def DBGCTL_TRPRES : Fld := ⟨13, 13⟩
def DBGCTL_TRMARK : Fld := ⟨12, 12⟩
def DBGCTL_TRCEN : Fld := ⟨11, 11⟩
def DBGCTL_WDSTOP : Fld := ⟨10, 10⟩
def DBGCTL_FRZREQ : Fld := ⟨8, 8⟩
def DBGCTL_HALT : Fld := ⟨7, 0⟩
def DBGSTAT : Reg := ⟨0x40400008, 0x0⟩
def DBGSTAT_FRZ : Fld := ⟨31, 30⟩
def DBGSTAT_HALTED : Fld := ⟨23, 16⟩
def DBGSTAT_ACCERR : Fld := ⟨2, 2⟩
def DBGSTAT_TRCOVF : Fld := ⟨1, 1⟩
def DBGSTAT_MSGF : Fld := ⟨0, 0⟩
def DBGCMD : Reg := ⟨0x4040000C, 0x0⟩
def DBGCMD_STEP : Fld := ⟨15, 8⟩
def DBGCMD_TBSNAP : Fld := ⟨0, 0⟩
def DBGTBLO : Reg := ⟨0x40400010, 0x0⟩
def DBGTBLO_TB : Fld := ⟨31, 0⟩
def DBGTBHI : Reg := ⟨0x40400014, 0x0⟩
def DBGTBHI_TB : Fld := ⟨31, 0⟩
def DBGSEL : Reg := ⟨0x40400018, 0x0⟩
def DBGSEL_IE : Fld := ⟨1, 0⟩
def DBGMSG : Reg := ⟨0x4040001C, 0x0⟩
def DBGMSG_MSG : Fld := ⟨31, 0⟩
def DBGMADDR : Reg := ⟨0x40400020, 0x0⟩
def DBGMADDR_ADDR : Fld := ⟨31, 0⟩
def DBGMDATA : Reg := ⟨0x40400024, 0x0⟩
def DBGMDATA_DATA : Fld := ⟨31, 0⟩
def DBGMTAG : Reg := ⟨0x40400028, 0x7⟩
def DBGMTAG_TAG : Fld := ⟨3, 0⟩
def DBGMCMD : Reg := ⟨0x4040002C, 0x0⟩
def DBGMCMD_STATUS : Fld := ⟨31, 30⟩
def DBGMCMD_INC : Fld := ⟨2, 2⟩
def DBGMCMD_WRITE : Fld := ⟨1, 1⟩
def DBGMCMD_READ : Fld := ⟨0, 0⟩
def DBGTRLOST : Reg := ⟨0x40400030, 0x0⟩
def DBGTRLOST_CNT : Fld := ⟨15, 0⟩
def DBGFW : Reg := ⟨0x40400034, 0x0⟩
def DBGFW_FW : Fld := ⟨31, 0⟩
def DBGPC (c : Nat) : Reg := ⟨0x40400040 + 0x4 * c, 0x0⟩
def DBGPC_PC : Fld := ⟨31, 0⟩
def DBGMARK (c : Nat) : Reg := ⟨0x40401000 + coreOff c, 0x0⟩
def DBGMARK_MARK : Fld := ⟨31, 0⟩
end DBG

namespace SYSCFG
def SCLK : Reg := ⟨0x40000000, 0x0⟩
def SCLK_VLOW : Fld := ⟨8, 8⟩
def SCLK_FDIV : Fld := ⟨5, 4⟩
def SCLK_CDIV : Fld := ⟨0, 0⟩
def SCSEL : Reg := ⟨0x40000004, 0x0⟩
def SCSEL_IE : Fld := ⟨11, 8⟩
def SCSEL_CGRP : Fld := ⟨3, 0⟩
def SCSTAT : Reg := ⟨0x40000008, 0x0⟩
def SCSTAT_REFSRC : Fld := ⟨31, 30⟩
def SCSTAT_VPEND : Fld := ⟨29, 29⟩
def SCSTAT_FRZF : Fld := ⟨3, 3⟩
def SCSTAT_CLAIMF : Fld := ⟨1, 1⟩
def SCSTAT_CLKERR : Fld := ⟨0, 0⟩
def SVSET : Reg := ⟨0x4000000C, 0x64⟩
def SVSET_US : Fld := ⟨15, 0⟩
def SGATE : Reg := ⟨0x40000010, 0x7FFFF⟩
def SGATE_EN : Fld := ⟨18, 0⟩
def SGPEND : Reg := ⟨0x40000014, 0x0⟩
def SGPEND_PEND : Fld := ⟨18, 0⟩
def SGSTART : Reg := ⟨0x40000018, 0x0⟩
def SGSTART_START : Fld := ⟨18, 0⟩
def CLAIMERR : Reg := ⟨0x40000020, 0x0⟩
def CLAIMERR_OWNER : Fld := ⟨31, 16⟩
def CLAIMERR_REQ : Fld := ⟨15, 0⟩
def CLAIMRES : Reg := ⟨0x40000024, 0x0⟩
def CLAIMRES_RES : Fld := ⟨15, 0⟩
def CLAIMCNT : Reg := ⟨0x40000028, 0x0⟩
def CLAIMCNT_CNT : Fld := ⟨15, 0⟩
def SCLREL : Reg := ⟨0x4000002C, 0x0⟩
def SCLREL_GO : Fld := ⟨16, 16⟩
def SCLREL_OWNER : Fld := ⟨15, 0⟩
end SYSCFG

namespace HUSK
def HCTL : Reg := ⟨0x400A0000, 0x0⟩
def HCTL_SLEEP : Fld := ⟨0, 0⟩
def HSTAT : Reg := ⟨0x400A0004, 0x0⟩
def HSTAT_MODE : Fld := ⟨31, 30⟩
def HSTAT_WSRC : Fld := ⟨29, 27⟩
def HSTAT_REFUSE : Fld := ⟨26, 24⟩
def HSTAT_WAKEF : Fld := ⟨2, 2⟩
def HSTAT_SLEPTF : Fld := ⟨1, 1⟩
def HSTAT_REFF : Fld := ⟨0, 0⟩
def HSEL : Reg := ⟨0x400A0008, 0x0⟩
def HSEL_IE : Fld := ⟨2, 0⟩
def HWEN : Reg := ⟨0x400A000C, 0xF⟩
def HWEN_EN : Fld := ⟨3, 0⟩
def HWAKET : Reg := ⟨0x400A0010, 0x0⟩
def HWAKET_TNO : Fld := ⟨31, 0⟩
def HXSD : Reg := ⟨0x400A0014, 0x0⟩
def HXSD_CODE : Fld := ⟨2, 0⟩
def HSTRAP : Reg := ⟨0x400A0018, 0x0⟩
def HSTRAP_XSD : Fld := ⟨2, 0⟩
end HUSK

namespace SYSCFG
def RSTCAUSE : Reg := ⟨0x40000100, 0x0⟩
def RSTCAUSE_SRCPIP : Fld := ⟨24, 16⟩
def RSTCAUSE_CAUSE : Fld := ⟨3, 0⟩
def RSTPAIR : Reg := ⟨0x40000104, 0x0⟩
def RSTPAIR_CAUSE : Fld := ⟨7, 0⟩
def RSTCNT : Reg := ⟨0x40000108, 0x0⟩
def RSTCNT_PAIRS : Fld := ⟨15, 0⟩
def SRESET : Reg := ⟨0x4000010C, 0x0⟩
def SRESET_KEY : Fld := ⟨31, 0⟩
def BOOTSTAT : Reg := ⟨0x40000110, 0x0⟩
def BOOTSTAT_STATE : Fld := ⟨31, 28⟩
def BOOTSTAT_TRIAL : Fld := ⟨27, 24⟩
def BOOTSTAT_FIRST : Fld := ⟨23, 23⟩
def BOOTSTAT_CONF : Fld := ⟨22, 22⟩
def BOOTSTAT_FALLBK : Fld := ⟨21, 21⟩
def BOOTSTAT_ROLLBK : Fld := ⟨20, 20⟩
def BOOTSTAT_REJF : Fld := ⟨0, 0⟩
def BOOTREJ : Reg := ⟨0x40000114, 0x0⟩
def BOOTREJ_REASON : Fld := ⟨31, 24⟩
def BOOTREJ_PART : Fld := ⟨23, 16⟩
def BOOTREJ_PIP : Fld := ⟨8, 0⟩
def BOOTSEQ : Reg := ⟨0x40000118, 0x0⟩
def BOOTSEQ_SEQ : Fld := ⟨31, 0⟩
def STGSEQ : Reg := ⟨0x4000011C, 0x0⟩
def STGSEQ_SEQ : Fld := ⟨31, 0⟩
def SBCONF : Reg := ⟨0x40000120, 0x0⟩
def SBCONF_KEY : Fld := ⟨31, 0⟩
def BOOTTIME : Reg := ⟨0x40000124, 0x0⟩
def BOOTTIME_US : Fld := ⟨19, 0⟩
end SYSCFG

namespace PINMUX
def PXSEL : Reg := ⟨0x40300000, 0x0⟩
def PXSEL_CGRP : Fld := ⟨3, 0⟩
def PXSTAT : Reg := ⟨0x40300004, 0x0⟩
def PXSTAT_CFGERR : Fld := ⟨0, 0⟩
def BANKV : Reg := ⟨0x40300008, 0x0⟩
def BANKV_V18 : Fld := ⟨7, 0⟩
def GPIN (h : Nat) : Reg := ⟨0x40300010 + 0x4 * h, 0x0⟩
def GPIN_IN : Fld := ⟨31, 0⟩
def GPOUT (h : Nat) : Reg := ⟨0x40300018 + 0x4 * h, 0x0⟩
def GPOUT_OUT : Fld := ⟨31, 0⟩
def GPSET (h : Nat) : Reg := ⟨0x40300020 + 0x4 * h, 0x0⟩
def GPSET_SET : Fld := ⟨31, 0⟩
def GPCLR (h : Nat) : Reg := ⟨0x40300028 + 0x4 * h, 0x0⟩
def GPCLR_CLR : Fld := ⟨31, 0⟩
def PMUX (n : Nat) : Reg := ⟨0x40300100 + 0x4 * n, 0x140⟩
def PMUX_EDGE : Fld := ⟨12, 11⟩
def PMUX_INV : Fld := ⟨10, 10⟩
def PMUX_PULL : Fld := ⟨9, 8⟩
def PMUX_DRV : Fld := ⟨7, 6⟩
def PMUX_FUNC : Fld := ⟨2, 0⟩
end PINMUX
/-- The bus rows of TICK. -/
def tickRows : List RegRow :=
  [⟨0x40010000, 0x1, 1, 0x1, 1, 0x0, 0x0, 0x0, 0x0, 0x0, 0x0, .count⟩,
   ⟨0x40010004, 0x1, 1, 0x1, 1, 0x0, 0x0, 0x0, 0x0, 0x0, 0x0, .nat⟩,
   ⟨0x40010008, 0x1, 1, 0x1, 1, 0x0, 0x0, 0x0, 0x0, 0x1, 0x0, .bits⟩,
   ⟨0x40010010, 0x1, 1, 0x1, 1, 0x0, 0x0, 0x0, 0x0, 0x0, 0x0, .count⟩,
   ⟨0x40010014, 0x1, 1, 0x1, 1, 0x0, 0x0, 0x0, 0x0, 0x0, 0x0, .nat⟩,
   ⟨0x40010018, 0x1, 1, 0x1, 1, 0x0, 0x0, 0x0, 0x1, 0x0, 0x0, .bits⟩,
   ⟨0x40010020, 0x1, 1, 0x1, 1, 0x927C0, 0x0, 0x7FFFFF, 0x0, 0x0, 0x0, .bits⟩,
   ⟨0x40010024, 0x1, 1, 0x1, 1, 0x0, 0x0, 0x0, 0x0, 0x0, 0x0, .bits⟩,
   ⟨0x40010028, 0x1, 1, 0x1, 1, 0x0, 0x0, 0x0, 0x0, 0x0, 0x0, .count⟩,
   ⟨0x4001002C, 0x1, 1, 0x1, 1, 0x0, 0x0, 0x0, 0x0, 0x0, 0x0, .nat⟩,
   ⟨0x40010030, 0x1, 1, 0x1, 1, 0x0, 0x0, 0x0, 0x0, 0x0, 0x0, .count⟩,
   ⟨0x40010034, 0x1, 1, 0x1, 1, 0x0, 0x0, 0x0, 0x0, 0x0, 0x0, .bits⟩,
   ⟨0x40010038, 0x1, 1, 0x1, 1, 0x0, 0x0, 0x0, 0x3, 0x0, 0x0, .bits⟩,
   ⟨0x40010040, 0x1, 1, 0x1, 1, 0x0, 0xFFFFFFFF, 0x0, 0x0, 0x0, 0x0, .bits⟩,
   ⟨0x40010044, 0x1, 1, 0x1, 1, 0x0, 0x0, 0x0, 0x0, 0xFFFE, 0x0, .bits⟩,
   ⟨0x40010100, 0x8, 16, 0x1, 1, 0x0, 0xFFFFFFFF, 0x0, 0x0, 0x0, 0x0, .bits⟩,
   ⟨0x40010104, 0x8, 16, 0x1, 1, 0x0, 0x101, 0x0, 0x0, 0x0, 0x0, .bits⟩,
   ⟨0x40010180, 0x4, 16, 0x1, 1, 0x0, 0x0, 0x0, 0x0, 0x0, 0x0, .count⟩,
   ⟨0x40010200, 0x1, 1, 0x1, 1, 0x0, 0x0, 0x0, 0x1FFFFFF, 0x0, 0x0, .bits⟩,
   ⟨0x40010204, 0x1, 1, 0x1, 1, 0x100FFFF, 0x1FFFFFF, 0x0, 0x0, 0x0, 0x0, .bits⟩,
   ⟨0x40010210, 0x4, 25, 0x1, 1, 0x0, 0x0, 0x0, 0x0, 0x0, 0xFFFF, .bits⟩,
   ⟨0x40010280, 0x1, 1, 0x1, 1, 0x0, 0x0, 0x0, 0xFFFE, 0x0, 0x0, .bits⟩,
   ⟨0x40010284, 0x1, 1, 0x1, 1, 0x0, 0x0, 0x0, 0x0, 0x0, 0xFFFF, .bits⟩,
   ⟨0x40010300, 0x4, 4, 0x1, 1, 0x0, 0xFFFFFFFF, 0x0, 0x0, 0x0, 0x0, .bits⟩,
   ⟨0x40010310, 0x1, 1, 0x1, 1, 0x0, 0x0, 0x0, 0xF, 0x0, 0x0, .bits⟩]

/-- The bus rows of GPT. -/
def gptRows : List RegRow :=
  [⟨0x40020000, 0x1, 1, 0x1, 1, 0x0, 0x0, 0x0, 0x0, 0x0, 0x0, .bits⟩,
   ⟨0x40020100, 0x20, 32, 0x1, 1, 0x0, 0x0, 0xFFFF03, 0x0, 0x0, 0x0, .bits⟩,
   ⟨0x40020104, 0x20, 32, 0x1, 1, 0xFFFFFFFF, 0x0, 0xFFFFFFFF, 0x0, 0x0, 0x0, .bits⟩,
   ⟨0x40020108, 0x20, 32, 0x1, 1, 0x0, 0xFFFFFFFF, 0x0, 0x0, 0x0, 0x0, .count⟩,
   ⟨0x4002010C, 0x20, 32, 0x1, 1, 0x0, 0xFFFFFFFF, 0x0, 0x0, 0x0, 0x0, .bits⟩,
   ⟨0x40020110, 0x20, 32, 0x1, 1, 0x0, 0x0, 0x0, 0x0, 0x0, 0x0, .count⟩,
   ⟨0x40020114, 0x20, 32, 0x1, 1, 0x0, 0x0, 0x0, 0x1F, 0x0, 0x0, .bits⟩,
   ⟨0x40020118, 0x20, 32, 0x1, 1, 0x0, 0x1FF, 0x0, 0x0, 0x0, 0x0, .bits⟩]

/-- The bus rows of ADC. -/
def adcRows : List RegRow :=
  [⟨0x40100000, 0x1000, 8, 0x1, 1, 0x0, 0x0, 0x3, 0x0, 0x0, 0x0, .bits⟩,
   ⟨0x40100004, 0x1000, 8, 0x1, 1, 0x0, 0x0, 0xFFFF007F, 0x0, 0x0, 0x0, .bits⟩,
   ⟨0x40100008, 0x1000, 8, 0x1, 1, 0x0, 0x0, 0x1F, 0x0, 0x0, 0x0, .bits⟩,
   ⟨0x4010000C, 0x1000, 8, 0x1, 1, 0x0, 0x0, 0x1F, 0x0, 0x0, 0x0, .bits⟩,
   ⟨0x40100010, 0x1000, 8, 0x1, 1, 0x0, 0xFFF, 0x0, 0x0, 0x0, 0x0, .bits⟩,
   ⟨0x40100014, 0x1000, 8, 0x1, 1, 0x0, 0x0, 0x0, 0xEF, 0x0, 0x0, .bits⟩,
   ⟨0x40100018, 0x1000, 8, 0x1, 1, 0x0, 0x0, 0x0, 0x0, 0x0, 0xFFFFFFFF, .bits⟩,
   ⟨0x4010001C, 0x1000, 8, 0x1, 1, 0x0, 0x0, 0x0, 0x0, 0x0, 0xFFFFFFFF, .bits⟩,
   ⟨0x40100020, 0x1000, 8, 0x1, 1, 0x0, 0x0, 0x0, 0x0, 0x0, 0x0, .count⟩,
   ⟨0x40100024, 0x1000, 8, 0x1, 1, 0x0, 0x2, 0x0, 0x0, 0x1, 0x0, .bits⟩,
   ⟨0x40100028, 0x1000, 8, 0x1, 1, 0x800, 0xFFF, 0x0, 0x0, 0x0, 0x0, .bits⟩,
   ⟨0x4010002C, 0x1000, 8, 0x1, 1, 0x0, 0x0, 0x0, 0x0, 0x1, 0x0, .bits⟩,
   ⟨0x40100040, 0x1000, 8, 0x4, 6, 0x0, 0xFFFFFFFF, 0x0, 0x0, 0x0, 0x0, .bits⟩,
   ⟨0x40100100, 0x1000, 8, 0x4, 16, 0x10713, 0x0, 0xB07FF1F, 0x0, 0x0, 0x0, .bits⟩,
   ⟨0x40100140, 0x1000, 8, 0x4, 16, 0x10713, 0x0, 0xF07FF1F, 0x0, 0x0, 0x0, .bits⟩,
   ⟨0x40100180, 0x1000, 8, 0x4, 16, 0x0, 0x0, 0x0, 0x0, 0x0, 0x0, .fix⟩,
   ⟨0x401001C0, 0x1000, 8, 0x4, 16, 0x0, 0x0, 0x0, 0x0, 0x0, 0x0, .fix⟩,
   ⟨0x40100200, 0x1000, 8, 0x8, 8, 0x1, 0x0, 0x801F00FF, 0x0, 0x0, 0x0, .bits⟩,
   ⟨0x40100204, 0x1000, 8, 0x8, 8, 0x7FFF8000, 0x0, 0xFFFFFFFF, 0x0, 0x0, 0x0, .bits⟩,
   ⟨0x40100240, 0x1000, 8, 0x1, 1, 0x0, 0x0, 0x0, 0xFFFF, 0x0, 0x0, .bits⟩]

/-- The bus rows of REF. -/
def refRows : List RegRow :=
  [⟨0x40108000, 0x1, 1, 0x1, 1, 0x0, 0x0, 0xFF, 0x0, 0x0, 0x0, .bits⟩,
   ⟨0x40108004, 0x1, 1, 0x1, 1, 0x0, 0x0, 0x0, 0x0, 0x0, 0x0, .bits⟩,
   ⟨0x40108008, 0x1, 1, 0x1, 1, 0x0, 0xF, 0x0, 0x0, 0x0, 0x0, .bits⟩]

/-- The bus rows of FB. -/
def fbRows : List RegRow :=
  [⟨0x40130000, 0x400, 24, 0x1, 1, 0x3400F00, 0x0, 0xFFFFF07, 0x0, 0x0, 0x0, .bits⟩,
   ⟨0x40130004, 0x400, 24, 0x1, 1, 0x0, 0x0, 0x1, 0x0, 0x0, 0x0, .bits⟩,
   ⟨0x40130008, 0x400, 24, 0x1, 1, 0x1000, 0x0, 0xFFFFFFFF, 0x0, 0x0, 0x0, .bits⟩,
   ⟨0x4013000C, 0x400, 24, 0x1, 1, 0x0, 0x0, 0xFFFFFFFF, 0x0, 0x0, 0x0, .bits⟩,
   ⟨0x40130010, 0x400, 24, 0x1, 1, 0x20080800, 0x0, 0xFFFF3800, 0x0, 0x0, 0x0, .bits⟩,
   ⟨0x40130014, 0x400, 24, 0x1, 1, 0x20F0, 0x0, 0xFFFFFFFF, 0x0, 0x0, 0x0, .bits⟩,
   ⟨0x40130018, 0x400, 24, 0x1, 1, 0x0, 0x0, 0xFFFFFFFF, 0x0, 0x0, 0x0, .bits⟩,
   ⟨0x4013001C, 0x400, 24, 0x1, 1, 0x12B30014, 0x0, 0xFFFF7FFF, 0x0, 0x0, 0x0, .bits⟩,
   ⟨0x40130020, 0x400, 24, 0x1, 1, 0x19, 0x0, 0xFF001FFF, 0x0, 0x0, 0x0, .bits⟩,
   ⟨0x40130024, 0x400, 24, 0x1, 1, 0x0, 0x0, 0x800000FF, 0x0, 0x0, 0x0, .bits⟩,
   ⟨0x40130028, 0x400, 24, 0x1, 1, 0x0, 0x1FFF000F, 0x0, 0x0, 0x0, 0x0, .bits⟩,
   ⟨0x4013002C, 0x400, 24, 0x1, 1, 0x0, 0x0, 0x0, 0x1EFF, 0x0, 0x0, .bits⟩,
   ⟨0x40130030, 0x400, 24, 0x1, 1, 0x0, 0xFFFFFFFF, 0x0, 0x0, 0x0, 0x0, .count⟩,
   ⟨0x40130034, 0x400, 24, 0x1, 1, 0x0, 0xFFFFFFFF, 0x0, 0x0, 0x0, 0x0, .int⟩,
   ⟨0x40130038, 0x400, 24, 0x1, 1, 0x0, 0x0, 0x0, 0x0, 0x0, 0x0, .count⟩,
   ⟨0x4013003C, 0x400, 24, 0x1, 1, 0x0, 0x0, 0x0, 0x0, 0x0, 0x0, .count⟩,
   ⟨0x40130040, 0x400, 24, 0x1, 1, 0x0, 0x0, 0x0, 0x0, 0x0, 0x0, .angle⟩,
   ⟨0x40130044, 0x400, 24, 0x1, 1, 0x0, 0x0, 0x0, 0x0, 0x0, 0x0, .real⟩,
   ⟨0x40130048, 0x400, 24, 0x1, 1, 0x0, 0x0, 0x0, 0x0, 0x0, 0x0, .count⟩,
   ⟨0x4013004C, 0x400, 24, 0x1, 1, 0x0, 0x0, 0x0, 0x0, 0x0, 0x0, .count⟩,
   ⟨0x40130050, 0x400, 24, 0x1, 1, 0x0, 0x0, 0x0, 0x0, 0x0, 0x0, .bits⟩,
   ⟨0x40130054, 0x400, 24, 0x1, 1, 0x0, 0x0, 0x0, 0x0, 0x0, 0xFFFFFFFF, .bits⟩,
   ⟨0x40130058, 0x400, 24, 0x1, 1, 0x0, 0x0, 0x0, 0x0, 0x0, 0xFFFFFFFF, .bits⟩,
   ⟨0x4013005C, 0x400, 24, 0x1, 1, 0x0, 0x0, 0x0, 0x0, 0x0, 0xFFFFFFFF, .bits⟩,
   ⟨0x40130060, 0x400, 24, 0x1, 1, 0x0, 0x0, 0x0, 0x0, 0x3, 0x0, .bits⟩,
   ⟨0x40130080, 0x400, 24, 0x10, 4, 0x4, 0x0, 0x7FF, 0x0, 0x0, 0x0, .bits⟩,
   ⟨0x40130084, 0x400, 24, 0x10, 4, 0x0, 0xFFFFFFFF, 0x0, 0x0, 0x0, 0x0, .count⟩,
   ⟨0x40130088, 0x400, 24, 0x10, 4, 0x0, 0x0, 0xFFFFFFFF, 0x0, 0x0, 0x0, .bits⟩,
   ⟨0x4013008C, 0x400, 24, 0x10, 4, 0x0, 0x0, 0x0, 0x0, 0x0, 0x0, .count⟩,
   ⟨0x401300C0, 0x400, 24, 0x1, 1, 0x0, 0x0, 0x0, 0xF, 0x0, 0x0, .bits⟩]

/-- The bus rows of TRIAD. -/
def triadRows : List RegRow :=
  [⟨0x40120000, 0x400, 16, 0x1, 1, 0x1, 0x0, 0x3F31, 0x0, 0x0, 0x0, .bits⟩,
   ⟨0x40120004, 0x400, 16, 0x1, 1, 0x0, 0x0, 0x1, 0x0, 0x0, 0x0, .bits⟩,
   ⟨0x40120008, 0x400, 16, 0x1, 1, 0xFFFF, 0x0, 0xFFFF, 0x0, 0x0, 0x0, .bits⟩,
   ⟨0x4012000C, 0x400, 16, 0x1, 1, 0x0, 0x0, 0x1FFFF, 0x0, 0x0, 0x0, .bits⟩,
   ⟨0x40120010, 0x400, 16, 0x1, 1, 0x0, 0x7F000F, 0x0, 0x0, 0x0, 0x0, .bits⟩,
   ⟨0x40120014, 0x400, 16, 0x1, 1, 0x0, 0x0, 0x0, 0x7F, 0x0, 0x0, .bits⟩,
   ⟨0x40120018, 0x400, 16, 0x1, 1, 0x0, 0x0, 0x0, 0x0, 0x0, 0x0, .nat⟩,
   ⟨0x4012001C, 0x400, 16, 0x1, 1, 0x0, 0x1, 0x0, 0x0, 0x0, 0x0, .bits⟩,
   ⟨0x40120020, 0x400, 16, 0x1, 1, 0x0, 0x0, 0x0, 0x0, 0x3, 0x0, .bits⟩,
   ⟨0x40120024, 0x400, 16, 0x1, 1, 0x0, 0x0, 0x0, 0x0, 0x0, 0xFFFFFFFF, .bits⟩,
   ⟨0x40120040, 0x400, 16, 0x10, 3, 0x0, 0x3FFFFF, 0x0, 0x0, 0x0, 0x0, .bits⟩,
   ⟨0x40120044, 0x400, 16, 0x10, 3, 0x60000, 0x0, 0xFFFF0000, 0x0, 0x0, 0x0, .bits⟩,
   ⟨0x40120048, 0x400, 16, 0x10, 3, 0xF000F00, 0x0, 0xFFFFFFFF, 0x0, 0x0, 0x0, .bits⟩,
   ⟨0x4012004C, 0x400, 16, 0x10, 3, 0x0, 0x0, 0x0, 0x0, 0x0, 0x0, .bits⟩]

/-- The bus rows of RIND. -/
def rindRows : List RegRow :=
  [⟨0x40110000, 0x1, 1, 0x1, 1, 0x0, 0x0, 0x0, 0x0, 0x0, 0x0, .bits⟩,
   ⟨0x40110004, 0x1, 1, 0x1, 1, 0x0, 0x0, 0x0, 0x0, 0xFF, 0x0, .bits⟩,
   ⟨0x40110008, 0x1, 1, 0x1, 1, 0x0, 0x0, 0x0, 0xFFFF, 0x0, 0x0, .bits⟩,
   ⟨0x4011000C, 0x1, 1, 0x1, 1, 0x0, 0x0, 0xFF, 0x0, 0x0, 0x0, .bits⟩,
   ⟨0x40110010, 0x1, 1, 0x1, 1, 0xFAC688, 0x0, 0xFFFFFF, 0x0, 0x0, 0x0, .bits⟩,
   ⟨0x40110014, 0x1, 1, 0x1, 1, 0x8040201, 0x0, 0xFFFFFFFF, 0x0, 0x0, 0x0, .bits⟩,
   ⟨0x40110018, 0x1, 1, 0x1, 1, 0x80402010, 0x0, 0xFFFFFFFF, 0x0, 0x0, 0x0, .bits⟩,
   ⟨0x4011001C, 0x1, 1, 0x1, 1, 0x0, 0x1FF, 0x0, 0x0, 0x0, 0x0, .bits⟩,
   ⟨0x40110020, 0x1, 1, 0x1, 1, 0x0, 0x0, 0x0, 0x1E, 0x0, 0x0, .bits⟩,
   ⟨0x40110024, 0x1, 1, 0x1, 1, 0x0, 0x0, 0x0, 0x0, 0x0, 0xFFFFFFFF, .bits⟩,
   ⟨0x40110028, 0x1, 1, 0x1, 1, 0x0, 0x0, 0x0, 0x0, 0x0, 0x0, .bits⟩,
   ⟨0x4011002C, 0x1, 1, 0x1, 1, 0x0, 0x0, 0x0, 0x0, 0x0, 0xFFFF, .bits⟩,
   ⟨0x40110100, 0x10, 48, 0x1, 1, 0x202100, 0x0, 0xFFFFFFFF, 0x0, 0x0, 0x0, .bits⟩,
   ⟨0x40110104, 0x10, 48, 0x1, 1, 0x3FF0000, 0x0, 0x3FF03FF, 0x0, 0x0, 0x0, .bits⟩,
   ⟨0x40110108, 0x10, 48, 0x1, 1, 0x0, 0x0, 0x0, 0xC, 0x0, 0x0, .bits⟩,
   ⟨0x4011010C, 0x10, 48, 0x1, 1, 0x0, 0x0, 0x0, 0x0, 0x0, 0xFFFFFFFF, .bits⟩]

/-- The bus rows of LE. -/
def leRows : List RegRow :=
  [⟨0x40140000, 0x400, 16, 0x1, 1, 0x0, 0x0, 0x3, 0x0, 0x0, 0x0, .bits⟩,
   ⟨0x40140004, 0x400, 16, 0x1, 1, 0x0, 0x0, 0x11F0F, 0x0, 0x0, 0x0, .bits⟩,
   ⟨0x40140008, 0x400, 16, 0x1, 1, 0x421, 0x0, 0x7777, 0x0, 0x0, 0x0, .bits⟩,
   ⟨0x4014000C, 0x400, 16, 0x1, 1, 0x201000, 0x0, 0xFFFFFFFF, 0x0, 0x0, 0x0, .bits⟩,
   ⟨0x40140010, 0x400, 16, 0x1, 1, 0x100, 0x0, 0x13F, 0x0, 0x0, 0x0, .bits⟩,
   ⟨0x40140014, 0x400, 16, 0x1, 1, 0x0, 0x0, 0xFFFFFFFF, 0x0, 0x0, 0x0, .angle⟩,
   ⟨0x40140018, 0x400, 16, 0x1, 1, 0x0, 0x0, 0xFFFFF, 0x0, 0x0, 0x0, .bits⟩,
   ⟨0x4014001C, 0x400, 16, 0x1, 1, 0x1D4C0, 0x0, 0xFFFFFF, 0x0, 0x0, 0x0, .bits⟩,
   ⟨0x40140020, 0x400, 16, 0x1, 1, 0x4000040, 0x0, 0xFF00FFFF, 0x0, 0x0, 0x0, .bits⟩,
   ⟨0x40140024, 0x400, 16, 0x1, 1, 0x40, 0x0, 0x80000FFF, 0x0, 0x0, 0x0, .bits⟩,
   ⟨0x40140028, 0x400, 16, 0x1, 1, 0x0, 0x3FF00FF, 0x0, 0x0, 0x0, 0x0, .bits⟩,
   ⟨0x4014002C, 0x400, 16, 0x1, 1, 0x0, 0x0, 0x0, 0x3FF, 0x0, 0x0, .bits⟩,
   ⟨0x40140030, 0x400, 16, 0x1, 1, 0x0, 0x0, 0x0, 0x0, 0x3, 0x0, .bits⟩,
   ⟨0x40140040, 0x400, 16, 0x8, 4, 0x0, 0x0, 0xFFFFFFFF, 0x0, 0x0, 0x0, .real⟩,
   ⟨0x40140044, 0x400, 16, 0x8, 4, 0x3F800000, 0x0, 0xFFFFFFFF, 0x0, 0x0, 0x0, .real⟩,
   ⟨0x40140060, 0x400, 16, 0x1, 1, 0x0, 0x0, 0xFFFFFFFF, 0x0, 0x0, 0x0, .real⟩,
   ⟨0x40140064, 0x400, 16, 0x1, 1, 0x0, 0x0, 0xFFFFFFFF, 0x0, 0x0, 0x0, .real⟩,
   ⟨0x40140068, 0x400, 16, 0x1, 1, 0x0, 0x0, 0xFFFFFFFF, 0x0, 0x0, 0x0, .real⟩,
   ⟨0x4014006C, 0x400, 16, 0x1, 1, 0x0, 0x0, 0xFFFFFFFF, 0x0, 0x0, 0x0, .real⟩,
   ⟨0x40140070, 0x400, 16, 0x1, 1, 0x3F800000, 0x0, 0xFFFFFFFF, 0x0, 0x0, 0x0, .real⟩,
   ⟨0x40140074, 0x400, 16, 0x1, 1, 0x3F000000, 0x0, 0xFFFFFFFF, 0x0, 0x0, 0x0, .real⟩,
   ⟨0x40140078, 0x400, 16, 0x1, 1, 0x0, 0x0, 0xFFFFFFFF, 0x0, 0x0, 0x0, .real⟩,
   ⟨0x4014007C, 0x400, 16, 0x1, 1, 0x3F800000, 0x0, 0xFFFFFFFF, 0x0, 0x0, 0x0, .real⟩,
   ⟨0x40140080, 0x400, 16, 0x1, 1, 0x44160000, 0x0, 0xFFFFFFFF, 0x0, 0x0, 0x0, .real⟩,
   ⟨0x40140084, 0x400, 16, 0x1, 1, 0x42C80000, 0x0, 0xFFFFFFFF, 0x0, 0x0, 0x0, .real⟩,
   ⟨0x40140090, 0x400, 16, 0x1, 1, 0x0, 0x0, 0xFFFFFFFF, 0x0, 0x0, 0x0, .real⟩,
   ⟨0x40140094, 0x400, 16, 0x1, 1, 0x0, 0x0, 0xFFFFFFFF, 0x0, 0x0, 0x0, .real⟩,
   ⟨0x40140098, 0x400, 16, 0x1, 1, 0x0, 0x0, 0xFFFFFFFF, 0x0, 0x0, 0x0, .real⟩,
   ⟨0x4014009C, 0x400, 16, 0x1, 1, 0x0, 0x0, 0xFFFFFFFF, 0x0, 0x0, 0x0, .real⟩,
   ⟨0x401400A0, 0x400, 16, 0x1, 1, 0x0, 0x0, 0x0, 0x0, 0x0, 0x0, .real⟩,
   ⟨0x401400A4, 0x400, 16, 0x1, 1, 0x0, 0x0, 0x0, 0x0, 0x0, 0x0, .real⟩,
   ⟨0x401400A8, 0x400, 16, 0x1, 1, 0x0, 0x0, 0x0, 0x0, 0x0, 0x0, .real⟩,
   ⟨0x401400AC, 0x400, 16, 0x1, 1, 0x0, 0x0, 0x0, 0x0, 0x0, 0x0, .real⟩,
   ⟨0x401400B0, 0x400, 16, 0x1, 1, 0x0, 0xFFFFFFFF, 0x0, 0x0, 0x0, 0x0, .real⟩,
   ⟨0x401400B4, 0x400, 16, 0x1, 1, 0x0, 0xFFFFFFFF, 0x0, 0x0, 0x0, 0x0, .real⟩,
   ⟨0x401400B8, 0x400, 16, 0x1, 1, 0x0, 0x0, 0x0, 0x0, 0x0, 0x0, .angle⟩,
   ⟨0x401400BC, 0x400, 16, 0x1, 1, 0x0, 0x0, 0x0, 0x0, 0x0, 0x0, .real⟩,
   ⟨0x401400C0, 0x400, 16, 0x1, 1, 0x0, 0x0, 0x0, 0x0, 0x0, 0x0, .count⟩,
   ⟨0x401400C4, 0x400, 16, 0x1, 1, 0x0, 0x0, 0x0, 0x0, 0x0, 0x0, .nat⟩,
   ⟨0x401400C8, 0x400, 16, 0x1, 1, 0x0, 0x0, 0x0, 0x0, 0x0, 0x0, .count⟩,
   ⟨0x401400D0, 0x400, 16, 0x1, 1, 0x0, 0x0, 0x0, 0x0, 0x0, 0x0, .real⟩,
   ⟨0x401400D4, 0x400, 16, 0x1, 1, 0x0, 0x0, 0x0, 0x0, 0x0, 0x0, .real⟩,
   ⟨0x401400D8, 0x400, 16, 0x1, 1, 0x0, 0xFFFFFFFF, 0x0, 0x0, 0x0, 0x0, .real⟩,
   ⟨0x401400DC, 0x400, 16, 0x1, 1, 0x0, 0xFFFFFFFF, 0x0, 0x0, 0x0, 0x0, .real⟩,
   ⟨0x401400E0, 0x400, 16, 0x1, 1, 0x0, 0xFFFF0002, 0x0, 0x0, 0x1, 0x0, .bits⟩,
   ⟨0x401400E4, 0x400, 16, 0x1, 1, 0x0, 0x0, 0x0, 0x0, 0x0, 0x0, .bits⟩,
   ⟨0x401400F0, 0x400, 16, 0x1, 1, 0x0, 0xFFFFFFFF, 0x0, 0x0, 0x0, 0x0, .angle⟩,
   ⟨0x401400F4, 0x400, 16, 0x1, 1, 0x0, 0xFFFFFFFF, 0x0, 0x0, 0x0, 0x0, .real⟩,
   ⟨0x401400F8, 0x400, 16, 0x1, 1, 0x0, 0xFFFFFFFF, 0x0, 0x0, 0x0, 0x0, .bits⟩,
   ⟨0x40140100, 0x400, 16, 0x1, 1, 0x0, 0x0, 0x0, 0x0, 0x0, 0xFFFFFFFF, .bits⟩,
   ⟨0x40140104, 0x400, 16, 0x1, 1, 0x0, 0x0, 0x0, 0x0, 0x0, 0xFFFFFFFF, .bits⟩,
   ⟨0x40140108, 0x400, 16, 0x1, 1, 0x0, 0x0, 0x0, 0x0, 0x0, 0xFFFFFFFF, .bits⟩]

/-- The bus rows of PRESS. -/
def pressRows : List RegRow :=
  [⟨0x40200000, 0x1, 1, 0x1, 1, 0x0, 0x0, 0x0, 0xFB, 0x0, 0x0, .bits⟩,
   ⟨0x40200004, 0x1, 1, 0x1, 1, 0x0, 0xFF000F, 0x0, 0x0, 0x0, 0x0, .bits⟩,
   ⟨0x40200008, 0x1, 1, 0x1, 1, 0x0, 0x0, 0x0, 0x0, 0x0, 0x0, .bits⟩,
   ⟨0x4020000C, 0x1, 1, 0x1, 1, 0x0, 0x0, 0x0, 0x0, 0x0, 0x0, .bits⟩,
   ⟨0x40200010, 0x4, 4, 0x1, 1, 0x0, 0x0, 0x0, 0x0, 0x0, 0xFFFFFFFF, .bits⟩,
   ⟨0x40200020, 0x4, 4, 0x1, 1, 0x0, 0x0, 0x0, 0x0, 0x0, 0xFFFFFFFF, .bits⟩,
   ⟨0x40200030, 0x1, 1, 0x1, 1, 0x0, 0x0, 0x0, 0x0, 0x0, 0xFFFFFFFF, .bits⟩,
   ⟨0x40200034, 0x1, 1, 0x1, 1, 0x0, 0x0, 0x0, 0x0, 0x0, 0xFFFFFFFF, .bits⟩,
   ⟨0x40200100, 0x4, 128, 0x1, 1, 0x20, 0x0, 0x800007FF, 0x0, 0x0, 0x0, .bits⟩,
   ⟨0x40200300, 0x4, 64, 0x1, 1, 0x0, 0x0, 0x0, 0x0, 0x0, 0x0, .bits⟩,
   ⟨0x40200400, 0x4, 128, 0x1, 1, 0x0, 0xFFFFFFFF, 0x0, 0x0, 0x0, 0x0, .bits⟩]

/-- The bus rows of CTX. -/
def ctxRows : List RegRow :=
  [⟨0x40280000, 0x200, 1024, 0x1, 1, 0x1, 0x0, 0xE07FFFFF, 0x0, 0x0, 0x0, .bits⟩,
   ⟨0x40280004, 0x200, 1024, 0x1, 1, 0x0, 0x0, 0xFFFFFFFF, 0x0, 0x0, 0x0, .bits⟩,
   ⟨0x40280008, 0x200, 1024, 0x1, 1, 0x0, 0x0, 0xFF3F3F07, 0x0, 0x0, 0x0, .bits⟩,
   ⟨0x4028000C, 0x200, 1024, 0x1, 1, 0x3F800000, 0x0, 0xFFFFFFFF, 0x0, 0x0, 0x0, .bits⟩,
   ⟨0x40280010, 0x200, 1024, 0x1, 1, 0x0, 0x0, 0xFFFFFFFF, 0x0, 0x0, 0x0, .bits⟩,
   ⟨0x40280014, 0x200, 1024, 0x1, 1, 0x40000000, 0x0, 0xFFFFFFFF, 0x0, 0x0, 0x0, .bits⟩,
   ⟨0x40280018, 0x200, 1024, 0x1, 1, 0x3F800000, 0x0, 0xFFFFFFFF, 0x0, 0x0, 0x0, .bits⟩,
   ⟨0x4028001C, 0x200, 1024, 0x1, 1, 0x43FA0000, 0x0, 0xFFFFFFFF, 0x0, 0x0, 0x0, .bits⟩,
   ⟨0x40280020, 0x200, 1024, 0x1, 1, 0x44FA0000, 0x0, 0xFFFFFFFF, 0x0, 0x0, 0x0, .bits⟩,
   ⟨0x40280024, 0x200, 1024, 0x1, 1, 0x43480000, 0x0, 0xFFFFFFFF, 0x0, 0x0, 0x0, .bits⟩,
   ⟨0x40280028, 0x200, 1024, 0x1, 1, 0x3D4CCCCD, 0x0, 0xFFFFFFFF, 0x0, 0x0, 0x0, .bits⟩,
   ⟨0x4028002C, 0x200, 1024, 0x1, 1, 0x0, 0x0, 0xFFFFFFFF, 0x0, 0x0, 0x0, .bits⟩,
   ⟨0x40280040, 0x200, 1024, 0x4, 32, 0x0, 0x0, 0xFFFFFFFF, 0x0, 0x0, 0x0, .bits⟩,
   ⟨0x402800C0, 0x200, 1024, 0x4, 16, 0x0, 0x0, 0xFFFFFFFF, 0x0, 0x0, 0x0, .bits⟩,
   ⟨0x40280100, 0x200, 1024, 0x1, 1, 0x0, 0x0, 0x0, 0x0, 0x0, 0x0, .bits⟩,
   ⟨0x40280104, 0x200, 1024, 0x1, 1, 0x0, 0x0, 0x0, 0x0, 0x0, 0x0, .count⟩,
   ⟨0x40280108, 0x200, 1024, 0x1, 1, 0x0, 0x0, 0x0, 0x0, 0x0, 0x0, .count⟩,
   ⟨0x4028010C, 0x200, 1024, 0x1, 1, 0x0, 0x0, 0x0, 0x0, 0x0, 0xFFFFFFFF, .bits⟩,
   ⟨0x40280110, 0x200, 1024, 0x1, 1, 0x0, 0x0, 0x0, 0x0, 0x0, 0xFFFFFFFF, .bits⟩,
   ⟨0x40280114, 0x200, 1024, 0x1, 1, 0x0, 0x0, 0x0, 0x0, 0x0, 0x0, .nat⟩,
   ⟨0x40280118, 0x200, 1024, 0x1, 1, 0x0, 0x0, 0x0, 0x0, 0x0, 0x0, .nat⟩,
   ⟨0x4028011C, 0x200, 1024, 0x1, 1, 0x0, 0x0, 0x0, 0x0, 0x0, 0x0, .nat⟩,
   ⟨0x40280120, 0x200, 1024, 0x1, 1, 0x0, 0x0, 0x0, 0x0, 0x0, 0x0, .count⟩,
   ⟨0x40280124, 0x200, 1024, 0x1, 1, 0x0, 0x0, 0x0, 0x0, 0x0, 0x0, .nat⟩,
   ⟨0x40280128, 0x200, 1024, 0x1, 1, 0x0, 0x0, 0x0, 0x0, 0x0, 0x0, .real⟩,
   ⟨0x4028012C, 0x200, 1024, 0x1, 1, 0x0, 0x0, 0x0, 0x0, 0x0, 0x0, .real⟩,
   ⟨0x40280130, 0x200, 1024, 0x1, 1, 0x0, 0x0, 0x0, 0x0, 0x0, 0x0, .count⟩,
   ⟨0x40280134, 0x200, 1024, 0x1, 1, 0x0, 0x0, 0x0, 0x0, 0x0, 0x0, .bits⟩,
   ⟨0x40280138, 0x200, 1024, 0x4, 9, 0x0, 0x0, 0x0, 0x0, 0x0, 0x0, .bits⟩]

/-- The bus rows of POUT. -/
def poutRows : List RegRow :=
  [⟨0x40210000, 0x1, 1, 0x1, 1, 0x0, 0x0, 0x0, 0xFB, 0x0, 0x0, .bits⟩,
   ⟨0x40210004, 0x1, 1, 0x1, 1, 0x0, 0xFF000F, 0x0, 0x0, 0x0, 0x0, .bits⟩,
   ⟨0x40210008, 0x1, 1, 0x1, 1, 0x101, 0x0, 0x0, 0x0, 0x0, 0x0, .bits⟩,
   ⟨0x4021000C, 0x1, 1, 0x1, 1, 0x0, 0x0, 0x80000007, 0x0, 0x0, 0x0, .bits⟩,
   ⟨0x40210010, 0x1, 1, 0x1, 1, 0xFFFFFFFF, 0x0, 0xFFFFFFFF, 0x0, 0x0, 0x0, .bits⟩,
   ⟨0x40210014, 0x1, 1, 0x1, 1, 0x0, 0x0, 0x0, 0x0, 0x0, 0x0, .bits⟩,
   ⟨0x40210018, 0x1, 1, 0x1, 1, 0x0, 0x0, 0x3FFFFFFF, 0x0, 0x0, 0x0, .bits⟩,
   ⟨0x4021001C, 0x1, 1, 0x1, 1, 0x0, 0x0, 0xFFFFFF, 0x0, 0x0, 0x0, .bits⟩,
   ⟨0x40210020, 0x1, 1, 0x1, 1, 0x0, 0x0, 0x0, 0x0, 0x0, 0x0, .bits⟩,
   ⟨0x40210024, 0x1, 1, 0x1, 1, 0x0, 0x0, 0x0, 0x0, 0x0, 0xFFFFFFFF, .bits⟩,
   ⟨0x40210028, 0x1, 1, 0x1, 1, 0x0, 0x0, 0x3FFFFFFF, 0x0, 0x0, 0x0, .bits⟩,
   ⟨0x4021002C, 0x1, 1, 0x1, 1, 0x0, 0x0, 0x3FFFFFFF, 0x0, 0x0, 0x0, .bits⟩,
   ⟨0x40210030, 0x1, 1, 0x1, 1, 0x0, 0x0, 0x0, 0x0, 0x0, 0xFFFFFFFF, .bits⟩,
   ⟨0x40210034, 0x1, 1, 0x1, 1, 0x0, 0x0, 0x0, 0x0, 0x0, 0xFFFFFFFF, .bits⟩,
   ⟨0x40210038, 0x1, 1, 0x1, 1, 0x0, 0x0, 0x0, 0x0, 0x0, 0x0, .bits⟩,
   ⟨0x40210040, 0x4, 8, 0x1, 1, 0x0, 0x0, 0x0, 0x0, 0x0, 0xFFFFFFFF, .bits⟩,
   ⟨0x40210060, 0x4, 4, 0x1, 1, 0x0, 0x0, 0x0, 0x0, 0x0, 0x0, .bits⟩,
   ⟨0x40210100, 0x8, 128, 0x1, 1, 0x0, 0x0, 0x3FFFFFFF, 0x0, 0x0, 0x0, .bits⟩,
   ⟨0x40210104, 0x8, 128, 0x1, 1, 0x400, 0x0, 0xFFFFFF, 0x0, 0x0, 0x0, .bits⟩,
   ⟨0x40210500, 0x20, 16, 0x1, 1, 0x0, 0x0, 0xE7FF0000, 0x0, 0x0, 0x0, .bits⟩,
   ⟨0x40210504, 0x20, 16, 0x1, 1, 0x3E803E8, 0x0, 0xFFFFFFFF, 0x0, 0x0, 0x0, .bits⟩,
   ⟨0x40210508, 0x20, 16, 0x1, 1, 0x0, 0x0, 0xFFFFFFFF, 0x0, 0x0, 0x0, .bits⟩,
   ⟨0x4021050C, 0x20, 16, 0x1, 1, 0x0, 0xFFFFFFFF, 0x0, 0x0, 0x0, 0x0, .count⟩,
   ⟨0x40210510, 0x20, 16, 0x4, 4, 0x0, 0x0, 0xFFFFFFFF, 0x0, 0x0, 0x0, .bits⟩]

/-- The bus rows of CORE. -/
def coreRows : List RegRow :=
  [⟨0x40410000, 0x1, 1, 0x1, 1, 0x1010000, 0x0, 0x0, 0x0, 0x0, 0x0, .bits⟩,
   ⟨0x40410004, 0x1, 1, 0x1, 1, 0xF, 0x0, 0x0, 0x0, 0x0, 0x0, .bits⟩,
   ⟨0x40410008, 0x1, 1, 0x1, 1, 0x7FF, 0x0, 0x0, 0x0, 0x0, 0x0, .bits⟩,
   ⟨0x4041000C, 0x1, 1, 0x1, 1, 0x4400020, 0x0, 0x0, 0x0, 0x0, 0x0, .bits⟩,
   ⟨0x40410010, 0x1, 1, 0x1, 1, 0x0, 0x1F13, 0x0, 0x0, 0x0, 0x0, .bits⟩,
   ⟨0x40410014, 0x1, 1, 0x1, 1, 0x0, 0x1F, 0x0, 0x0, 0x0, 0x0, .bits⟩,
   ⟨0x40410018, 0x1, 1, 0x1, 1, 0x40000000, 0xFFFFC000, 0x0, 0x0, 0x0, 0x0, .bits⟩,
   ⟨0x4041001C, 0x1, 1, 0x1, 1, 0x10000801, 0xFFFFFF07, 0x0, 0x0, 0x0, 0x0, .bits⟩,
   ⟨0x40411000, 0x1, 1, 0x1, 1, 0x0, 0xFFFFFFFF, 0x0, 0x0, 0x0, 0x0, .bits⟩,
   ⟨0x40411004, 0x1, 1, 0x1, 1, 0xE, 0xF, 0x0, 0x0, 0x0, 0x0, .bits⟩,
   ⟨0x40411008, 0x1, 1, 0x1, 1, 0x2, 0x3, 0x0, 0x0, 0x0, 0x0, .bits⟩,
   ⟨0x4041100C, 0x1, 1, 0x1, 1, 0x0, 0xFFFFFFFF, 0x0, 0x0, 0x0, 0x0, .addr⟩,
   ⟨0x40411010, 0x4, 3, 0x1, 1, 0x0, 0xFFFFFFFF, 0x0, 0x0, 0x0, 0x0, .addr⟩,
   ⟨0x4041101C, 0x1, 1, 0x1, 1, 0x0, 0x0, 0x0, 0x0, 0x0, 0x0, .bits⟩,
   ⟨0x40411020, 0x1, 1, 0x1, 1, 0x0, 0x0, 0x0, 0x0, 0x0, 0x0, .bits⟩,
   ⟨0x40411024, 0x1, 1, 0x1, 1, 0x0, 0x0, 0x0, 0x0, 0x1, 0x0, .bits⟩,
   ⟨0x40411028, 0x1, 1, 0x1, 1, 0x0, 0xFFFFFFF0, 0x0, 0x0, 0x0, 0x0, .bits⟩,
   ⟨0x4041102C, 0x1, 1, 0x1, 1, 0x0, 0x1FF, 0x0, 0x0, 0x0, 0x0, .bits⟩,
   ⟨0x40411040, 0x4, 16, 0x1, 1, 0x0, 0xFFFFFFFF, 0x0, 0x0, 0x0, 0x0, .code⟩,
   ⟨0x40411080, 0x1, 1, 0x1, 1, 0x2, 0x3, 0x0, 0x0, 0x0, 0x0, .bits⟩,
   ⟨0x40411100, 0x10, 16, 0x1, 1, 0x0, 0xFFFFFFE0, 0x0, 0x0, 0x0, 0x0, .bits⟩,
   ⟨0x40411104, 0x10, 16, 0x1, 1, 0x0, 0xFFFFFFE0, 0x0, 0x0, 0x0, 0x0, .bits⟩,
   ⟨0x40411108, 0x10, 16, 0x1, 1, 0x0, 0x1BF, 0x0, 0x0, 0x0, 0x0, .bits⟩,
   ⟨0x40411200, 0x20, 16, 0x1, 1, 0x0, 0xFFFFFFFF, 0x0, 0x0, 0x0, 0x0, .code⟩,
   ⟨0x40411204, 0x20, 16, 0x1, 1, 0x0, 0xFFFFFFFF, 0x0, 0x0, 0x0, 0x0, .bits⟩,
   ⟨0x40411208, 0x20, 16, 0x1, 1, 0x0, 0xFFFFFFFF, 0x0, 0x0, 0x0, 0x0, .addr⟩,
   ⟨0x4041120C, 0x20, 16, 0x1, 1, 0x0, 0xFFFFFFFF, 0x0, 0x0, 0x0, 0x0, .addr⟩,
   ⟨0x40411210, 0x20, 16, 0x1, 1, 0x0, 0xFFFFFFFF, 0x0, 0x0, 0x0, 0x0, .nat⟩,
   ⟨0x40411214, 0x20, 16, 0x1, 1, 0x0, 0x0, 0x0, 0x0, 0x0, 0x0, .bits⟩]

/-- The bus rows of PAIRC. -/
def paircRows : List RegRow :=
  [⟨0x40070000, 0x40, 4, 0x1, 1, 0x10001000, 0x0, 0x1FF3FE01, 0x0, 0x0, 0x0, .bits⟩,
   ⟨0x40070004, 0x40, 4, 0x1, 1, 0x1000, 0x0, 0x1FFFF, 0x0, 0x0, 0x0, .bits⟩,
   ⟨0x40070008, 0x40, 4, 0x1, 1, 0x0, 0x0, 0xFFFF, 0x0, 0x0, 0x0, .bits⟩,
   ⟨0x4007000C, 0x40, 4, 0x1, 1, 0x0, 0x1F0F, 0x0, 0x0, 0x0, 0x0, .bits⟩,
   ⟨0x40070010, 0x40, 4, 0x1, 1, 0x0, 0x0, 0x0, 0x1F, 0x0, 0x0, .bits⟩,
   ⟨0x40070014, 0x40, 4, 0x1, 1, 0x0, 0x0, 0x0, 0x0, 0x0, 0x0, .count⟩,
   ⟨0x40070018, 0x40, 4, 0x1, 1, 0x0, 0x0, 0x0, 0x0, 0x0, 0xFFFFFFFF, .bits⟩,
   ⟨0x4007001C, 0x40, 4, 0x1, 1, 0x0, 0x0, 0x0, 0x0, 0x0, 0x0, .bits⟩,
   ⟨0x40070020, 0x40, 4, 0x1, 1, 0x0, 0x0, 0x0, 0x0, 0x0, 0x0, .bits⟩,
   ⟨0x40070024, 0x40, 4, 0x1, 1, 0x0, 0x0, 0x0, 0x0, 0x0, 0x0, .bits⟩,
   ⟨0x40070028, 0x40, 4, 0x1, 1, 0x0, 0x0, 0x0, 0x0, 0x0, 0x0, .bits⟩,
   ⟨0x4007002C, 0x40, 4, 0x1, 1, 0xFA0, 0xC0FFFFFF, 0x0, 0x0, 0x0, 0x0, .bits⟩,
   ⟨0x40070030, 0x40, 4, 0x1, 1, 0x0, 0xFFFF, 0x0, 0x0, 0x0, 0x0, .bits⟩,
   ⟨0x40070034, 0x40, 4, 0x1, 1, 0xFA0, 0x0, 0x0, 0x0, 0x0, 0x0, .bits⟩,
   ⟨0x40070400, 0x1, 1, 0x1, 1, 0xF000010, 0x0, 0xEFFF00FF, 0x0, 0x0, 0x0, .bits⟩,
   ⟨0x40070404, 0x1, 1, 0x1, 1, 0x10000000, 0x0, 0xFFFFF3FF, 0x0, 0x0, 0x0, .bits⟩,
   ⟨0x40070408, 0x1, 1, 0x1, 1, 0x0, 0xFF0F, 0x0, 0x0, 0x0, 0x0, .bits⟩,
   ⟨0x4007040C, 0x1, 1, 0x1, 1, 0x8000000, 0x0, 0x0, 0xFF, 0x0, 0x0, .bits⟩,
   ⟨0x40070410, 0x1, 1, 0x1, 1, 0x0, 0x0, 0x0, 0x0, 0x0, 0xFFFFFFFF, .bits⟩,
   ⟨0x40070414, 0x1, 1, 0x1, 1, 0x0, 0x0, 0x0, 0x0, 0x0, 0xFFFFFFFF, .bits⟩,
   ⟨0x40070418, 0x1, 1, 0x1, 1, 0x0, 0x0, 0x0, 0x0, 0x0, 0x0, .bits⟩,
   ⟨0x4007041C, 0x1, 1, 0x1, 1, 0x0, 0x0, 0x0, 0x0, 0x0, 0x0, .count⟩,
   ⟨0x40070420, 0x1, 1, 0x1, 1, 0x10000000, 0x0, 0x0, 0x0, 0x0, 0x0, .bits⟩,
   ⟨0x40070424, 0x1, 1, 0x1, 1, 0x0, 0x0, 0x0, 0x0, 0x3, 0x0, .bits⟩,
   ⟨0x40070428, 0x1, 1, 0x1, 1, 0x0, 0x0, 0x0, 0x0, 0x0, 0x0, .bits⟩]

/-- The bus rows of ICU. -/
def icuRows : List RegRow :=
  [⟨0x40030000, 0x1, 1, 0x1, 1, 0x0, 0x0, 0x0, 0x3, 0x0, 0x0, .bits⟩,
   ⟨0x40030004, 0x1, 1, 0x1, 1, 0x0, 0x3, 0x0, 0x0, 0x0, 0x0, .bits⟩,
   ⟨0x40030008, 0x1, 1, 0x1, 1, 0x0, 0x0, 0x0, 0x0, 0x0, 0x0, .bits⟩,
   ⟨0x4003000C, 0x1, 1, 0x1, 1, 0x0, 0x0, 0x0, 0x0, 0x0, 0xFFFF, .bits⟩,
   ⟨0x40030040, 0x4, 8, 0x1, 1, 0x0, 0x0, 0x0, 0x0, 0x0, 0x0, .bits⟩,
   ⟨0x40030100, 0x4, 32, 0x1, 1, 0x0, 0x0, 0x0, 0xFFFFFFFF, 0x0, 0x0, .bits⟩,
   ⟨0x40030180, 0x4, 32, 0x1, 1, 0x0, 0x0, 0x0, 0x0, 0xFFFFFFFF, 0x0, .bits⟩,
   ⟨0x40030200, 0x4, 32, 0x1, 1, 0x0, 0x0, 0x0, 0x0, 0x0, 0x0, .bits⟩,
   ⟨0x40030280, 0x4, 32, 0x1, 1, 0x0, 0xFFFFFFFF, 0x0, 0x0, 0x0, 0x0, .bits⟩,
   ⟨0x40030300, 0x4, 64, 0x1, 1, 0x0, 0x0, 0xFFFF, 0x0, 0x0, 0x0, .bits⟩,
   ⟨0x40030400, 0x4, 64, 0x1, 1, 0x0, 0xF, 0x0, 0x0, 0x0, 0x0, .bits⟩,
   ⟨0x40030600, 0x40, 8, 0x4, 16, 0x0, 0x0, 0x0, 0x0, 0x0, 0x0, .bits⟩,
   ⟨0x40032000, 0x4, 1024, 0x1, 1, 0xFF00, 0x0, 0xFF0F, 0x0, 0x0, 0x0, .bits⟩,
   ⟨0x40033000, 0x4, 1024, 0x1, 1, 0x0, 0xFFFFFFFF, 0x0, 0x0, 0x0, 0x0, .code⟩]

/-- The bus rows of FLASHC. -/
def flashcRows : List RegRow :=
  [⟨0x40040000, 0x1, 1, 0x1, 1, 0x10F, 0x0, 0x10F, 0x0, 0x0, 0x0, .bits⟩,
   ⟨0x40040004, 0x1, 1, 0x1, 1, 0x0, 0xFF0F, 0x0, 0x0, 0x0, 0x0, .bits⟩,
   ⟨0x40040008, 0x1, 1, 0x1, 1, 0x0, 0x0, 0x0, 0xFF, 0x0, 0x0, .bits⟩,
   ⟨0x4004000C, 0x1, 1, 0x1, 1, 0x0, 0xFF0F, 0x0, 0x0, 0x0, 0x0, .bits⟩,
   ⟨0x40040010, 0x1, 1, 0x1, 1, 0x0, 0x1FFFFE0, 0x0, 0x0, 0x0, 0x0, .bits⟩,
   ⟨0x40040014, 0x1, 1, 0x1, 1, 0x0, 0x0, 0x0, 0x0, 0x0, 0x0, .bits⟩,
   ⟨0x40040018, 0x1, 1, 0x1, 1, 0x0, 0xFFFFFFFF, 0x0, 0x0, 0x0, 0x0, .bits⟩,
   ⟨0x40040020, 0x4, 8, 0x1, 1, 0x0, 0xFFFFFFFF, 0x0, 0x0, 0x0, 0x0, .bits⟩,
   ⟨0x40040040, 0x1, 1, 0x1, 1, 0x8000, 0x0, 0x0, 0x0, 0x0, 0x0, .bits⟩,
   ⟨0x40040044, 0x1, 1, 0x1, 1, 0x0, 0x0, 0x0, 0x0, 0x0, 0x0, .bits⟩,
   ⟨0x40040048, 0x1, 1, 0x1, 1, 0x0, 0xFF0003, 0x0, 0x0, 0x0, 0x0, .bits⟩,
   ⟨0x4004004C, 0x1, 1, 0x1, 1, 0x0, 0x0, 0x0, 0x0, 0x0, 0x0, .bits⟩,
   ⟨0x40040050, 0x1, 1, 0x1, 1, 0x0, 0x0, 0x0, 0x0, 0x0, 0xFFFFFFFF, .bits⟩,
   ⟨0x40040054, 0x1, 1, 0x1, 1, 0x0, 0x0, 0x0, 0x0, 0x0, 0x0, .bits⟩,
   ⟨0x40040058, 0x1, 1, 0x1, 1, 0x0, 0x0, 0x0, 0x0, 0x0, 0x0, .bits⟩]

/-- The bus rows of DDRC. -/
def ddrcRows : List RegRow :=
  [⟨0x40050000, 0x1, 1, 0x1, 1, 0x43, 0x0, 0x7B, 0x0, 0x0, 0x0, .bits⟩,
   ⟨0x40050004, 0x1, 1, 0x1, 1, 0x2, 0x0, 0x3, 0x0, 0x0, 0x0, .bits⟩,
   ⟨0x40050008, 0x1, 1, 0x1, 1, 0x0, 0x3F0F, 0x0, 0x0, 0x0, 0x0, .bits⟩,
   ⟨0x4005000C, 0x1, 1, 0x1, 1, 0x0, 0x0, 0x0, 0x3F, 0x0, 0x0, .bits⟩,
   ⟨0x40050010, 0x1, 1, 0x1, 1, 0x0, 0x0, 0x0, 0x0, 0x0, 0x0, .bits⟩,
   ⟨0x40050014, 0x1, 1, 0x1, 1, 0x0, 0x0, 0x0, 0x0, 0x0, 0x0, .bits⟩,
   ⟨0x40050018, 0x1, 1, 0x1, 1, 0x100, 0x0, 0xFFFF, 0x0, 0x0, 0x0, .bits⟩,
   ⟨0x4005001C, 0x1, 1, 0x1, 1, 0x0, 0x0, 0x0, 0x0, 0x0, 0xFFFFFFFF, .bits⟩,
   ⟨0x40050020, 0x1, 1, 0x1, 1, 0x0, 0x0, 0x0, 0x0, 0x0, 0x0, .bits⟩,
   ⟨0x40050024, 0x1, 1, 0x1, 1, 0x0, 0x0, 0x0, 0x0, 0x0, 0x0, .bits⟩,
   ⟨0x40050040, 0x4, 16, 0x1, 1, 0x7000000, 0x0, 0x8F0001FF, 0x0, 0x0, 0x0, .bits⟩,
   ⟨0x40050200, 0x1, 1, 0x1, 1, 0x400, 0x0, 0xFFFF, 0x0, 0x0, 0x0, .bits⟩,
   ⟨0x40050204, 0x1, 1, 0x1, 1, 0x0, 0x0, 0x0, 0x3, 0x0, 0x0, .bits⟩,
   ⟨0x40050208, 0x1, 1, 0x1, 1, 0x0, 0x0, 0x0, 0x0, 0x0, 0xFFFFFFFF, .bits⟩,
   ⟨0x4005020C, 0x1, 1, 0x1, 1, 0x0, 0x0, 0x0, 0x0, 0x0, 0x0, .bits⟩,
   ⟨0x40050210, 0x1, 1, 0x1, 1, 0x0, 0x3, 0x0, 0x0, 0x0, 0x0, .bits⟩]

/-- The bus rows of CVU. -/
def cvuRows : List RegRow :=
  [⟨0x40060000, 0x40, 8, 0x1, 1, 0x0, 0x0, 0xFE000000, 0x0, 0x0, 0x0, .bits⟩,
   ⟨0x40060004, 0x40, 8, 0x1, 1, 0x1F00, 0x0, 0x3FE7, 0x0, 0x0, 0x0, .bits⟩,
   ⟨0x40060008, 0x40, 8, 0x1, 1, 0x0, 0x0, 0xFFFFFFFF, 0x0, 0x0, 0x0, .bits⟩,
   ⟨0x4006000C, 0x40, 8, 0x1, 1, 0x0, 0x0, 0xFFFFFFFF, 0x0, 0x0, 0x0, .bits⟩,
   ⟨0x40060010, 0x40, 8, 0x1, 1, 0x0, 0xF0F, 0x0, 0x0, 0x0, 0x0, .bits⟩,
   ⟨0x40060014, 0x40, 8, 0x1, 1, 0x0, 0x0, 0x0, 0xF, 0x0, 0x0, .bits⟩,
   ⟨0x40060018, 0x40, 8, 0x1, 1, 0xFFFFFFFF, 0xFFFFFFFF, 0x0, 0x0, 0x0, 0x0, .bits⟩,
   ⟨0x4006001C, 0x40, 8, 0x1, 1, 0xFFFFFFFF, 0xFFFFFFFF, 0x0, 0x0, 0x0, 0x0, .bits⟩,
   ⟨0x40060020, 0x40, 8, 0x1, 1, 0x0, 0x0, 0x0, 0x0, 0x0, 0x0, .bits⟩,
   ⟨0x40060024, 0x40, 8, 0x1, 1, 0x0, 0xFFFFFFFF, 0x0, 0x0, 0x0, 0x0, .bits⟩,
   ⟨0x40060028, 0x40, 8, 0x1, 1, 0x0, 0xFFFF, 0x0, 0x0, 0x0, 0x0, .bits⟩,
   ⟨0x4006002C, 0x40, 8, 0x1, 1, 0x0, 0xFFFFFFFF, 0x0, 0x0, 0x0, 0x0, .bits⟩,
   ⟨0x40060030, 0x40, 8, 0x1, 1, 0x0, 0x0, 0x0, 0x0, 0x0, 0x0, .count⟩,
   ⟨0x40060034, 0x40, 8, 0x1, 1, 0x0, 0x0, 0x0, 0x0, 0x0, 0xFFFF, .bits⟩]

/-- The bus rows of HOST. -/
def hostRows : List RegRow :=
  [⟨0xB0000000000, 0x1, 1, 0x1, 1, 0x0, 0x0, 0x0, 0x3, 0x0, 0x0, .bits⟩,
   ⟨0xB0000000004, 0x1, 1, 0x1, 1, 0x1010101, 0xFFFFFFFF, 0x0, 0x0, 0x0, 0x0, .bits⟩,
   ⟨0xB0000000008, 0x1, 1, 0x1, 1, 0x0, 0xFFFFFFC0, 0x0, 0x0, 0x0, 0x0, .bits⟩,
   ⟨0xB000000000C, 0x1, 1, 0x1, 1, 0x0, 0xFFFFFFFF, 0x0, 0x0, 0x0, 0x0, .bits⟩,
   ⟨0xB0000000010, 0x1, 1, 0x1, 1, 0x3E8, 0xFFFF, 0x0, 0x0, 0x0, 0x0, .bits⟩,
   ⟨0xB0000000014, 0x1, 1, 0x1, 1, 0x0, 0x0, 0x0, 0x0, 0x0, 0xFFFF, .bits⟩,
   ⟨0xB0000000018, 0x1, 1, 0x1, 1, 0x0, 0x0, 0x0, 0x0, 0x0, 0xFFFF, .bits⟩,
   ⟨0xB0000000100, 0x20, 12, 0x1, 1, 0x0, 0xFFFFF000, 0x0, 0x0, 0x0, 0x0, .bits⟩,
   ⟨0xB0000000104, 0x20, 12, 0x1, 1, 0x0, 0xFFFFFFFF, 0x0, 0x0, 0x0, 0x0, .bits⟩,
   ⟨0xB0000000108, 0x20, 12, 0x1, 1, 0x800000, 0x81FFFFE0, 0x0, 0x0, 0x0, 0x0, .bits⟩,
   ⟨0xB000000010C, 0x20, 12, 0x1, 1, 0x0, 0x0, 0x0, 0x0, 0x0, 0x0, .bits⟩,
   ⟨0xB0000000110, 0x20, 12, 0x1, 1, 0x0, 0x0, 0x0, 0x0, 0x0, 0x0, .bits⟩,
   ⟨0xB0000000114, 0x20, 12, 0x1, 1, 0x0, 0x0, 0x0, 0x0, 0x0, 0x0, .bits⟩,
   ⟨0xB0000000300, 0x8, 64, 0x1, 1, 0x0, 0xFFFFFFC0, 0x0, 0x0, 0x0, 0x0, .bits⟩,
   ⟨0xB0000000304, 0x8, 64, 0x1, 1, 0x0, 0xFFFFFFFF, 0x0, 0x0, 0x0, 0x0, .bits⟩,
   ⟨0xB0000000600, 0x4, 32, 0x1, 1, 0x10000, 0xFFFFFFFF, 0x0, 0x0, 0x0, 0x0, .bits⟩]

/-- The bus rows of CXLC. -/
def cxlcRows : List RegRow :=
  [⟨0x40090000, 0x1, 1, 0x1, 1, 0x0, 0x0, 0x0, 0x7F, 0x0, 0x0, .bits⟩,
   ⟨0x40090004, 0x1, 1, 0x1, 1, 0x0, 0x7F0F, 0x0, 0x0, 0x0, 0x0, .bits⟩,
   ⟨0x40090008, 0x1, 1, 0x1, 1, 0x8000002B, 0x0, 0x8000007F, 0x0, 0x0, 0x0, .bits⟩,
   ⟨0x4009000C, 0x1, 1, 0x1, 1, 0x0, 0x0, 0x0, 0x0, 0x0, 0xFFFF0000, .bits⟩,
   ⟨0x40090010, 0x1, 1, 0x1, 1, 0x0, 0x0, 0xFFFFFFFF, 0x0, 0x0, 0x0, .bits⟩,
   ⟨0x40090014, 0x1, 1, 0x1, 1, 0x0, 0x0, 0xFFFFFFFF, 0x0, 0x0, 0x0, .bits⟩,
   ⟨0x40090018, 0x1, 1, 0x1, 1, 0x0, 0x0, 0xFFFFFFFF, 0x0, 0x0, 0x0, .bits⟩,
   ⟨0x4009001C, 0x1, 1, 0x1, 1, 0x0, 0x0, 0xFFFFFFFF, 0x0, 0x0, 0x0, .bits⟩,
   ⟨0x40090020, 0x1, 1, 0x1, 1, 0x0, 0x0, 0x0, 0x0, 0x0, 0xFFFF, .bits⟩,
   ⟨0x40090024, 0x1, 1, 0x1, 1, 0x0, 0x0, 0x0, 0x0, 0x0, 0xFFFF, .bits⟩,
   ⟨0x40090040, 0x4, 11, 0x1, 1, 0x0, 0x0, 0x0, 0x0, 0x0, 0x0, .bits⟩,
   ⟨0x40090070, 0x1, 1, 0x1, 1, 0x0, 0x0, 0x0, 0x80000000, 0x0, 0x0, .bits⟩,
   ⟨0x40090080, 0x4, 11, 0x1, 1, 0x0, 0xFFFFFFFF, 0x0, 0x0, 0x0, 0x0, .bits⟩,
   ⟨0x400900B0, 0x1, 1, 0x1, 1, 0x0, 0x0, 0x0, 0x0, 0x1, 0x0, .bits⟩]

/-- The bus rows of CHAIN. -/
def chainRows : List RegRow :=
  [⟨0x40080000, 0x1, 1, 0x1, 1, 0x701, 0x0, 0x707, 0x0, 0x0, 0x0, .bits⟩,
   ⟨0x40080004, 0x1, 1, 0x1, 1, 0x0, 0x3FF000F, 0x0, 0x0, 0x0, 0x0, .bits⟩,
   ⟨0x40080008, 0x1, 1, 0x1, 1, 0x0, 0x0, 0x0, 0x3FF, 0x0, 0x0, .bits⟩,
   ⟨0x4008000C, 0x1, 1, 0x1, 1, 0x0, 0x0, 0x0, 0x0, 0x0, 0x0, .bits⟩,
   ⟨0x40080010, 0x1, 1, 0x1, 1, 0x1000101, 0x0, 0x0, 0x0, 0x0, 0x0, .bits⟩,
   ⟨0x40080014, 0x1, 1, 0x1, 1, 0x0, 0x0, 0x0, 0x0, 0x0, 0x0, .bits⟩,
   ⟨0x40080018, 0x1, 1, 0x1, 1, 0x0, 0x0, 0x0, 0x0, 0x0, 0x0, .int⟩,
   ⟨0x4008001C, 0x1, 1, 0x1, 1, 0x0, 0x0, 0x0, 0x0, 0x0, 0x0, .count⟩,
   ⟨0x40080020, 0x1, 1, 0x1, 1, 0x0, 0x0, 0x0, 0x0, 0x0, 0xFFFFFFFF, .bits⟩,
   ⟨0x40080024, 0x1, 1, 0x1, 1, 0x0, 0x1FF0000, 0x0, 0x0, 0x7, 0x0, .bits⟩,
   ⟨0x40080028, 0x1, 1, 0x1, 1, 0x0, 0xFFFFFFF0, 0x0, 0x0, 0x0, 0x0, .bits⟩,
   ⟨0x4008002C, 0x1, 1, 0x1, 1, 0x0, 0x3FF, 0x0, 0x0, 0x0, 0x0, .bits⟩,
   ⟨0x40080040, 0x10, 3, 0x1, 1, 0x0, 0x0, 0x0, 0x0, 0x0, 0x0, .bits⟩,
   ⟨0x40080044, 0x10, 3, 0x1, 1, 0x0, 0x0, 0x0, 0x0, 0x0, 0x0, .bits⟩,
   ⟨0x40080048, 0x10, 3, 0x1, 1, 0x0, 0x0, 0xFFFF, 0x0, 0x0, 0x0, .bits⟩,
   ⟨0x4008004C, 0x10, 3, 0x1, 1, 0x0, 0x0, 0x0, 0x0, 0x0, 0xFFFFFFFF, .bits⟩,
   ⟨0x40080080, 0x1, 1, 0x1, 1, 0x200000, 0x0, 0xFFF001FF, 0x0, 0x0, 0x0, .bits⟩,
   ⟨0x40080084, 0x1, 1, 0x1, 1, 0x10000000, 0x0, 0xFFFFFE00, 0x0, 0x0, 0x0, .bits⟩,
   ⟨0x40080088, 0x1, 1, 0x1, 1, 0x10000000, 0x0, 0xFFFF8000, 0x0, 0x0, 0x0, .bits⟩,
   ⟨0x4008008C, 0x1, 1, 0x1, 1, 0x0, 0x0, 0xFFFFFFFF, 0x0, 0x0, 0x0, .bits⟩,
   ⟨0x40080090, 0x4, 4, 0x1, 1, 0x0, 0x0, 0x0, 0x0, 0x0, 0x0, .bits⟩,
   ⟨0x400800A0, 0x1, 1, 0x1, 1, 0x0, 0x0, 0x0, 0x0, 0x0, 0xFFFFFFFF, .bits⟩,
   ⟨0x40081000, 0x4, 512, 0x1, 1, 0x0, 0x0, 0x0, 0x0, 0x0, 0x0, .bits⟩]

/-- The bus rows of DBG. -/
def dbgRows : List RegRow :=
  [⟨0x40400000, 0x1, 1, 0x1, 1, 0x272405A3, 0x0, 0x0, 0x0, 0x0, 0x0, .bits⟩,
   ⟨0x40400004, 0x1, 1, 0x1, 1, 0x1400, 0xFDFF, 0x0, 0x0, 0x0, 0x0, .bits⟩,
   ⟨0x40400008, 0x1, 1, 0x1, 1, 0x0, 0x0, 0x0, 0x7, 0x0, 0x0, .bits⟩,
   ⟨0x4040000C, 0x1, 1, 0x1, 1, 0x0, 0x0, 0x0, 0x0, 0xFF01, 0x0, .bits⟩,
   ⟨0x40400010, 0x1, 1, 0x1, 1, 0x0, 0x0, 0x0, 0x0, 0x0, 0x0, .count⟩,
   ⟨0x40400014, 0x1, 1, 0x1, 1, 0x0, 0x0, 0x0, 0x0, 0x0, 0x0, .nat⟩,
   ⟨0x40400018, 0x1, 1, 0x1, 1, 0x0, 0x3, 0x0, 0x0, 0x0, 0x0, .bits⟩,
   ⟨0x4040001C, 0x1, 1, 0x1, 1, 0x0, 0xFFFFFFFF, 0x0, 0x0, 0x0, 0x0, .bits⟩,
   ⟨0x40400020, 0x1, 1, 0x1, 1, 0x0, 0xFFFFFFFF, 0x0, 0x0, 0x0, 0x0, .bits⟩,
   ⟨0x40400024, 0x1, 1, 0x1, 1, 0x0, 0xFFFFFFFF, 0x0, 0x0, 0x0, 0x0, .bits⟩,
   ⟨0x40400028, 0x1, 1, 0x1, 1, 0x7, 0xF, 0x0, 0x0, 0x0, 0x0, .bits⟩,
   ⟨0x4040002C, 0x1, 1, 0x1, 1, 0x0, 0x4, 0x0, 0x0, 0x3, 0x0, .bits⟩,
   ⟨0x40400030, 0x1, 1, 0x1, 1, 0x0, 0x0, 0x0, 0x0, 0x0, 0xFFFF, .bits⟩,
   ⟨0x40400034, 0x1, 1, 0x1, 1, 0x0, 0xFFFFFFFF, 0x0, 0x0, 0x0, 0x0, .bits⟩,
   ⟨0x40400040, 0x4, 8, 0x1, 1, 0x0, 0x0, 0x0, 0x0, 0x0, 0x0, .bits⟩,
   ⟨0x40401000, 0x1, 1, 0x1, 1, 0x0, 0xFFFFFFFF, 0x0, 0x0, 0x0, 0x0, .bits⟩]

/-- The bus rows of SYSCFG. -/
def syscfgRows : List RegRow :=
  [⟨0x40000000, 0x1, 1, 0x1, 1, 0x0, 0x0, 0x131, 0x0, 0x0, 0x0, .bits⟩,
   ⟨0x40000004, 0x1, 1, 0x1, 1, 0x0, 0xF0F, 0x0, 0x0, 0x0, 0x0, .bits⟩,
   ⟨0x40000008, 0x1, 1, 0x1, 1, 0x0, 0x0, 0x0, 0xB, 0x0, 0x0, .bits⟩,
   ⟨0x4000000C, 0x1, 1, 0x1, 1, 0x64, 0xFFFF, 0x0, 0x0, 0x0, 0x0, .bits⟩,
   ⟨0x40000010, 0x1, 1, 0x1, 1, 0x7FFFF, 0x7FFFF, 0x0, 0x0, 0x0, 0x0, .bits⟩,
   ⟨0x40000014, 0x1, 1, 0x1, 1, 0x0, 0x0, 0x0, 0x0, 0x0, 0x0, .bits⟩,
   ⟨0x40000018, 0x1, 1, 0x1, 1, 0x0, 0x0, 0x0, 0x0, 0x0, 0x0, .bits⟩,
   ⟨0x40000020, 0x1, 1, 0x1, 1, 0x0, 0x0, 0x0, 0x0, 0x0, 0x0, .bits⟩,
   ⟨0x40000024, 0x1, 1, 0x1, 1, 0x0, 0x0, 0x0, 0x0, 0x0, 0x0, .bits⟩,
   ⟨0x40000028, 0x1, 1, 0x1, 1, 0x0, 0x0, 0x0, 0x0, 0x0, 0xFFFF, .bits⟩,
   ⟨0x4000002C, 0x1, 1, 0x1, 1, 0x0, 0xFFFF, 0x0, 0x0, 0x10000, 0x0, .bits⟩,
   ⟨0x40000100, 0x1, 1, 0x1, 1, 0x0, 0x0, 0x0, 0x0, 0x0, 0x0, .bits⟩,
   ⟨0x40000104, 0x1, 1, 0x1, 1, 0x0, 0x0, 0x0, 0xFF, 0x0, 0x0, .bits⟩,
   ⟨0x40000108, 0x1, 1, 0x1, 1, 0x0, 0x0, 0x0, 0x0, 0x0, 0xFFFF, .bits⟩,
   ⟨0x4000010C, 0x1, 1, 0x1, 1, 0x0, 0xFFFFFFFF, 0x0, 0x0, 0x0, 0x0, .bits⟩,
   ⟨0x40000110, 0x1, 1, 0x1, 1, 0x0, 0x0, 0x0, 0x1, 0x0, 0x0, .bits⟩,
   ⟨0x40000114, 0x1, 1, 0x1, 1, 0x0, 0x0, 0x0, 0x0, 0x0, 0x0, .bits⟩,
   ⟨0x40000118, 0x1, 1, 0x1, 1, 0x0, 0x0, 0x0, 0x0, 0x0, 0x0, .bits⟩,
   ⟨0x4000011C, 0x1, 1, 0x1, 1, 0x0, 0x0, 0x0, 0x0, 0x0, 0x0, .bits⟩,
   ⟨0x40000120, 0x1, 1, 0x1, 1, 0x0, 0xFFFFFFFF, 0x0, 0x0, 0x0, 0x0, .bits⟩,
   ⟨0x40000124, 0x1, 1, 0x1, 1, 0x0, 0x0, 0x0, 0x0, 0x0, 0x0, .bits⟩]

/-- The bus rows of HUSK. -/
def huskRows : List RegRow :=
  [⟨0x400A0000, 0x1, 1, 0x1, 1, 0x0, 0x0, 0x0, 0x0, 0x1, 0x0, .bits⟩,
   ⟨0x400A0004, 0x1, 1, 0x1, 1, 0x0, 0x0, 0x0, 0x7, 0x0, 0x0, .bits⟩,
   ⟨0x400A0008, 0x1, 1, 0x1, 1, 0x0, 0x7, 0x0, 0x0, 0x0, 0x0, .bits⟩,
   ⟨0x400A000C, 0x1, 1, 0x1, 1, 0xF, 0xF, 0x0, 0x0, 0x0, 0x0, .bits⟩,
   ⟨0x400A0010, 0x1, 1, 0x1, 1, 0x0, 0xFFFFFFFF, 0x0, 0x0, 0x0, 0x0, .count⟩,
   ⟨0x400A0014, 0x1, 1, 0x1, 1, 0x0, 0x7, 0x0, 0x0, 0x0, 0x0, .bits⟩,
   ⟨0x400A0018, 0x1, 1, 0x1, 1, 0x0, 0x0, 0x0, 0x0, 0x0, 0x0, .bits⟩]

/-- The bus rows of PINMUX. -/
def pinmuxRows : List RegRow :=
  [⟨0x40300000, 0x1, 1, 0x1, 1, 0x0, 0xF, 0x0, 0x0, 0x0, 0x0, .bits⟩,
   ⟨0x40300004, 0x1, 1, 0x1, 1, 0x0, 0x0, 0x0, 0x1, 0x0, 0x0, .bits⟩,
   ⟨0x40300008, 0x1, 1, 0x1, 1, 0x0, 0x0, 0x0, 0x0, 0x0, 0x0, .bits⟩,
   ⟨0x40300010, 0x4, 2, 0x1, 1, 0x0, 0x0, 0x0, 0x0, 0x0, 0x0, .bits⟩,
   ⟨0x40300018, 0x4, 2, 0x1, 1, 0x0, 0xFFFFFFFF, 0x0, 0x0, 0x0, 0x0, .bits⟩,
   ⟨0x40300020, 0x4, 2, 0x1, 1, 0x0, 0x0, 0x0, 0x0, 0xFFFFFFFF, 0x0, .bits⟩,
   ⟨0x40300028, 0x4, 2, 0x1, 1, 0x0, 0x0, 0x0, 0xFFFFFFFF, 0x0, 0x0, .bits⟩,
   ⟨0x40300100, 0x4, 64, 0x1, 1, 0x140, 0x0, 0x1FC7, 0x0, 0x0, 0x0, .bits⟩]

end Sys2Proof.Machine
end

