-- ==== Sys2Proof/Machine/State.lean ====
section
/-! DEFINITION. The state of the unit as plain data, the reasons a command can stop, and the state right after a
power-on reset. Registers are kept by address, each with the default its reset value gives; what no register shows whole
is kept in typed fields, block by block. -/

namespace Sys2Proof.Machine

open Sys2Proof

/-- Sparse data by key: strictly rising keys, an unlisted key standing for the default its reader names. -/
abbrev Tab (α : Type) := List (Nat × α)

/-- Why the block stops for good. The spec gives no such case, so nothing raises it. -/
inductive Fault where
  /-- Raised by nothing; safe. -/
  | none
deriving DecidableEq, Repr

/-- Why a command has no meaning. -/
inductive Refusal where
  /-- Raised by an arm of `exec` whose command has no meaning yet; safe. -/
  | notModelled (mnemonic : String)
deriving DecidableEq, Repr

/-- The clock tree (R639, R641, R661, R664): each stage runs only on the stage before it. -/
structure Pwr where
  crystal : Bool
  pll : Bool
  root : Bool
  asleep : Bool
  frozen : Bool
deriving DecidableEq, Repr

/-- A GPT channel's counter (R61): the value `base` it had at count `t0`, where its prescaler last restarted; whether a
ONESHOT counter runs; whether the compare is armed. -/
structure GptSt where
  base : Nat := 0
  t0 : Nat := 0
  run : Bool := false
  armed : Bool := false
  /-- The count before the edge `t0`, which a capture at that edge takes (R66). -/
  prev : Nat := 0
  /-- Counts after this instant are evaluated by the armed compare (R55). -/
  ev : Nat := 0
deriving DecidableEq, Repr

/-- One claim on a resource (R650): resource code, owner code, exclusive or shared. -/
structure Claim where
  res : Nat
  owner : Nat
  excl : Bool
deriving DecidableEq, Repr

/-- An event waiting for the event ring (R582, R583): its type, TAG, status, DETAIL, RING, body words from 0x10, for a
COMMIT completion the mask whose `CGLAST` is read at posting, and the consumer index that a completion covers. -/
structure HostEv where
  typ : Nat
  tag : Nat := 0
  status : Nat := 0
  detail : Nat := 0
  ring : Nat := 0
  body : List Word := []
  cmask : Option Nat := none
  idx : Word := 0
deriving DecidableEq, Repr

/-- A trace item (R676): its sixteen bytes as TYPE, SRC, time base and payload. -/
structure TrItem where
  typ : Nat
  src : Nat
  tb : Nat
  payload : List Byte
deriving DecidableEq, Repr

/-- A reference buffer (R76 to R80): when its STARTING or STOPPING ends, when the external reference becomes ready, since
when it is ready, and the interval before. -/
structure RefSt where
  due : Nat := 0
  ext : Option Nat := none
  since : Option Nat := none
  was : Option (Nat × Nat) := none
deriving DecidableEq, Repr

/-- A sample between the opening of its window and its result (R73 to R75): sequence, entry, window opening, sampling
instant, entry word, low-power widening, abandoned (R91), made VOID by a freeze (R665), last of a control sequence. -/
structure Smp where
  mon : Bool
  i : Nat
  opn : Nat
  inst : Nat
  ent : Word
  adj : Bool
  pat : Bool
  void : Bool
  last : Bool
deriving DecidableEq, Repr

/-- The runs of a limit (R97 to R99): length and fired, high side and low side. -/
structure LimSt where
  hi : Nat := 0
  hiF : Bool := false
  lo : Nat := 0
  loF : Bool := false
deriving DecidableEq, Repr

/-- The last result of an entry (R95, R123): the result word, VOID or patched, sampling instant, when it left, and whether
the crossbar delivers it. -/
structure ResSt where
  w : Word
  void : Bool
  inst : Nat
  out : Nat
  xbar : Bool
deriving DecidableEq, Repr

/-- A converter: end of its timed state, end of a calibration, samples in flight, first opening and last instant of its
control sequences, next pass start, L of the last pass, limits, last results (control 0 to 15, monitoring 16 to 31). -/
structure AdcSt where
  due : Nat := 0
  cal : Option Nat := none
  fl : List Smp := []
  ctl : List (Nat × Nat) := []
  pass : Nat := 0
  len : Nat := 0
  lim : Tab LimSt := []
  res : Tab ResSt := []
deriving DecidableEq, Repr

/-- A Press lane (R239 to R246): previous sample, raw samples since the last output, instant of the last raw sample,
replaced samples as instant and VOID (else patch) since the restart, its converter's L, and restarts that the Cellar has
not yet seen. -/
structure LaneSt where
  prev : Int := 0
  n : Nat := 0
  inst : Nat := 0
  rep : List (Nat × Bool) := []
  len : Nat := 0
  ep : Nat := 0
deriving DecidableEq, Repr

/-- An angle-stream item (R136, R137): position, 64-bit timestamp, sequence number and flag byte. -/
structure AngItem where
  pos : Word
  ts : Nat
  seq : Nat
  flags : Nat
deriving DecidableEq, Repr

/-- A feedback interface beside its registers (R108 to R144): end of STARTING, its first pair or reading seen, step sum,
phase and the position it stands for, units since the last reference, edge history as step sum and instant, positions before
the last counting edges and loads, tooth and gap history, Hall sector, SSI reading (0 idle, 1 reading, 2 waiting) with start
and end, last decoded reading, items waiting and their numbers, CROSS compares waiting, the last pair used, step sum at the
last tick, tick periods without an edge, an edge since the last tick, a direction unknown after R117, and speeds on their way to
`FSPD` with their instants, newest first (R112). -/
structure FbSt where
  due : Nat := 0
  got : Bool := false
  sum : Word := 0
  ph : Nat := 0
  phAt : Word := 0
  since : Nat := 0
  hist : List (Word × Nat) := []
  log : List (Nat × Word × Bool) := []
  tooth : Option Nat := none
  q : Option (Nat × Nat) := none
  extra : Bool := false
  sector : Option Nat := none
  ssi : Nat := 0
  ssiT : Nat := 0
  ssiDue : Nat := 0
  last : Option Nat := none
  items : List AngItem := []
  seq : Nat := 0
  edges : Nat := 0
  hold : Word := 0
  pair : Option (Nat × Nat) := none
  tickSum : Word := 0
  quiet : Nat := 0
  seen : Bool := false
  dirU : Bool := false
  spdq : List (Nat × Word) := []
deriving DecidableEq, Repr

/-- A PWM triad beside its registers (R152 to R174): the count `c0` and slope at the counter clock `t0`, end of STARTING or
STOPPING, whether the counter runs, the settings in force, a copy waiting for the next event (IMMEDIATE), outputs held after
a takeover until the next period start (R464). -/
structure TriSt where
  t0 : Nat := 0
  c0 : Nat := 0
  fall : Bool := false
  due : Nat := 0
  run : Bool := false
  top : Nat := 0
  cfg : Word := 0
  imm : Bool := false
  hold : Bool := false
  /-- Counter clocks from `t0` at which a count above the top ends the period (R168, R737). -/
  above : Option Nat := none
deriving DecidableEq, Repr

/-- A PWM leg beside its registers (R154 to R180): operating duty in 1/64 clock, REF before `RPOL`, settings in force, the
side (true: high) waiting for its dead time and when it ends, the low side waiting in LOWON, both in 1/32 count, and whether
leaving the safe state needs a release. -/
structure LegSt where
  op : Nat := 0
  ref : Bool := false
  cfg : Word := 0
  dt : Word := 0
  wait : Option (Bool × Nat) := none
  low : Option Nat := none
  manual : Bool := false
deriving DecidableEq, Repr

/-- A window monitor beside its registers (R183, R187): end of its timed state, end of a settling hold. -/
structure WinSt where
  due : Nat := 0
  hold : Option Nat := none
deriving DecidableEq, Repr

/-- A set of a loop engine (R207 to R214, R223): completion, the slots' results, set instant and spread, angle triple, the
engine's active registers at completion; then the stage (0 before the hook point, 1 waiting, 2 released), the instant the
computation started, of the hook point and of the shadow write, the Park values, θe, and the override. -/
structure LeSet where
  slots : Tab ResSt
  ts : Word
  skew : Nat
  ang : Word
  spd : Word
  age : Int
  cfg : Tab Word
  stage : Nat := 0
  t0 : Nat := 0
  hook : Nat := 0
  due : Nat := 0
  id : Word := 0
  iq : Word := 0
  the : Word := 0
  duties : Option (Word × Word) := none
deriving DecidableEq, Repr

/-- A loop engine beside its registers (R202 to R235): end of its timed state, results held in the slots, the computation in
progress, the waiting set, consecutive discarded sets, the latched software triple, and whether a collision or a hook miss
fell in this tick. -/
structure LeSt where
  due : Nat := 0
  slots : Tab ResSt := []
  comp : Option LeSet := none
  wait : Option LeSet := none
  disc : Nat := 0
  sw : Option (Word × Word × Word) := none
  bad : Bool := false
deriving DecidableEq, Repr

/-- A unicast MGMT frame waiting for its ACK (R616): the port it left by, the frame, when it is repeated, repeats so far. -/
structure AckWait where
  port : Nat
  frame : Frame
  due : Nat
  tries : Nat
deriving DecidableEq, Repr

/-- A sample of a stream or a block: its value, its instant in 1/16 count of the time base, and in order mode its target
number, whether `NOREF` was 1 and whether it was the first across an angle gap. -/
structure Sample where
  x : Word
  t : Nat
  j : Nat := 0
  nr : Bool := false
  gap : Bool := false
deriving DecidableEq, Repr

/-- A bracketed target (R260): its instant in 1/16 count, number, speed as steps over counts, `NOREF`, first across a gap. -/
structure Target where
  t : Nat
  j : Nat
  dp : Nat
  dt : Nat
  nr : Bool
  gap : Bool
deriving DecidableEq, Repr

/-- The order grid of a context (R258 to R263): whether an item came, the last item's unwrapped position, position word,
instant and sequence number, whether it was forward, the base, the largest position reached, the next target, whether the
speed is too high, whether a gap came since the last target, and the targets that wait for samples. -/
structure GridSt where
  got : Bool := false
  pos : Int := 0
  raw : Word := 0
  ts : Nat := 0
  seq : Nat := 0
  fwd : Bool := false
  base : Int := 0
  far : Int := 0
  next : Nat := 0
  fast : Bool := false
  gap : Bool := false
  tgts : List Target := []
deriving DecidableEq, Repr

/-- The record set and averages of a context (R267, R272 to R277, R298): blocks of the set, computed ones of them, blocks in
the average, spectra, block features and counts since the last result, instants of its first and last samples. -/
structure AvgSt where
  pos : Nat := 0
  comp : Nat := 0
  inAvg : Nat := 0
  pw : List Word := []
  xre : List Word := []
  xim : List Word := []
  ms : List Word := []
  kurt : List Word := []
  pk : Word := 0
  pp : Word := 0
  spd : List Word := []
  pat : Nat := 0
  voi : Nat := 0
  gaps : Nat := 0
  noref : Bool := false
  shed : Nat := 0
  late : Nat := 0
  t0 : Option Nat := none
  t1 : Nat := 0
deriving DecidableEq, Repr

/-- A context beside its registers (R251 to R279): instant of its start, lane outputs, decimated samples and stream samples
since, integrator, last stream samples and the samples of the current block, newest first, number of the first of them, what
follows STOPPING, grid, blocks released into the average and its number, averages, alarm runs as feature, run and pending
state, number of the next result. -/
structure CtxSt where
  start : Nat := 0
  nIn : Nat := 0
  nC : Nat := 0
  nOut : Nat := 0
  integ : Word := 0
  yPrev : Word := 0
  strm : List Sample := []
  blk : List Sample := []
  first : Nat := 0
  restart : Bool := false
  again : Bool := false
  grid : GridSt := {}
  rel : Nat := 0
  avgNo : Nat := 1
  avg : AvgSt := {}
  run : Tab (Nat × Nat) := []
  rseq : Nat := 0
deriving DecidableEq, Repr

/-- A released job (R253, R283 to R288): number, context, class, deadline in ticks, FABRIC cycles left, passes ended, its
block oldest first, number of its first sample in the ring, the block's speed, replacements and flags, late, the average it
belongs to, and the context's configuration at its release. -/
structure Job where
  id : Nat
  ctx : Nat
  cls : Nat
  dl : Nat
  rem : Nat
  pass : Nat := 0
  smp : List Sample := []
  first : Nat := 0
  spd : Word := 0
  pat : Nat := 0
  voi : Nat := 0
  gap : Bool := false
  noref : Bool := false
  late : Bool := false
  avgNo : Nat := 0
  cfg : Tab Word := []
deriving DecidableEq, Repr

/-- A result in the output queue (R308): its curd ring and its records of 256 bytes. -/
structure OqRes where
  ring : Nat
  recs : List (List Byte)
deriving DecidableEq, Repr

/-- A result in the spill region (R311): its curd ring, its record count and the slot of its first record. -/
structure SpillRes where
  ring : Nat
  n : Nat
  slot : Nat
deriving DecidableEq, Repr

/-- An epoch of a Cellar ring (R314): first index, its instant, period, number. -/
structure Epoch where
  idx : Nat
  t0 : Nat
  period : Nat
  no : Nat
deriving DecidableEq, Repr

/-- A lane's Cellar feed (R314 to R321): samples written, the count its header shows, epochs newest first, outputs waiting
for device bias. -/
structure CelSt where
  count : Nat := 0
  shown : Nat := 0
  eps : List Epoch := []
  hold : List (Word × Nat) := []
deriving DecidableEq, Repr

/-- What a snapshot takes from a lane: first index, count, period, instant of the first, clipped, epoch cut (R323, R325). -/
structure SnLane where
  lane : Nat
  first : Nat
  count : Nat
  period : Nat
  t : Nat
  clip : Bool
  cut : Bool
deriving DecidableEq, Repr

/-- A triggered snapshot (R322 to R329): definition, source, instant, alarm context and result, tick, lanes and window taken
at the trigger, the instant of that, merged; then number, place in the region, size, flags and what the lanes give, once
placed. DEDUCED: log entry 75. -/
structure SnapSt where
  sdef : Nat
  src : Nat
  t : Nat
  ctx : Nat
  rseq : Nat
  tno : Word
  lanes : List Nat
  pre : Nat
  post : Nat
  cyc : Nat := 0
  merged : Bool := false
  seq : Nat := 0
  off : Nat := 0
  size : Nat := 0
  flags : Nat := 0
  took : List SnLane := []
deriving DecidableEq, Repr

/-- The flash operation in progress (R505): 0 none, 1 program, 2 erase, 3 margin, 4 swap, 5 lowering; its core address,
256 × bank + sector, its start, and a suspension asked for: 1 by command, 2 by a read. -/
structure FlSt where
  op : Nat := 0
  addr : Nat := 0
  sec : Nat := 0
  start : Nat := 0
  ask : Nat := 0
deriving DecidableEq, Repr

/-- An erase that is suspended while another operation may run: core address, bank and sector, 1 by command or 2 by a read,
resumption asked for, and the last read of its bank. -/
structure EraseSt where
  addr : Nat
  sec : Nat
  by_ : Nat
  resume : Bool := false
  lastRd : Nat := 0
deriving DecidableEq, Repr

/-- An interrupt entry under way (R407, R479): level, source, handler address. -/
structure EntrySt where
  lvl : Nat
  src : Nat
  vec : Word
deriving DecidableEq, Repr

/-- A core beside its registers: the next instruction's address, the frames of the window newest first with their words
(R385), the store buffer oldest first (R392), waiting in WFT at an address with handlers nested in the wait and a tick
remembered (R52), the entry under way, lines held in the L1 by address / 16 (R391), the live progress word and the operands
that a block instruction in progress has formed with its slot changes (R398), held in reset, halted (R674) and to retire one
instruction (R675); in a PAIRED pair the signature (R435), instructions retired since the window closed and since PAIRED
(R436, R442). -/
structure CoreSt where
  pc : Word := 0
  frames : List (Nat × List TWord) := [(0, List.replicate 64 ⟨.void, 0⟩)]
  sb : List (Nat × TWord) := []
  wft : Bool := false
  wftAt : Word := 0
  nest : Nat := 0
  seen : Bool := false
  ent : Option EntrySt := none
  l1 : Tab (List TWord) := []
  prog : Nat := 0
  blk : Option (List TWord × List (Nat × TWord)) := none
  rst : Bool := true
  halt : Bool := false
  one : Bool := false
  sig : BitVec 64 := 0xFFFFFFFFFFFFFFFF
  since : Nat := 0
  ret : Nat := 0
deriving DecidableEq, Repr

/-- A record of the load log (R432, R442, R443); a read that failed carries its exception, code and fault address, an entry
the progress word saved at it. -/
inductive LogIt where
  | load (addr : Nat) (t : TWord)
  | fail (addr k code faddr : Nat)
  | release
  | entry (count lvl : Nat) (vec : Word) (prog : Nat)
deriving DecidableEq, Repr

/-- A pair beside its registers (R428 to R449): the load log and the output queue oldest first (an entry: window, address,
word), the windows each core has closed and not yet compared, windows the leader closed, a divergence to be taken; the
watchdog: the core whose first key was the last write, cores that completed a service, started; the entry point of its core
image (none: the pair stays in reset). -/
structure PairSt where
  log : List LogIt := []
  oq : List (Nat × Nat × TWord) := []
  lw : List (BitVec 64) := []
  fw : List (BitVec 64) := []
  num : Nat := 0
  key : Option Nat := none
  done : List Nat := []
  run : Bool := false
  entry : Option Word := none
deriving DecidableEq, Repr

/-- A curd signature waiting for its counterpart (R459): context, `RSEQ`, SIG, own, tick at which it came. -/
structure SigSt where
  ctx : Nat
  rseq : Nat
  sig : Word
  own : Bool
  tick : Nat
deriving DecidableEq, Repr

/-- A twin member beside its registers (R450 to R465): the partner has asked to bind and its `PREF` and whether it is ACTIVE;
the tick number of the last heartbeat, what it told (`RLINE`, divergence), own `RLINE` of that tick, ticks missed in a row; a
divergence reported; SIGF in this tick; a switchover asked for; ACTIVE since this tick; ticks with `TWPEER` asserted since
the takeover; own divergences since the last heartbeat and a notice to be sent; items to be sent, bytes sent in this tick;
the resync image to be sent and its items received in this tick, its end received; signatures that wait. -/
structure TwinSt where
  bound : Bool := false
  ppref : Bool := false
  pact : Bool := false
  hb : Option Word := none
  rline : Word := 0
  line : Nat := 0
  miss : Nat := 0
  div : Bool := false
  sigT : Bool := false
  sw : Bool := false
  fresh : Bool := false
  peerT : Option Word := none
  own : Word := 0
  out : List MirItem := []
  sent : Nat := 0
  image : List MirItem := []
  got : List MirItem := []
  last : Bool := false
  sigs : List SigSt := []
deriving DecidableEq, Repr

/-- A chain port beside its registers (R606): the one-way delay in 1/65536 of a step, sum and count of the exchanges of this
training. -/
structure PortSt where
  d : Int := 0
  acc : Int := 0
  n : Nat := 0
deriving DecidableEq, Repr

/-- The chain beside its registers (R607 to R634): ε of the last markers, newest first, and the tick of the last phase step;
the offset to the HEAD unit in 52.08 ps steps, the next slew step, held for `TJUMP`, `TJUMP` written, the tick to be taken
from the parent, aligned since reset; the MGMT frames accepted last; coarse offsets and HUSK edges moved; units that wait for
`MAPGO`; serial number and parent pip of each pip; a WAKE frame accepted; the parent link lost since it last trained (R611, R642). -/
structure ChainSt where
  eps : List Int := []
  stepAt : Option Nat := none
  off : Int := 0
  slewAt : Nat := 0
  far : Bool := false
  jump : Bool := false
  fix : Bool := false
  aligned : Bool := false
  seen : List (Nat × Nat) := []
  coarse : List Int := []
  husk : Int := 0
  wait : Option (List UnitInfo) := none
  serial : Tab Nat := []
  parent : Tab Nat := []
  wake : Bool := false
  lost : Bool := false
deriving DecidableEq, Repr

/-- Entries on their way to host memory until their GO (R568): the index after them, host address and bytes, and what they
came from: a result with its place in the spill region, a snapshot, an event. -/
structure RingFly where
  upto : Word
  addr : Nat
  bytes : List Byte
  res : Option OqRes := none
  sp : Option SpillRes := none
  snap : Option SnapSt := none
  ev : Option HostEv := none
deriving DecidableEq, Repr

/-- A host ring beside its registers (R566 to R578): the next index the unit writes, entries on their way, reads of an entry
of the wrong phase, the descriptor fetched, the index in the status line, whether the descriptor's completion is discarded.
-/
structure RingSt where
  next : Word := 0
  fly : List RingFly := []
  wrong : Nat := 0
  desc : Option Desc := none
  shown : Word := 0
  orphan : Bool := false
deriving DecidableEq, Repr

/-- An MSI-X vector (R585, R586): entries since it fired, the instant of the first, how many a status-line write covers,
messages sent. -/
structure VecSt where
  p : Nat := 0
  t0 : Nat := 0
  cov : Nat := 0
  sent : Nat := 0
deriving DecidableEq, Repr

/-- A committed HDM decoder (R558): host base and size, DPA of its start, interleave ways and granularity. -/
structure HdmSt where
  base : Nat
  size : Nat
  dpa : Nat
  ways : Nat
  gran : Nat
deriving DecidableEq, Repr

/-- The host interface beside its registers: rings, doorbell lines (1 read under way, 2 Shared, 3 read to be discarded, 4
Shared and read again) and the last snoop's response (0 RspIHitI, 1 RspIHitSE, 2 RspSHitSE), vectors and pending bits, BAR0
words beyond the HOST block, decoders and a commit that failed, the last data a CXL.mem read gave (none: poison) and a BAR0
read; the status line changed, written last and writes so far; events dropped since the last reset; what RESET_DONE is to
report (cause, completions lost, `TICKNO`); TAGs completed last; a rejection to be reported. -/
structure HostSt where
  ring : Tab RingSt := []
  line : Tab Nat := []
  snp : Nat := 0
  vec : Tab VecSt := []
  pba : Word := 0
  bar : Tab Word := []
  hdm : Tab HdmSt := []
  hdmErr : Word := 0
  memData : Option (List Byte) := none
  barData : Word := 0
  dirty : Bool := false
  stat : List Word := []
  statN : Nat := 0
  evTotal : Nat := 0
  rstDone : Option (Nat × Nat × Nat) := none
  tag0 : Nat := 0
  tag1 : Nat := 0
  reject : Option (List Word) := none
deriving DecidableEq, Repr

/-- The boot beside its registers (R687 to R701): the stage (0 firmware runs, 1 the boot ROM waits to run its steps, 8 the
vote of step 8, 9 recovery loader, 10 its last frames leave before the activation), what the last activation was (0 none, 1
update, 2 fallback, 3 rollback), instants of the first and of the last VOTE, members whose PASS has come, on trial with
`WDBOOT`. DESIGN CHOICE: log entry 43. -/
structure BootSt where
  stage : Nat := 1
  after : Nat := 0
  t0 : Nat := 0
  sent : Nat := 0
  pass : List Nat := []
  wd : Bool := false
deriving DecidableEq, Repr

/-- Everything of the unit but the clock tree and the waiting commands. -/
structure Dev where
  /-- Active registers by address; an unlisted register holds its reset value. -/
  regs : Tab Word := []
  /-- Pending copies (R19) that differ from their active copy, by the active copy's address. -/
  pend : Tab Word := []
  /-- Registers that read VOID until written, or after a VOID result, by address: true once they read their tag. -/
  tags : Tab Bool := []
  /-- The last access answered with a bus error (R13). -/
  busErr : Bool := false
  /-- Counts since power-on; instants of events are kept in it. -/
  now : Nat := 0
  tb : BitVec 64 := 0
  tphase : Nat := 0
  tickno : BitVec 48 := 0
  tickts : BitVec 64 := 0
  /-- Counts for which the time base still stands (R610). -/
  tbHold : Nat := 0
  /-- R50: the next full-rate tick evaluates no overrun. -/
  huskRan : Bool := false
  /-- How many free values have been drawn: the model's own field. -/
  free : Nat := 0
  tbArm : Tab (Option Nat) := []
  gpt : Tab GptSt := []
  claims : List Claim := []
  /-- Blocks whose gate is closed or opening, by `SGATE` bit (R648). -/
  gshut : Word := 0
  /-- The hold queue of R583, and whether an event was dropped since the last posted. -/
  evHold : List HostEv := []
  evDrop : Bool := false
  hostSt : HostSt := {}
  /-- Records removed since the last QUEUE_LOSS, by ring, 8 the spill region (R582). -/
  loss : Tab Nat := []
  /-- The trace buffer (R676), items lost and not yet counted, and the losses since the last LOST item. -/
  trace : List TrItem := []
  trMissed : Nat := 0
  trLost : Nat := 0
  /-- Memory bytes and word tags, by key (Machine/Mem.lean). -/
  mem : List Host.Cell := []
  mtag : Tab Tag := []
  /-- Words with a bit error by key / 4: 1 correctable, 2 not; corrected SRAM words not yet written back (R495). -/
  ecc : Tab Nat := []
  wback : List Nat := []
  /-- The flash operation and the suspended erase, programmed lines as 2^19 × bank + line, suspect sectors (R514), the swap
  counter with a group cut short, the stored read-out protection level, the scrub mark (R516 to R519). -/
  fl : FlSt := {}
  flSusp : Option EraseSt := none
  flProg : Tab Bool := []
  suspect : List Nat := []
  swaps : Nat := 0
  swapCut : Bool := false
  rdpNext : Nat := 0
  scrubMark : Bool := false
  /-- DDR5 with unknown check bits, and the words written since, by key / 4 (R524); next lines of the scrubbers. -/
  ddrUnk : Bool := true
  ddrOk : Tab Bool := []
  ddrRetrain : Bool := false
  scrS : Nat := 0
  scrD : Nat := 0
  ref : Tab RefSt := []
  adc : Tab AdcSt := []
  fb : Tab FbSt := []
  le : Tab LeSt := []
  tri : Tab TriSt := []
  leg : Tab LegSt := []
  win : Tab WinSt := []
  /-- Trip lines whose local cause is 1 and was exported where they are exported (R191). -/
  tripLoc : Word := 0
  /-- Frames waiting at each port, the sequence number of each class, frames waiting for an ACK, and frames to be sent a
  second time with the instant (R613 to R616). -/
  chq : Tab (List Frame) := []
  chSeq : Tab Nat := []
  chAck : List AckWait := []
  chTwice : List (Nat × Frame) := []
  port : Tab PortSt := []
  chain : ChainSt := {}
  lane : Tab LaneSt := []
  ctx : Tab CtxSt := []
  /-- Released jobs, the job and its pass start of each FFT engine, and the number of the next job. -/
  jobs : List Job := []
  eng : Tab (Nat × Nat) := []
  jobSeq : Nat := 0
  /-- The output queue, rings with a dropped record since the last that entered, the spill region with its next slot. -/
  oq : List OqRes := []
  oqDrop : Word := 0
  spill : List SpillRes := []
  spSlot : Nat := 0
  cel : Tab CelSt := []
  /-- Bias of each 2 MiB granule of DDR5: 1 flipping, 2 device (R560). -/
  bias : Tab Nat := []
  /-- Snapshots waiting for their copy, in copy, waiting for their descriptor, and holding their space; the next place and
  number. -/
  snWait : List SnapSt := []
  snCopy : Option SnapSt := none
  snReady : List SnapSt := []
  snHeld : List (Nat × SnapSt) := []
  snPos : Nat := 0
  snSeq : Nat := 0
  /-- When each check-value unit has folded its buffer, and when the last borrow ends (R539, R542). -/
  cvBusy : Tab Nat := []
  cvBorrow : Tab Nat := []
  core : Tab CoreSt := []
  pair : Tab PairSt := []
  twin : TwinSt := {}
  /-- End of each ICU group's hold-off (R480). -/
  hold : Tab Nat := []
  /-- Levels last told at the GPIO pins and synchronised levels, by GPIO number (R716, R719). -/
  pinLvl : BitVec 64 := 0
  pinSyn : BitVec 64 := 0
  /-- When each opening gate is open, by `SGATE` bit (R649); divisors that wait for the voltage and since when (R645). -/
  gateDue : Tab Nat := []
  vset : Option (Word × Nat) := none
  vsetDone : Bool := false
  /-- A sleep entry that may go on (R660); the debug access port: instruction, boundary-scan register, data register,
  accesses that wait for the root clocks (R667 to R669). -/
  entering : Bool := false
  jtagIr : BitVec 5 := 2
  bsr : BitVec 753 := 0
  tdr : BitVec 43 := 0x272405A3
  tapWait : List (Bool × Nat × Word) := []
  /-- VDD core is off (R725); key hashes by OTP slot and revoked slots (R691); the boot. -/
  off : Bool := false
  otp : Tab (List Byte) := []
  otpRev : Word := 0
  boot : BootSt := {}
  /-- The Press shed, was late or suspended in this tick (R287). -/
  pressBad : Bool := false
deriving DecidableEq, Repr

structure State where
  pending : List Instr
  pwr : Pwr
  dev : Dev
deriving DecidableEq, Repr

/-- Right after a power-on reset only the boot sequencer runs (R639); `RSTCAUSE` names that reset (R681), and `FLJSTAT` shows
the free lines of a journal sector with none programmed (R511). DEDUCED: log entry 1. DESIGN CHOICE: log entry 2. -/
def State.reset : State :=
  { pending := [], pwr := ⟨false, false, false, false, false⟩, dev := { regs := [(0x40000100, 1), (0x4004004C, 2047)] } }

end Sys2Proof.Machine
end

