-- ==== Sys2Proof/Machine/Ops.lean ====
section
/-! DEFINITION. The named operations over the state: sparse tables, register and field reads and writes, flags and
interrupt sources, time, and the outcome of a command that changes the device only. -/

namespace Sys2Proof.Machine

open Sys2Proof

/-- The outcome of a command (Host/Core.lean). -/
abbrev Out := Host.Outcome State Fault Refusal

/-! Sparse tables. -/

/-- The entry of key `k`, or `d`. -/
def look {α : Type} : Tab α → Nat → α → α
  | [], _, d => d
  | (k, v) :: l, j, d => if k = j then v else look l j d

/-- The entry of key `k`, if it is listed. -/
def find {α : Type} : Tab α → Nat → Option α
  | [], _ => none
  | (k, v) :: l, j => if k = j then some v else find l j

/-- The table without the key `k`. -/
def del {α : Type} (l : Tab α) (k : Nat) : Tab α := l.filter (fun e => e.1 != k)

/-- The table with `v` at `k`, its keys still rising. -/
def put {α : Type} : Tab α → Nat → α → Tab α
  | [], j, v => [(j, v)]
  | (k, w) :: l, j, v =>
    if j < k then (j, v) :: (k, w) :: l.filter (fun e => e.1 != j)
    else if j = k then (j, v) :: l.filter (fun e => e.1 != j)
    else (k, w) :: put l j v

/-- The table with `v` at `k`, where the default `d` is not listed. -/
def store {α : Type} [DecidableEq α] (l : Tab α) (k : Nat) (v d : α) : Tab α :=
  if v = d then del l k else put l k v

/-! Fields of words. -/

/-- The number a field holds. -/
def fget (f : Fld) (w : Word) : Nat := (w.toNat >>> f.lo) % 2 ^ (f.hi + 1 - f.lo)

/-- The bits of a field as a mask. -/
def fmask (f : Fld) : Word := BitVec.ofNat 32 ((2 ^ (f.hi + 1 - f.lo) - 1) <<< f.lo)

/-- The word with the field at the number `v`, cut to the field's width. -/
def fset (f : Fld) (w : Word) (v : Nat) : Word :=
  (w &&& ~~~fmask f) ||| BitVec.ofNat 32 ((v % 2 ^ (f.hi + 1 - f.lo)) <<< f.lo)

/-- The all-ones value of a field. -/
def ftop (f : Fld) : Nat := 2 ^ (f.hi + 1 - f.lo) - 1

/-- A field as a two's-complement number. -/
def fgetS (f : Fld) (w : Word) : Int :=
  let n := fget f w
  if 2 * n < 2 ^ (f.hi + 1 - f.lo) then (n : Int) else (n : Int) - 2 ^ (f.hi + 1 - f.lo)

/-- A word as a two's-complement number, and back, wrapping. -/
def sint (w : Word) : Int := w.toInt
def ofInt (i : Int) : Word := BitVec.ofInt 32 i

/-! Registers. -/

/-- The active copy of a register. -/
def rd (d : Dev) (r : Reg) : Word := look d.regs r.addr r.rst

/-- The device with a register's active copy at `v`. -/
def wr (d : Dev) (r : Reg) (v : Word) : Dev := { d with regs := store d.regs r.addr v r.rst }

/-- A field of a register. -/
def gf (d : Dev) (r : Reg) (f : Fld) : Nat := fget f (rd d r)

/-- The device with one field of a register at `v`. -/
def sf (d : Dev) (r : Reg) (f : Fld) (v : Nat) : Dev := wr d r (fset f (rd d r) v)

/-- The pending copy of a ticked register (R20). DEDUCED: log entry 8. -/
def rdPend (d : Dev) (r : Reg) : Word := look d.pend r.addr (rd d r)

/-- The pending copy at `v`. DEDUCED: log entry 8. -/
def setPend (d : Dev) (r : Reg) (v : Word) : Dev := { d with pend := store d.pend r.addr v (rd d r) }

/-- The bytes of a number, lowest first (R12). -/
def leBytes : Nat → Nat → List Byte
  | 0, _ => []
  | k + 1, n => BitVec.ofNat 8 n :: leBytes k (n / 256)

/-! Frames in the ports' queues (R613, R615) and the items for a twin partner (R454, R455). -/

/-- The unit's own pip (R2). -/
def ownPip (d : Dev) : Nat := gf d CHAIN.CHPOS CHAIN.CHPOS_PIP
def hasPip (d : Dev) : Bool := gf d CHAIN.CHPOS CHAIN.CHPOS_V = 1

/-- Port p is up: FULL or LOW. -/
def portUp (d : Dev) (p : Nat) : Bool :=
  let s := gf d (CHAIN.CHPSTAT p) CHAIN.CHPSTAT_STATE
  s = 2 || s = 3
def portsUp (d : Dev) : List Nat := [0, 1, 2].filter (portUp d)

/-- A frame joins a port's queue. -/
def enqueue (d : Dev) (p : Nat) (f : Frame) : Dev := { d with chq := put d.chq p (look d.chq p [] ++ [f]) }

/-- A new frame of this unit with the next sequence number of its class (R613). -/
def newFrame (d : Dev) (dst scope cls sub : Nat) (payload : List Byte) : Frame × Dev :=
  let q := look d.chSeq cls 0
  (⟨BitVec.ofNat 9 dst, BitVec.ofNat 2 scope, BitVec.ofNat 9 (ownPip d), !hasPip d, BitVec.ofNat 3 cls, BitVec.ofNat 5 sub,
     BitVec.ofNat 16 q, payload⟩, { d with chSeq := put d.chSeq cls ((q + 1) % 65536) })

/-- The pip of the twin partner and the port towards it (R6). -/
def partnerPip (d : Dev) : Nat := if ownPip d % 2 = 0 then ownPip d + 1 else ownPip d - 1
def partnerPort (d : Dev) : Nat := if ownPip d % 2 = 0 then 1 else 0

/-- A unicast frame to the partner, where its port is up. -/
def toPartner (d : Dev) (cls sub : Nat) (payload : List Byte) : Dev :=
  let q := newFrame d (partnerPip d) 0 cls sub payload
  if portUp d (partnerPort d) then enqueue q.2 (partnerPort d) q.1 else q.2

/-- Order of the items of R454; a notice and a switchover request go ahead of all (R462). -/
def mirRank : MirItem → Nat
  | .notice _ => 0 | .switchover => 0 | .heartbeat .. => 1 | .write .. => 2 | .arm .. => 3 | .curd .. => 4
  | .loop .. => 5 | .area .. => 6 | .image .. => 7 | .imageEnd => 7

/-- Payload of an item: its fields in the order of R454, each of whole bytes. DESIGN CHOICE: log entry 29. -/
def mirBytes : MirItem → List Byte
  | .notice p => leBytes 4 p.val
  | .switchover => leBytes 4 1
  | .heartbeat tno st rl dv n =>
    leBytes 4 tno.toNat ++ leBytes 4 st.toNat ++ leBytes 4 (rl.toNat + 256 * dv.toNat) ++ leBytes 4 n.toNat
  | .write a v _ => leBytes 4 a ++ leBytes 4 v.toNat
  | .arm m t _ => leBytes 4 m.toNat ++ leBytes 4 t.toNat
  | .curd c r s => leBytes 4 (c.toNat + 1024 * r.toNat) ++ leBytes 4 s.toNat
  | .loop n x q => leBytes 4 n.val ++ leBytes 4 x.toNat ++ leBytes 4 q.toNat
  | .area _ ws => ws.flatMap (fun w => leBytes 4 w.toNat)
  | .image a act v => leBytes 4 (a + if act then 1 else 0) ++ leBytes 4 v.toNat
  | .imageEnd => []

/-- Bytes of an item in the budget: a notice and a request are no items of R454. -/
def mirSize (it : MirItem) : Nat := if mirRank it = 0 then 0 else (mirBytes it).length

/-- The budget of a tick (R455). -/
def mirMax (d : Dev) : Nat := min 4096 (gf d TICK.TICKPER TICK.TICKPER_PER * 384 / 600)

/-- Waiting items leave in order while the budget lasts. -/
def mirSend : List MirItem → Dev → Dev
  | [], d => { d with twin := { d.twin with out := [] } }
  | it :: l, d =>
    if d.twin.sent + mirSize it ≤ mirMax d then
      mirSend l (toPartner { d with twin := { d.twin with sent := d.twin.sent + mirSize it } } 2 (mirRank it) (mirBytes it))
    else { d with twin := { d.twin with out := it :: l } }

/-- An item joins the waiting ones at its place. -/
def mirQueue (d : Dev) (it : MirItem) : Dev :=
  let l := d.twin.out
  mirSend (l.takeWhile (fun x => decide (mirRank x ≤ mirRank it)) ++ it :: l.dropWhile (fun x => decide (mirRank x ≤ mirRank it))) d

/-- An ACTIVE twin member sends its partner an item, at acceptance or when the budget allows (R454). -/
def mirror (d : Dev) (it : MirItem) : Dev :=
  if gf d PAIRC.TWSTAT PAIRC.TWSTAT_STATE = 4 then mirQueue d it else d

/-- An accepted write to the pending copy (R19, R454). -/
def wrPend (d : Dev) (r : Reg) (v : Word) : Dev := mirror (setPend d r v) (.write r.addr v false)

/-- Pending copies become active and leave no difference behind (R22). -/
def commitReg (d : Dev) (r : Reg) : Dev := { wr d r (rdPend d r) with pend := del d.pend r.addr }

/-- An event counter counts up and stops at its all-ones value (R18). -/
def bump (d : Dev) (r : Reg) (f : Fld) (k : Nat := 1) : Dev := sf d r f (min (gf d r f + k) (ftop f))

/-- A counter that wraps. -/
def bumpWrap (d : Dev) (r : Reg) : Dev := wr d r (rd d r + 1)

/-- One bit of a register. -/
def bitOf (d : Dev) (r : Reg) (b : Nat) : Bool := (rd d r).getLsbD b

/-- The device with one bit of a register at `v`. -/
def setBit (d : Dev) (r : Reg) (b : Nat) (v : Bool) : Dev := sf d r ⟨b, b⟩ (if v then 1 else 0)

/-! Interrupt sources and status flags. -/

/-- Sources that never rise (R469, R470), and the software sources, which rise only through `ISET`. DEDUCED: log entry 9. -/
def srcReserved (s : Nat) : Bool :=
  s = 14 || s = 15 || (59 ≤ s && s ≤ 63) || (88 ≤ s && s ≤ 95) || (336 ≤ s && s ≤ 511) || 1024 ≤ s

/-- A source rises: its pending bit is set (R470). -/
def raise (d : Dev) (s : Nat) : Dev :=
  if srcReserved s then d else setBit d (ICU.IPEND (s / 32)) (s % 32) true

/-- A flag of a status register is set, and the source rises where the flag was 0 and its enable in `ie` is 1. -/
def setFlag (d : Dev) (r : Reg) (b : Nat) (ie : Nat) (src : Nat) : Dev :=
  if bitOf d r b then d
  else if ie.testBit b then raise (setBit d r b true) src else setBit d r b true

/-- A flag of `TWSTAT` (R468). -/
def twinFlag (d : Dev) (b : Nat) : Dev := setFlag d PAIRC.TWSTAT b (gf d PAIRC.TWSEL PAIRC.TWSEL_IE) 12

/-! Time. -/

/-- `n` counts pass; the time base stands still while R610 holds it. DESIGN CHOICE: log entry 3. -/
def advance (d : Dev) (n : Nat) : Dev :=
  let k := n - d.tbHold
  { d with now := d.now + n, tb := d.tb + BitVec.ofNat 64 k, tphase := d.tphase + k, tbHold := d.tbHold - n }

/-- Time moves to the instant `t`, and never back. DESIGN CHOICE: log entry 3. DEDUCED: log entry 68. -/
def advanceTo (d : Dev) (t : Nat) : Dev := advance d (t - d.now)

/-- The time-base count of the instant `t` (in counts since power-on). -/
def tbAt (d : Dev) (t : Nat) : Nat := (d.tb.toNat + t + (2 ^ 64 - d.now % 2 ^ 64)) % 2 ^ 64

/-- The first instant from `t` on whose time-base count is a multiple of `k`: PERIPH edges for 2, ADC edges for 6 (R86). -/
def edgeAt (d : Dev) (k t : Nat) : Nat := t + (k - tbAt d t % k) % k

/-- Counts per FABRIC cycle: 1, 2 or 4 (R9, R27). -/
def fabDiv (d : Dev) : Nat := 2 ^ gf d SYSCFG.SCLK SYSCFG.SCLK_FDIV

/-- The time base as registers show it: it moves on FABRIC edges (R27). -/
def tbShown (d : Dev) : BitVec 64 := d.tb - BitVec.ofNat 64 (d.tb.toNat % fabDiv d)

/-- What `FSPD` shows: a speed reaches it 12 FABRIC cycles after its edge is qualified (R112). -/
def fbSpd (d : Dev) (f : Nat) : Word :=
  match (look d.fb f {}).spdq.find? (fun e => decide (e.1 ≤ d.now)) with
  | some e => e.2
  | none => rd d (FB.FSPD f)

/-- The at-or-past rule on 32-bit counts (R54). -/
def atOrPast (k c : Word) : Bool := (k - c).toNat < 2 ^ 31

/-- The low word of the time base, and of the tick number. -/
def tbLow (d : Dev) : Word := d.tb.setWidth 32
def tnoLow (d : Dev) : Word := d.tickno.setWidth 32

/-- A free value's index, and the device after drawing it. DESIGN CHOICE: log entry 4. -/
def draw (d : Dev) : Nat × Dev := (d.free, { d with free := d.free + 1 })

/-! Events for the host and trace items. -/

/-- An event joins the hold queue, and one that is no completion is dropped where 32 wait (R583). DEDUCED: log entry 18. -/
def postEvent (d : Dev) (e : HostEv) : Dev :=
  if d.evHold.length < 32 || e.typ = 0x81 then { d with evHold := d.evHold ++ [e] }
  else { bump d HOST.HEVDROP HOST.HEVDROP_CNT with
          evDrop := true, hostSt := { d.hostSt with evTotal := d.hostSt.evTotal + 1, dirty := true } }

/-- A number from its bytes, lowest first. -/
def ofLeBytes : List Byte → Nat
  | [] => 0
  | b :: l => b.toNat + 256 * ofLeBytes l

/-- A trace item is emitted where tracing and its kind are on at read-out protection level 0; one that finds 64 waiting is
lost (R676). DEDUCED: log entry 18. -/
def emitTrace (d : Dev) (kind : Fld) (typ src : Nat) (payload : List Byte) : Dev :=
  if gf d DBG.DBGCTL DBG.DBGCTL_TRCEN = 1 && gf d DBG.DBGCTL kind = 1 && gf d FLASHC.FLRDP FLASHC.FLRDP_LEVEL = 0 then
    if d.trace.length < 64 then
      { d with trace := d.trace ++ [⟨typ, src, d.tb.toNat % 2 ^ 48, payload⟩] }
    else { d with trMissed := d.trMissed + 1 }
  else d

/-! Outcomes. -/

/-- A command that changes the device whatever the clocks do. DEDUCED: log entry 68. -/
def onDev (s : State) (f : Dev → Dev) : Out := .next { s with dev := f s.dev }

/-- A command of the root-clocked part: with the root clocks stopped it has no effect. DEDUCED: log entry 1. DEDUCED: log
entry 68. -/
def clocked (s : State) (f : Dev → Dev) : Out :=
  if s.pwr.root then .next { s with dev := f s.dev } else .next s

/-- `f` applied for each number of a list in turn. -/
def forEach {α : Type} (l : List α) (f : Dev → α → Dev) (d : Dev) : Dev := l.foldl f d

/-- A gateable block is reachable (R648). DEDUCED: log entry 9. DEDUCED: log entry 69. -/
def gateOpen (d : Dev) (b : Nat) : Bool := !d.gshut.getLsbD b

end Sys2Proof.Machine
end

