-- ==== Sys2Proof/Machine/Claims.lean ====
section
/-! DEFINITION. Claims on pins, converter entries, triads, trigger lines and trip lines (R650 to R655), and the balls that
number the pins (R739). -/

namespace Sys2Proof.Machine

open Sys2Proof

/-! Resource and owner codes (R654). -/

def resPin (ball : Nat) : Nat := ball
def resEntry (mon : Bool) (conv entry : Nat) : Nat := 0x1000 + (if mon then 0x80 else 0) + 16 * conv + entry
def resTriad (t : Nat) : Nat := 0x2000 + t
def resTrigger (n : Nat) : Nat := 0x3000 + n
def resTrip (k : Nat) : Nat := 0x4000 + k
def ownTriad (t : Nat) : Nat := 0x1000 + t
def ownLe (n : Nat) : Nat := 0x2000 + n
def ownFb (f : Nat) : Nat := 0x3000 + f
def ownCtx (c : Nat) : Nat := 0x4000 + c
def ownGpt (n : Nat) : Nat := 0x5000 + n
def ownPin (n : Nat) : Nat := 0x6000 + n

/-! Ball indices (R739). -/

def ballPwmH (n : Nat) : Nat := 40 * (n / 16) + 4 + 2 * (n % 16)
def ballPwmL (n : Nat) : Nat := ballPwmH n + 1
def ballFbA (n : Nat) : Nat := 1484 + n
def ballFbB (n : Nat) : Nat := 1524 + n
def ballFbZ (n : Nat) : Nat := 1564 + n
def ballGpio (n : Nat) : Nat := 40 * (4 + n % 32) + n / 32

/-- Holders of `res` that stand against a claim on it by `owner`: every other owner, unless the claim and all of theirs are
shared and of one kind (R651). -/
def against (held : List Claim) (owner res : Nat) (excl : Bool) : List Nat :=
  let others := held.filter (fun c => c.res = res && c.owner != owner)
  if !excl && others.all (fun c => !c.excl && c.owner / 4096 = owner / 4096) then [] else others.map Claim.owner

/-- A function's own claims that stand against each other: two exclusive ones, or an exclusive and a shared one, on one
resource (R651). DEDUCED: log entry 17. -/
def selfConflicts : List (Nat × Bool) → List Nat
  | [] => []
  | (r, x) :: l => (if l.any (fun e => e.1 = r && (x || e.2)) then [r] else []) ++ selfConflicts l

/-- All conflicts of a function's claims, as resource and holder. DEDUCED: log entry 17. -/
def conflicts (held : List Claim) (owner : Nat) (want : List (Nat × Bool)) : List (Nat × Nat) :=
  (want.flatMap (fun e => (against held owner e.1 e.2).map (fun o => (e.1, o))))
    ++ (selfConflicts want).map (fun r => (r, owner))

/-- The least number of a list, or `d`. -/
def leastOf (l : List Nat) (d : Nat) : Nat := l.foldl min d

/-- A flag of `SCSTAT`; SYSCFG0 rises where it is enabled (R680). -/
def scFlag (d : Dev) (b : Nat) : Dev := setFlag d SYSCFG.SCSTAT b (gf d SYSCFG.SCSEL SYSCFG.SCSEL_IE) 144

/-- The report of a refused claim (R652). -/
def claimRefused (d : Dev) (owner : Nat) (cs : List (Nat × Nat)) : Dev :=
  let low := leastOf (cs.map (·.2)) 0xFFFF
  let res := leastOf ((cs.filter (fun c => c.2 = low)).map (·.1)) 0xFFFF
  let d := sf (sf d SYSCFG.CLAIMERR SYSCFG.CLAIMERR_OWNER low) SYSCFG.CLAIMERR SYSCFG.CLAIMERR_REQ owner
  let d := sf d SYSCFG.CLAIMRES SYSCFG.CLAIMRES_RES res
  bump (scFlag d 1) SYSCFG.CLAIMCNT SYSCFG.CLAIMCNT_CNT

/-- A function takes all its claims, and releases those it no longer names, or takes none (R652). The answer says which.
DEDUCED: log entry 17. -/
def takeClaims (d : Dev) (owner : Nat) (want : List (Nat × Bool)) : Dev × Bool :=
  match conflicts d.claims owner want with
  | [] =>
    ({ d with claims := d.claims.filter (fun c => c.owner != owner)
                ++ want.eraseDups.map (fun e => ⟨e.1, owner, e.2⟩) }, true)
  | cs => (claimRefused d owner cs, false)

/-- A function that becomes OFF releases its claims other than those on pins (R655). -/
def releaseClaims (d : Dev) (owner : Nat) : Dev :=
  { d with claims := d.claims.filter (fun c => !(c.owner = owner && 0x1000 ≤ c.res)) }

/-- Every claim of an owner, those on pins included, is released. -/
def dropClaims (d : Dev) (owner : Nat) : Dev :=
  { d with claims := d.claims.filter (fun c => c.owner != owner) }

/-- Some function of the kind with this owner code claims the pin. -/
def pinClaimed (d : Dev) (ball owner : Nat) : Bool := d.claims.any (fun c => c.res = ball && c.owner = owner)

end Sys2Proof.Machine
end

