-- ==== Sys2Proof/Config.lean ====
section
/-! DEFINITION. What the spec leaves open: constants without a body, so that nothing can evaluate them. Each is named in
notes/assumptions/4.md. -/

namespace Sys2Proof

/-- Sign and payload of the NaN an operation gives (R356 names only the default result): operation, operands. -/
opaque Config.nanBits : Nat → Word → Word → Word
/-- Whether tininess is detected after rounding (R356, IEEE 754). -/
opaque Config.tinyAfter : Bool
/-- Error of a sine (R215, R367) inside its bound: selector and angle. -/
opaque Config.sinErr : Nat → Word → BitVec 8
/-- Error of `ATAN2` inside its bound of 2^10 angle units (R368): the operands. -/
opaque Config.atanErr : Word → Word → BitVec 10
/-- The angle of a point whose coordinates are both infinite (R368 states none): the operands. DEDUCED: log entry 57. -/
opaque Config.atanInf : Word → Word → Word
/-- A fresh free word: the index is `Dev.free`. -/
opaque Config.freeWord : Nat → Word
/-- A fresh free number below a bound the use states: the index is `Dev.free`. -/
opaque Config.freeNat : Nat → Nat
/-- The integrator's coefficient α = exp(−2π·f/f_C) as REAL (R256): corner, numerator and denominator of f_C. -/
opaque Config.expAlpha : Word → Nat → Nat → Word
/-- The next pointer in the header of the host DVSEC (R554 states no value). DEDUCED: log entry 79. -/
opaque Config.dvsecNext : BitVec 12

end Sys2Proof
end

