-- ==== Sys2Proof/Machine/F32.lean ====
section
/-! DEFINITION. IEEE 754 binary32 arithmetic on exact numbers, rounded once (R215, R356, R366), and sine, cosine and angle
inside the bounds of R215, R367 and R368. Flags are a number: NV 1, DZ 2, OF 4, UF 8, NX 16. -/

namespace Sys2Proof.Machine

open Sys2Proof

/-- What a binary32 word stands for: a finite value is (−1)^neg · m · 2^e. -/
inductive Num where
  | nan
  | inf (neg : Bool)
  | fin (neg : Bool) (m : Nat) (e : Int)
deriving DecidableEq, Repr

def fNV : Nat := 1
def fDZ : Nat := 2
def fOF : Nat := 4
def fUF : Nat := 8
def fNX : Nat := 16

/-- The value of a word. -/
def fUnpack (w : Word) : Num :=
  let n := w.toNat
  let s := decide (2 ^ 31 ≤ n)
  let ex : Nat := n / 2 ^ 23 % 256
  let fr : Nat := n % 2 ^ 23
  if ex = 255 then (if fr = 0 then .inf s else .nan)
  else if ex = 0 then .fin s fr (-149)
  else .fin s (2 ^ 23 + fr) (Int.ofNat ex - 150)

/-- A NaN whose top fraction bit is 0 signals. -/
def fSignals (w : Word) : Bool :=
  let n := w.toNat
  decide (n / 2 ^ 23 % 256 = 255) && decide (n % 2 ^ 23 ≠ 0) && decide (n % 2 ^ 23 < 2 ^ 22)

/-- The NaN of an operation: quiet, its other bits free. -/
def fNan (op : Nat) (a b : Word) : Word := 0x7FC00000 ||| (Config.nanBits op a b &&& 0x803FFFFF)

def fSign (neg : Bool) : Nat := if neg then 2 ^ 31 else 0
def fInf (neg : Bool) : Word := BitVec.ofNat 32 (fSign neg + 0x7F800000)
def fZero (neg : Bool) : Word := BitVec.ofNat 32 (fSign neg)

/-- Whether a magnitude `n + r/den` (with `0 ≤ r < den`) rounds up: 0 nearest-even, 1 toward 0, 2 toward −∞, 3 toward
+∞ (R366). -/
def fUp (rm : Nat) (neg : Bool) (n r den : Nat) : Bool :=
  match rm with
  | 0 => decide (den < 2 * r) || (decide (2 * r = den) && decide (n % 2 = 1))
  | 2 => neg && decide (r ≠ 0)
  | 3 => !neg && decide (r ≠ 0)
  | _ => false

/-- `num / den` at the quantum `2^q`: the rounded multiple and whether it is inexact. -/
def fQuant (rm : Nat) (neg : Bool) (num den : Nat) (q : Int) : Nat × Bool :=
  let a := if q < 0 then num * 2 ^ q.natAbs else num
  let b := if q < 0 then den else den * 2 ^ q.natAbs
  let n := a / b
  let r := a % b
  (if fUp rm neg n r b then n + 1 else n, r ≠ 0)

/-- The exponent of the leading bit of `num / den`. -/
def fLog (num den : Nat) : Int :=
  let l : Int := (Nat.log2 num : Int) - (Nat.log2 den : Int)
  let lhs := if l < 0 then num * 2 ^ l.natAbs else num
  let rhs := if l < 0 then den else den * 2 ^ l.natAbs
  if lhs < rhs then l - 1 else l

/-- A non-zero magnitude `num / den` with its sign as binary32, and the flags of the rounding. -/
def fRound (rm : Nat) (neg : Bool) (num den : Nat) : Word × Nat :=
  if num = 0 then (fZero neg, 0)
  else
    let l := fLog num den
    let q := max (l - 23) (-149)
    let (n, inexact) := fQuant rm neg num den q
    let bits := (q + 149).toNat * 2 ^ 23 + n
    if 255 * 2 ^ 23 ≤ bits then
      let stays := rm = 1 || (rm = 2 && !neg) || (rm = 3 && neg)
      (BitVec.ofNat 32 (fSign neg + (if stays then 0x7F7FFFFF else 0x7F800000)), fOF + fNX)
    else
      let reaches := l = -127 && decide ((fQuant rm neg num den (-150)).1 = 2 ^ 24)
      let tiny := l < -126 && !(Config.tinyAfter && reaches)
      (BitVec.ofNat 32 (fSign neg + bits), (if inexact then fNX else 0) + (if tiny && inexact then fUF else 0))

/-- `m · 2^e` rounded. -/
def fRoundExp (rm : Nat) (neg : Bool) (m : Nat) (e : Int) : Word × Nat :=
  if e < 0 then fRound rm neg m (2 ^ e.natAbs) else fRound rm neg (m * 2 ^ e.natAbs) 1

/-- The finite value as an integer multiple of `2^e0`, for `e0` at most its exponent. -/
def fScaled (neg : Bool) (m : Nat) (e e0 : Int) : Int :=
  let k : Int := (m * 2 ^ (e - e0).toNat : Nat)
  if neg then -k else k

/-- A sum `k · 2^e0` rounded; an exact zero takes the sign that IEEE 754 gives it. -/
def fSumRound (rm : Nat) (k : Int) (e0 : Int) (negZero : Bool) : Word × Nat :=
  if k = 0 then (fZero negZero, 0) else fRoundExp rm (decide (k < 0)) k.natAbs e0

def fNvIf (b : Bool) : Nat := if b then fNV else 0

/-- `a + b`. -/
def fAdd (a b : Word) (rm : Nat := 0) : Word × Nat :=
  match fUnpack a, fUnpack b with
  | .nan, _ => (fNan 0 a b, fNvIf (fSignals a || fSignals b))
  | _, .nan => (fNan 0 a b, fNvIf (fSignals b))
  | .inf s, .inf t => if s = t then (fInf s, 0) else (fNan 0 a b, fNV)
  | .inf s, _ => (fInf s, 0)
  | _, .inf t => (fInf t, 0)
  | .fin s m e, .fin t n f =>
    let e0 := min e f
    fSumRound rm (fScaled s m e e0 + fScaled t n f e0) e0 (if m = 0 && n = 0 && s == t then s else rm = 2)

def fNegate (a : Word) : Word := a ^^^ 0x80000000
/-- `a − b`. -/
def fSub (a b : Word) (rm : Nat := 0) : Word × Nat := fAdd a (fNegate b) rm

/-- `a × b`. -/
def fMul (a b : Word) (rm : Nat := 0) : Word × Nat :=
  match fUnpack a, fUnpack b with
  | .nan, _ => (fNan 1 a b, fNvIf (fSignals a || fSignals b))
  | _, .nan => (fNan 1 a b, fNvIf (fSignals b))
  | .inf s, .inf t => (fInf (s != t), 0)
  | .inf s, .fin t n _ => if n = 0 then (fNan 1 a b, fNV) else (fInf (s != t), 0)
  | .fin s m _, .inf t => if m = 0 then (fNan 1 a b, fNV) else (fInf (s != t), 0)
  | .fin s m e, .fin t n f => if m * n = 0 then (fZero (s != t), 0) else fRoundExp rm (s != t) (m * n) (e + f)

/-- `d + a × b` with one rounding (R354). -/
def fFma (d a b : Word) : Word × Nat :=
  match fUnpack a, fUnpack b, fUnpack d with
  | .fin s m e, .fin t n f, .fin u k g =>
    let e0 := min (e + f) g
    fSumRound 0 (fScaled (s != t) (m * n) (e + f) e0 + fScaled u k g e0) e0
      (if m * n = 0 && k = 0 && (s != t) == u then u else false)
  | .fin _ _ _, .fin _ _ _, .inf u => (fInf u, 0)
  | .fin _ _ _, .fin _ _ _, .nan => (fNan 2 a b, fNvIf (fSignals d))
  | _, _, _ =>
    let p := fMul a b
    let r := fAdd p.1 d
    (r.1, p.2 ||| r.2)

/-- `a ÷ b`. -/
def fDiv (a b : Word) (rm : Nat := 0) : Word × Nat :=
  match fUnpack a, fUnpack b with
  | .nan, _ => (fNan 3 a b, fNvIf (fSignals a || fSignals b))
  | _, .nan => (fNan 3 a b, fNvIf (fSignals b))
  | .inf _, .inf _ => (fNan 3 a b, fNV)
  | .inf s, .fin t _ _ => (fInf (s != t), 0)
  | .fin s _ _, .inf t => (fZero (s != t), 0)
  | .fin s m e, .fin t n f =>
    if n = 0 then (if m = 0 then (fNan 3 a b, fNV) else (fInf (s != t), fDZ))
    else if m = 0 then (fZero (s != t), 0)
    else
      let g := e - f
      if g < 0 then fRound rm (s != t) m (n * 2 ^ g.natAbs) else fRound rm (s != t) (m * 2 ^ g.natAbs) n

/-- The integer square root, bit by bit from `2^k` down. -/
def natSqrt : Nat → Nat → Nat → Nat
  | 0, _, r => r
  | k + 1, n, r => let t := r + 2 ^ k; if t * t ≤ n then natSqrt k n t else natSqrt k n r

/-- The square root, correctly rounded (R215). -/
def fSqrt (a : Word) : Word × Nat :=
  match fUnpack a with
  | .nan => (fNan 4 a a, fNvIf (fSignals a))
  | .inf s => if s then (fNan 4 a a, fNV) else (a, 0)
  | .fin s m e =>
    if m = 0 then (a, 0)
    else if s then (fNan 4 a a, fNV)
    else
      let odd := (e % 2).toNat
      let n := m * 2 ^ odd * 2 ^ 64
      let r := natSqrt 48 n 0
      let sticky := if r * r = n then 0 else 1
      fRoundExp 0 false (2 * r + sticky) ((e - (odd : Int)) / 2 - 33)

/-- Relation of two values: 0 equal, 1 less, 2 greater, 3 unordered (R362). -/
def fCmp (a b : Word) : Nat :=
  match fUnpack a, fUnpack b with
  | .nan, _ => 3
  | _, .nan => 3
  | .inf s, .inf t => if s = t then 0 else if s then 1 else 2
  | .inf s, _ => if s then 1 else 2
  | _, .inf t => if t then 2 else 1
  | .fin s m e, .fin t n f =>
    let e0 := min e f
    let x := fScaled s m e e0
    let y := fScaled t n f e0
    if x = y then 0 else if x < y then 1 else 2

def fLt (a b : Word) : Bool := fCmp a b = 1
def fMax (a b : Word) : Word := if fLt a b then b else a
def fMin (a b : Word) : Word := if fLt b a then b else a

/-- An integer times `2^e`, as binary32. -/
def fOfInt (i : Int) (e : Int := 0) (rm : Nat := 0) : Word × Nat :=
  if i = 0 then (0, 0) else fRoundExp rm (decide (i < 0)) i.natAbs e

/-- A quotient of integers as binary32. -/
def fOfRat (i : Int) (den : Nat) : Word := if i = 0 then 0 else (fRound 0 (decide (i < 0)) i.natAbs den).1

/-- A finite value times `2^k`, rounded to an integer, and whether that was inexact; nothing for NaN and ∞. -/
def fToInt (a : Word) (k : Int) (rm : Nat) : Option (Int × Bool) :=
  match fUnpack a with
  | .fin s m e =>
    let g := e + k
    let (n, x) := if g < 0 then fQuant rm s m (2 ^ g.natAbs) 0 else fQuant rm s (m * 2 ^ g.natAbs) 1 0
    some (if s then -(n : Int) else n, x)
  | _ => none

/-! Results without flags, for the engines. -/

def rAdd (a b : Word) : Word := (fAdd a b).1
def rSub (a b : Word) : Word := (fSub a b).1
def rMul (a b : Word) : Word := (fMul a b).1
def rDiv (a b : Word) : Word := (fDiv a b).1
def rSqrt (a : Word) : Word := (fSqrt a).1
def rOne : Word := 0x3F800000
def rTwo : Word := 0x40000000
def rHalf : Word := 0x3F000000
def rThree : Word := 0x40400000
/-- The binary32 nearest to √3. -/
def rSqrt3 : Word := 0x3FDDB3D7

/-! Angles by digit-by-digit rotation, at 2^−56 turn and 2^−60. -/

def atanTable : List Nat :=
  [9007199254740992, 5317260203651848, 2809494260081567, 1426143154396570, 715839029270683, 358268477703266,
   179177955010598, 89594445026371, 44797906047171, 22399038468267, 11199529914810, 5599766292493, 2799883313132,
   1399941677427, 699970841321, 349985420986, 174992710534, 87496355272, 43748177637, 21874088818, 10937044409,
   5468522205, 2734261102, 1367130551, 683565276, 341782638, 170891319, 85445659, 42722830, 21361415, 10680707,
   5340354, 2670177, 1335088, 667544, 333772, 166886, 83443, 41722, 20861, 10430, 5215, 2608, 1304, 652, 326, 163, 81]

/-- Rotation by the angle `z`: gain-free cosine and sine at 2^−60. -/
def rotate : List Nat → Nat → Int → Int → Int → Int × Int
  | [], _, x, y, _ => (x, y)
  | t :: l, i, x, y, z =>
    if 0 ≤ z then rotate l (i + 1) (x - y / 2 ^ i) (y + x / 2 ^ i) (z - t)
    else rotate l (i + 1) (x + y / 2 ^ i) (y - x / 2 ^ i) (z + t)

/-- Vectoring: the angle of a point in the right half plane, at 2^−56 turn. -/
def vectorAngle : List Nat → Nat → Int → Int → Int → Int
  | [], _, _, _, z => z
  | t :: l, i, x, y, z =>
    if 0 ≤ y then vectorAngle l (i + 1) (x + y / 2 ^ i) (y - x / 2 ^ i) (z + t)
    else vectorAngle l (i + 1) (x - y / 2 ^ i) (y + x / 2 ^ i) (z - t)

/-- Cosine and sine of an angle word at 2^−60, from its octant. -/
def cosSin60 (a : Word) : Int × Int :=
  let n := a.toNat
  let q : Nat := (n + 2 ^ 29) / 2 ^ 30
  let z : Int := Int.ofNat n * 2 ^ 24 - Int.ofNat q * 2 ^ 54
  let (c, s) := rotate atanTable 0 700114967507363238 0 z
  match q % 4 with
  | 0 => (c, s)
  | 1 => (-s, c)
  | 2 => (-c, -s)
  | _ => (s, -c)

/-- Sine and cosine as binary32 within 2^−22 (R215, R367): the near value plus a free error of at most 2^−24. -/
def rSin (a : Word) : Word := (fOfInt ((cosSin60 a).2 + (Config.sinErr 0 a).toInt * 2 ^ 29) (-60)).1
def rCos (a : Word) : Word := (fOfInt ((cosSin60 a).1 + (Config.sinErr 1 a).toInt * 2 ^ 29) (-60)).1

/-- An integer clamped to `[lo, hi]`. -/
def clampI (x lo hi : Int) : Int := max lo (min x hi)

/-- Rounded to the nearest integer, halves away from zero (R738). -/
def roundDiv (a : Int) (b : Nat) : Int :=
  let k : Nat := (2 * a.natAbs + b) / (2 * b)
  if 0 ≤ a then (k : Int) else -(k : Int)

/-- A value at 2^−60 as a FIX, with the free error `k` half units (R367). -/
def fixOf60 (x : Int) (k : Int) : Word := ofInt (clampI (roundDiv (x + k * 2 ^ 28) (2 ^ 29)) (-(2 ^ 31)) (2 ^ 31 - 1))

/-- Sine and cosine as FIX within 2^−30. -/
def fixSin (a : Word) : Word := fixOf60 (cosSin60 a).2 ((Config.sinErr 2 a).toInt % 3 - 1)
def fixCos (a : Word) : Word := fixOf60 (cosSin60 a).1 ((Config.sinErr 3 a).toInt % 3 - 1)

/-- The angle of the point `(x, y)` in 2^−32 turn, near value (R368). -/
def angleNear (x y : Int) : Int :=
  let m := max x.natAbs y.natAbs
  let k := Nat.log2 m
  let sc (v : Int) : Int := if k ≤ 80 then v * 2 ^ (80 - k) else v / 2 ^ (k - 80)
  let z := if 0 ≤ x then vectorAngle atanTable 0 (sc x) (sc y) 0
           else vectorAngle atanTable 0 (-(sc x)) (-(sc y)) 0 + 2 ^ 55
  roundDiv z (2 ^ 24)

/-- The angle of a point within 2^10 units: the near value plus a free error; the point (0, 0) gives 0 (R368). -/
def angleOf (x y : Int) (a b : Word) : Word :=
  if x = 0 && y = 0 then 0 else ofInt (angleNear x y + (Config.atanErr a b).toInt)

end Sys2Proof.Machine
end

