-- ==== Sys2Proof/Machine/Mem.lean ====
section
/-! DEFINITION. Memory as bytes and word tags by key. SRAM lies at its core address; the flash banks, the DDR5 space and
the retention SRAM lie in key ranges of their own. An unlisted byte reads 0 and an unlisted tag VOID (log entry 5). -/

namespace Sys2Proof.Machine

open Sys2Proof

/-- Key of flash byte `a` of physical bank 0 or 1, of DDR5 byte `a`, and of retention SRAM byte `a`. -/
def keyFlash (bank : Nat) (a : Nat) : Nat := 2 ^ 40 * (1 + bank) + a
def keyDdr (a : Nat) : Nat := 2 ^ 44 + a
def keyRet (a : Nat) : Nat := 2 ^ 45 + a

/-- The canonical form: keys strictly rising, no byte that an unlisted key reads as. DESIGN CHOICE: log entry 5. -/
def Memory.wf (m : List Host.Cell) : Bool :=
  decide (m.Pairwise (fun a b => a.1 < b.1)) && m.all (fun c => c.2 != 0)

def rdByte (d : Dev) (k : Nat) : Byte := look d.mem k 0
def wrByte (d : Dev) (k : Nat) (v : Byte) : Dev := { d with mem := store d.mem k v 0 }

/-- Bytes from a key on. -/
def rdBytes (d : Dev) (k : Nat) : Nat → List Byte
  | 0 => []
  | n + 1 => rdByte d k :: rdBytes d (k + 1) n
def wrBytes (d : Dev) (k : Nat) : List Byte → Dev
  | [] => d
  | b :: l => wrBytes (wrByte d k b) (k + 1) l

/-- A little-endian word at a key (R12). -/
def rdW (d : Dev) (k : Nat) : Word := BitVec.ofNat 32 (ofLeBytes (rdBytes d k 4))
def wrW (d : Dev) (k : Nat) (w : Word) : Dev := wrBytes d k (leBytes 4 w.toNat)

/-- The tag of the word that holds a key. DESIGN CHOICE: log entry 5. -/
def rdTag (d : Dev) (k : Nat) : Tag := look d.mtag (k / 4) .void
def wrTag (d : Dev) (k : Nat) (t : Tag) : Dev := { d with mtag := store d.mtag (k / 4) t .void }

def rdTW (d : Dev) (k : Nat) : TWord := ⟨rdTag d k, rdW d k⟩
def wrTW (d : Dev) (k : Nat) (t : TWord) : Dev := wrTag (wrW d k t.w) k t.tag

/-- `n` bytes from a key on become 0, and their words VOID. -/
def memZero (d : Dev) (k n : Nat) : Dev :=
  { d with mem := d.mem.filter (fun c => !(decide (k ≤ c.1) && decide (c.1 < k + n))),
           mtag := d.mtag.filter (fun c => !(decide (k ≤ 4 * c.1) && decide (4 * c.1 < k + n))) }

/-- The 4-bit code of a tag (R334), and back. -/
def tagCode : Tag → Nat
  | .void => 0 | .int => 1 | .nat => 2 | .fix => 3 | .real => 4 | .angle => 5 | .count => 6 | .bits => 7
  | .addr => 8 | .code => 9 | .desc => 10 | .r0B => 11 | .r0C => 12 | .r0D => 13 | .r0E => 14 | .r0F => 15
def tagOf (n : Nat) : Tag :=
  match n % 16 with
  | 0 => .void | 1 => .int | 2 => .nat | 3 => .fix | 4 => .real | 5 => .angle | 6 => .count | 7 => .bits
  | 8 => .addr | 9 => .code | 10 => .desc | 11 => .r0B | 12 => .r0C | 13 => .r0D | 14 => .r0E | _ => .r0F
def tagReserved (t : Tag) : Bool := 11 ≤ tagCode t

end Sys2Proof.Machine
end

