-- ==== Sys2Proof/Machine/PressCtx.lean ====
section
/-! DEFINITION. Press lanes and contexts: raw samples, states, costs, commit checks, suspension and restart (R239 to R253,
R281, R282, R289, R291, R292). -/

namespace Sys2Proof.Machine

open Sys2Proof

/-! Rates (R83, R242, R254). -/

/-- Sampling time of an entry in ADC cycles; low power widens 2 to 3 (R81). -/
def entS (lp : Bool) (ent : Word) : Nat :=
  let s := fget ADC.CENT_SAMPT ent + 1
  if lp then max s 3 else s

/-- The monitoring sequence length L of a converter, in ADC cycles (R83). -/
def monLen (d : Dev) (n : Nat) : Nat :=
  let lp := gf d (ADC.ACTL n) ADC.ACTL_LP = 1
  ((List.range (gf d (ADC.AMSEQ n) ADC.AMSEQ_LEN)).map (fun i => entS lp (rd d (ADC.MENT n i)) - 1)).sum

/-- f_L of a lane. -/
def fLane (d : Dev) (c : Nat) : Rat :=
  100000000 / ((monLen d (c / 16) * 2 * gf d (PRESS.LNCFG c) PRESS.LNCFG_MC : Nat) : Rat)

/-- Stream capacity, units per second (R281). -/
def pressCap (d : Dev) : Rat := 600000000 / ((fabDiv d : Nat) : Rat)

def fCtx (d : Dev) (chan : Nat) (cpath : Word) : Rat := fLane d chan / ((2 ^ fget CTX.CPATH_MXLOG cpath : Nat) : Rat)
def fStream (d : Dev) (chan : Nat) (cpath : Word) : Rat :=
  let f := fCtx d chan cpath
  if fget CTX.CPATH_ENV cpath = 1 then f / ((2 ^ fget CTX.CPATH_EDEC cpath : Nat) : Rat) else f

/-- The cost of a context with the words given. -/
def ctxCostOf (d : Dev) (cctl cpath : Word) : Rat :=
  let ch := fget CTX.CCTL_CHAN cctl
  fLane d ch + fCtx d ch cpath * ((2 * fget CTX.CPATH_INTEG cpath + 4 * fget CTX.CPATH_ENV cpath : Nat) : Rat)
    + 8 * fStream d ch cpath * ((fget CTX.CPATH_ORDER cpath : Nat) : Rat)
def ctxCost (d : Dev) (c : Nat) : Rat := ctxCostOf d (rd d (CTX.CCTL c)) (rd d (CTX.CPATH c))

/-! States (R251). -/

def ctxState (d : Dev) (c : Nat) : Nat := gf d (CTX.CSTAT c) CTX.CSTAT_STATE
def ctxSusp (d : Dev) (c : Nat) : Bool := gf d (CTX.CSTAT c) CTX.CSTAT_SUSP = 1
def ctxGet (d : Dev) (c : Nat) : CtxSt := look d.ctx c {}
def ctxPut (d : Dev) (c : Nat) (x : CtxSt) : Dev := { d with ctx := put d.ctx c x }
/-- The contexts that are not OFF. -/
def ctxLive (d : Dev) : List Nat := d.ctx.map (·.1)
/-- Contexts whose cost counts: STARTING or RUNNING and not suspended. -/
def ctxCosting (d : Dev) : List Nat := (ctxLive d).filter (fun c => (ctxState d c = 1 || ctxState d c = 2) && !ctxSusp d c)
def pressCost (d : Dev) : Rat := ((ctxCosting d).map (ctxCost d)).foldl (· + ·) 0

/-- A flag of `PSTAT` (R293). -/
def pressFlag (d : Dev) (b : Nat) : Dev := setFlag d PRESS.PSTAT b (gf d PRESS.PSEL PRESS.PSEL_IE) 57

/-- Registers with addresses in `[lo, hi)` return to their reset values. -/
def clearRegs (d : Dev) (lo hi : Nat) : Dev :=
  { d with regs := d.regs.filter (fun e => !(decide (lo ≤ e.1) && decide (e.1 < hi))),
           pend := d.pend.filter (fun e => !(decide (lo ≤ e.1) && decide (e.1 < hi))),
           tags := d.tags.filter (fun e => !(decide (lo ≤ e.1) && decide (e.1 < hi))) }

/-- DDR5 byte address of a context's workspace (R294). DEDUCED: log entry 22. -/
def ctxWs (d : Dev) (c : Nat) : Nat := 16 * (rd d (CTX.CWS c)).toNat

/-- STARTING: the running state and the history area are cleared (R251). -/
def ctxStart (d : Dev) (c : Nat) : Dev :=
  let d := clearRegs d (0x40280100 + 0x200 * c) (0x40280200 + 0x200 * c)
  let d := memZero d (keyDdr (ctxWs d c + 0x900)) 0x800
  let d := sf d (CTX.CSTAT c) CTX.CSTAT_STATE 1
  let d := sf d (CTX.CSTAT c) CTX.CSTAT_NOREF (gf d (CTX.CPATH c) CTX.CPATH_ORDER)
  ctxPut d c { start := tbAt d d.now }

/-- The partial block is discarded (R252). -/
def ctxDiscard (d : Dev) (c : Nat) : Dev :=
  let d := sf (sf d (CTX.CSTAT c) CTX.CSTAT_FILL 0) (CTX.CSTAT c) CTX.CSTAT_GAP 0
  let x := ctxGet d c
  ctxPut d c { x with blk := [], first := x.first + x.blk.length, grid := { x.grid with tgts := [], gap := false } }

/-- The registers that show a context's pending jobs. -/
def ctxJobRegs (d : Dev) (c : Nat) : Dev :=
  let js := d.jobs.filter (fun j => j.ctx = c)
  let d := sf d (CTX.CPEND c) CTX.CPEND_JOBS (min js.length 4)
  match js with
  | [] => d
  | j :: _ => wr d (CTX.CDEAD c) (BitVec.ofNat 32 j.dl)

/-- Jobs of a context that `p` picks are cancelled without a record and counted. -/
def ctxCancel (d : Dev) (c : Nat) (p : Job → Bool) : Dev :=
  let gone := d.jobs.filter (fun j => j.ctx = c && p j)
  if gone.isEmpty then d
  else
    let ids := gone.map Job.id
    let d := { d with jobs := d.jobs.filter (fun j => !ids.contains j.id),
                      eng := d.eng.filter (fun e => !ids.contains e.2.1) }
    ctxJobRegs (bump (pressFlag d 5) PRESS.PCANCEL PRESS.PCANCEL_CNT gone.length) c

/-- A commit of `EN` = 0, or a reconfiguration: STOPPING from that tick (R251). -/
def ctxStop (d : Dev) (c : Nat) (restart : Bool) : Dev :=
  let d := ctxDiscard d c
  let d := ctxCancel d c (fun j => j.pass = 0)
  let d := sf (sf d (CTX.CSTAT c) CTX.CSTAT_STATE 3) (CTX.CSTAT c) CTX.CSTAT_SUSP 0
  ctxPut d c { ctxGet d c with restart := restart, again := false }

/-- OFF: the claim is released (R655). -/
def ctxOff (d : Dev) (c : Nat) : Dev :=
  let d := sf (sf d (CTX.CSTAT c) CTX.CSTAT_STATE 0) (CTX.CSTAT c) CTX.CSTAT_SUSP 0
  releaseClaims { d with ctx := del d.ctx c } (ownCtx c)

/-- The part of the tick that ends STOPPING (R251). -/
def ctxTickStop (d : Dev) (c : Nat) : Dev :=
  if ctxState d c = 3 && d.jobs.all (fun j => j.ctx != c) then
    let x := ctxGet d c
    if x.again then ctxPut d c { x with again := false, restart := true }
    else if x.restart && gf d (CTX.CCTL c) CTX.CCTL_EN = 1 then ctxStart d c
    else ctxOff d c
  else d

/-- A context is suspended (R282). -/
def ctxSuspend (d : Dev) (c : Nat) : Dev :=
  let d := sf (ctxDiscard d c) (CTX.CSTAT c) CTX.CSTAT_SUSP 1
  { bump (pressFlag d 6) PRESS.PSUSP PRESS.PSUSP_CNT with pressBad := true }

/-- Order in which contexts are suspended: highest class, then highest number. -/
def ctxSuspOrder (d : Dev) (a b : Nat) : Bool :=
  let ca := gf d (CTX.CCTL a) CTX.CCTL_CLASS
  let cb := gf d (CTX.CCTL b) CTX.CCTL_CLASS
  cb < ca || (ca = cb && b ≤ a)

/-- Insertion into a list ordered by `le`. -/
def insertBy {α : Type} (le : α → α → Bool) (a : α) : List α → List α
  | [] => [a]
  | b :: l => if le a b then a :: b :: l else b :: insertBy le a l
def sortBy {α : Type} (le : α → α → Bool) (l : List α) : List α := l.foldr (insertBy le) []

/-- Contexts are suspended one by one until the cost fits (R282). -/
def suspendUntilFits : List Nat → Dev → Dev
  | [], d => d
  | c :: l, d => if pressCost d ≤ pressCap d then d else suspendUntilFits l (ctxSuspend d c)
def pressFit (d : Dev) : Dev := suspendUntilFits (sortBy (ctxSuspOrder d) (ctxCosting d)) d

def ddrRunning (d : Dev) : Bool := gf d DDRC.DSTAT DDRC.DSTAT_STATE = 2

/-- A suspended context resumes through STARTING at the first tick at which its cost fits and the DDRC runs (R282, R289). -/
def ctxResume (d : Dev) (c : Nat) : Dev :=
  if ctxSusp d c && (ctxState d c = 1 || ctxState d c = 2) && ddrRunning d
      && pressCost d + ctxCost d c ≤ pressCap d then ctxStart d c else d

/-- A commit of `DCTL.EN` = 0 suspends every context that is not OFF and cancels its jobs (R289). -/
def pressDdrStop (d : Dev) : Dev :=
  forEach (ctxLive d) (fun d c => ctxCancel (ctxSuspend d c) c (fun _ => true)) d

/-! Lanes. -/

def laneConv (c : Nat) : Nat := c / 16
/-- A lane produces output while its converter runs and its entry has the Press route (R240). -/
def laneActive (d : Dev) (c : Nat) : Bool :=
  gf d (ADC.ASTAT (c / 16)) ADC.ASTAT_STATE = 2 && decide (c % 16 < gf d (ADC.AMSEQ (c / 16)) ADC.AMSEQ_LEN)
    && gf d (ADC.MENT (c / 16) (c % 16)) ADC.CENT_PRESS = 1

/-- A raw sample enters a lane: a patch or a VOID is replaced by the previous sample and counted (R244). -/
def laneIn (d : Dev) (c : Nat) (code : Int) (void patch : Bool) (inst : Nat) : Dev :=
  let l := look d.lane c {}
  let t := tbAt d inst
  let l := { l with prev := if void || patch then l.prev else code, n := l.n + 1, inst := t,
                    rep := if patch then l.rep ++ [(t, false)] else if void then l.rep ++ [(t, true)] else l.rep }
  { d with lane := put d.lane c l }

/-- A lane restarts: its histories clear and every context that names it restarts as a reconfiguration (R246). -/
def laneRestart (d : Dev) (c : Nat) : Dev :=
  let d := { d with lane := put d.lane c { len := monLen d (c / 16), ep := (look d.lane c {}).ep + 1 } }
  forEach ((ctxLive d).filter (fun k => gf d (CTX.CCTL k) CTX.CCTL_CHAN = c && (ctxState d k = 1 || ctxState d k = 2)))
    (fun d k => ctxStop d k true) d

/-! Configuration writes and commits. -/

/-- A REAL field that is NaN or infinite. -/
def realBad (v : Word) : Bool := fget ⟨30, 23⟩ v = 255

/-- A context word at offset `o` that holds a forbidden value (R291); `cpath` is the word `CPATH` as it stands. -/
def ctxWordBad (o : Nat) (v : Word) : Bool :=
  match o with
  | 0x00 => fget CTX.CCTL_DL v = 0
  | 0x04 => 8 < fget CTX.CPATH_MXLOG v || 4 < fget CTX.CPATH_EDEC v || 8 < fget CTX.CPATH_BLOG v
      || (fget CTX.CPATH_ORDER v = 1 && (fget CTX.CPATH_NRLOG v < 4 || 10 < fget CTX.CPATH_NRLOG v))
      || fget CTX.CPATH_OVL v = 3 || fget CTX.CPATH_AVGM v = 3 || 23 < fget CTX.CPATH_FB v
  | 0x08 => 32 < fget CTX.CAVG_NBAND v || 32 < fget CTX.CAVG_NORD v || 7 < fget CTX.CAVG_RING v
  | _ => decide (0x0C ≤ o) && decide (o ≤ 0x28) && realBad v

/-- The value of a finite REAL. -/
def realRat (w : Word) : Rat :=
  match fUnpack w with
  | .fin s m e =>
    let a : Rat := if e < 0 then ((m : Nat) : Rat) / ((2 ^ e.natAbs : Nat) : Rat) else ((m * 2 ^ e.natAbs : Nat) : Rat)
    if s then -a else a
  | _ => 0

/-- Installed DDR5 capacity in bytes, from the active `DCFG` (R521). -/
def ddrCap (d : Dev) : Nat :=
  let gib := match gf d DDRC.DCFG DDRC.DCFG_DENS with | 0 => 2 | 1 => 3 | _ => 4
  (1 + gf d DDRC.DCFG DDRC.DCFG_SUBB) * (1 + gf d DDRC.DCFG DDRC.DCFG_RANK2) * 4 * gib * 2 ^ 30

def up64 (n : Nat) : Nat := (n + 63) / 64 * 64
/-- Bytes of a workspace for blocks of `n` samples (R294). -/
def wsSpan (n : Nat) : Nat := 0x1100 + up64 (4 * (25 * n / 64 + 1)) + up64 (12 * (n / 2 + 1)) + 8 * n

/-- The check a context's pending words fail at a commit, or 0 (R292). DEDUCED: log entry 16. -/
def ctxCheck (d : Dev) (c : Nat) : Nat :=
  let cctl := rdPend d (CTX.CCTL c)
  let cpath := rdPend d (CTX.CPATH c)
  let cavg := rdPend d (CTX.CAVG c)
  let ch := fget CTX.CCTL_CHAN cctl
  let n := 2 ^ (fget CTX.CPATH_BLOG cpath + 8)
  let f := fCtx d ch cpath
  let band (b : Nat) : Word := rdPend d (CTX.CBAND c b)
  let line (q : Nat) : Nat :=
    if q % 2 = 0 then fget CTX.CORD_LINE0 (rdPend d (CTX.CORD c (q / 2)))
    else fget CTX.CORD_LINE1 (rdPend d (CTX.CORD c (q / 2)))
  let r (x : Reg) : Rat := realRat (rdPend d x)
  if gf d (ADC.AMSEQ (ch / 16)) ADC.AMSEQ_LEN = 0 || gf d (ADC.MENT (ch / 16) (ch % 16)) ADC.CENT_PRESS = 0 then 1
  else if fget CTX.CPATH_ORDER cpath = 1 && n < 2 ^ fget CTX.CPATH_NRLOG cpath then 2
  else if (List.range (fget CTX.CAVG_NBAND cavg)).any (fun b =>
        fget CTX.CBAND_KHI (band b) < fget CTX.CBAND_KLO (band b) || n / 2 < fget CTX.CBAND_KHI (band b))
      || (List.range (fget CTX.CAVG_NORD cavg)).any (fun q => 25 * n / 64 < line q) then 3
  else if r (CTX.IHPF c) < 1 / 100 || f / 10 < r (CTX.IHPF c) || r (CTX.EBLO c) ≤ 0 || r (CTX.EBHI c) ≤ r (CTX.EBLO c)
      || 45 / 100 * f < r (CTX.EBHI c) || 45 / 100 * f < r (CTX.ELP c) then 4
  else if rdPend d (CTX.CWS c) = 0 then 5
  else
    let others := ((ctxCosting d).filter (· != c)).map (ctxCost d)
    if pressCap d < others.foldl (· + ·) 0 + ctxCostOf d cctl cpath then 6
    else if ddrCap d < 16 * (rdPend d (CTX.CWS c)).toNat + wsSpan n || !ddrRunning d then 7
    else 0

/-- Bits of `CCTL`, `CPATH` and `CAVG`, and offsets, whose change needs no restart (R251, R253). -/
def ctxSoftMask (o : Nat) : Word :=
  match o with
  | 0x00 => 0x6000FFFF
  | 0x04 => 0x00000001
  | 0x08 => 0x00000007
  | _ => if 0x40 ≤ o then 0xFFFFFFFF else 0

/-- The offsets of the configuration words that differ in the pending copy. -/
def ctxPending (d : Dev) (c : Nat) : List (Nat × Word) :=
  (d.pend.filter (fun e => decide (0x40280000 + 0x200 * c ≤ e.1) && decide (e.1 < 0x40280100 + 0x200 * c))).map
    (fun e => (e.1 - (0x40280000 + 0x200 * c), e.2))

/-- The active word of a context at an offset (every reset value of the map is reached through its register). -/
def ctxRegAt (c o : Nat) : Reg :=
  match o with
  | 0x00 => CTX.CCTL c | 0x04 => CTX.CPATH c | 0x08 => CTX.CAVG c | 0x0C => CTX.CSCALE c | 0x10 => CTX.COFS c
  | 0x14 => CTX.IHPF c | 0x18 => CTX.ISCALE c | 0x1C => CTX.EBLO c | 0x20 => CTX.EBHI c | 0x24 => CTX.ELP c
  | 0x28 => CTX.RTPCT c | 0x2C => CTX.CWS c
  | _ => if o < 0xC0 then CTX.CBAND c ((o - 0x40) / 4) else CTX.CORD c ((o - 0xC0) / 4)

/-- The commit of a context's words (R250, R251, R253, R292). -/
def ctxCommit (d : Dev) (c : Nat) : Dev :=
  let ch := ctxPending d c
  if ch.isEmpty then d
  else
    let en := fget CTX.CCTL_EN (rdPend d (CTX.CCTL c))
    let was := gf d (CTX.CCTL c) CTX.CCTL_EN
    let code := if en = 1 then ctxCheck d c else 0
    if code ≠ 0 then
      let d := sf (sf d PRESS.PERRCTX PRESS.PERRCTX_CTX c) PRESS.PERRCTX PRESS.PERRCTX_CODE code
      pressFlag d 1
    else
      let chan := fget CTX.CCTL_CHAN (rdPend d (CTX.CCTL c))
      let claim := if en = 1 then takeClaims d (ownCtx c) [(resEntry true (chan / 16) (chan % 16), false)] else (d, true)
      if !claim.2 then claim.1
      else
        let hard := ch.any (fun e => ((rd d (ctxRegAt c e.1)) ^^^ e.2) &&& ~~~(ctxSoftMask e.1)
                                        &&& (if e.1 = 0 then 0x7FFFFFFF else 0xFFFFFFFF) ≠ 0)
        let d := forEach ch (fun d e => commitReg d (ctxRegAt c e.1)) claim.1
        let st := ctxState d c
        if en = 1 then
          if st = 0 then ctxStart d c
          else if st = 3 then
            if was = 0 then ctxPut d c { ctxGet d c with again := true, restart := false } else d
          else if hard then ctxStop d c true else d
        else if st = 1 || st = 2 then ctxStop d c false
        else if st = 3 then ctxPut d c { ctxGet d c with again := false, restart := false }
        else d

end Sys2Proof.Machine
end

