-- ==== Sys2Proof/Machine/Adc.lean ====
section
/-! DEFINITION. References and converters (R68 to R107, R736). A sample is kept from the acceptance of its sequence until
its result leaves the pipeline; instants are counts since power-on. -/

namespace Sys2Proof.Machine

open Sys2Proof

def adcGet (d : Dev) (n : Nat) : AdcSt := look d.adc n {}
def adcPut (d : Dev) (n : Nat) (a : AdcSt) : Dev := { d with adc := store d.adc n a {} }
def adcState (d : Dev) (n : Nat) : Nat := gf d (ADC.ASTAT n) ADC.ASTAT_STATE
def adcSetState (d : Dev) (n st : Nat) : Dev := sf d (ADC.ASTAT n) ADC.ASTAT_STATE st
def adcFlag (d : Dev) (n b : Nat) : Dev := setFlag d (ADC.ASTAT n) b (gf d (ADC.ASEL n) ADC.ASEL_IE) (48 + n)
def adcLp (d : Dev) (n : Nat) : Bool := gf d (ADC.ACTL n) ADC.ACTL_LP = 1

/-! References. -/

def refFld (k : Nat) : Fld := ⟨2 * k + 1, 2 * k⟩
def refState (d : Dev) (k : Nat) : Nat := gf d REF.REFSTAT (refFld k)
def refSetState (d : Dev) (k st : Nat) : Dev := sf d REF.REFSTAT (refFld k) st
def refGet (d : Dev) (k : Nat) : RefSt := look d.ref k {}
def refPut (d : Dev) (k : Nat) (r : RefSt) : Dev := { d with ref := store d.ref k r {} }
def refEn (w : Word) (k : Nat) : Bool := w.getLsbD k
def refExt (w : Word) (k : Nat) : Bool := w.getLsbD (4 + k)

/-- `READY` becomes 1 now. -/
def refUp (d : Dev) (k : Nat) : Dev :=
  let r := refGet d k
  setBit (refPut d k { r with since := some d.now, ext := none }) REF.REFSTAT (8 + k) true

/-- `READY` becomes 0 now. -/
def refDown (d : Dev) (k : Nat) : Dev :=
  let r := refGet d k
  let was := match r.since with | some t => some (t, d.now) | none => r.was
  setBit (refPut d k { r with since := none, was := was }) REF.REFSTAT (8 + k) false

/-- The reference of buffer k was ready at an instant. -/
def refReadyAt (d : Dev) (k t : Nat) : Bool :=
  (match (refGet d k).since with | some a => decide (a ≤ t) | none => false)
    || (match (refGet d k).was with | some (a, b) => decide (a ≤ t) && decide (t < b) | none => false)

/-- STARTING of buffer k begins now: 200 µs (R76). -/
def refStart (d : Dev) (k : Nat) : Dev := refSetState (refPut d k { refGet d k with due := d.now + 120000 }) k 1

/-- What a committed `REFCTL` does to buffer k (R76, R77, R79, R80). -/
def refCommitOne (old new : Word) (d : Dev) (k : Nat) : Dev :=
  let down := (refEn old k && !refEn new k) || (refExt old k != refExt new k)
  let d := if down then refDown d k else d
  let outside := refEn new k && refExt new k
  let d :=
    if !outside then refPut d k { refGet d k with ext := none }
    else if refEn old k && refExt old k then d
    else refPut d k { refGet d k with ext := some (d.now + 12000) }
  let st := refState d k
  if refEn new k && !refExt new k then (if st = 0 then refStart d k else d)
  else if st = 1 || st = 2 then refSetState (refPut d k { refGet d k with due := d.now + 6000 }) k 3
  else d

def refCommit (d : Dev) : Dev :=
  let old := rd d REF.REFCTL
  let d := commitReg d REF.REFCTL
  forEach [0, 1, 2, 3] (refCommitOne old (rd d REF.REFCTL)) d

/-- The end of STARTING (R76). -/
def refReady (d : Dev) (k : Nat) : Dev :=
  if refState d k = 1 then refUp (refSetState (advanceTo d (refGet d k).due) k 2) k else d

def execReferenceReady (k : Fin 4) (s : State) : Out := clocked s (fun d => refReady d k)

/-- 20 µs after the commit that chose the external reference (R79). -/
def refExtReady (d : Dev) (k : Nat) : Dev :=
  match (refGet d k).ext with
  | some t => refUp (advanceTo d t) k
  | none => d

def execExternalReferenceReady (k : Fin 4) (s : State) : Out := clocked s (fun d => refExtReady d k)

/-- The end of STOPPING (R80). -/
def refStopDone (d : Dev) (k : Nat) : Dev :=
  if refState d k = 3 then
    let d := advanceTo d (refGet d k).due
    let c := rd d REF.REFCTL
    if refEn c k && !refExt c k then refStart d k else refSetState d k 0
  else d

def execReferenceStopDone (k : Fin 4) (s : State) : Out := clocked s (fun d => refStopDone d k)

/-! Configuration writes. -/

/-- Trigger sources of the table before R86. -/
def tselLegal (t : Nat) : Bool :=
  t ≤ 2 || (0x10 ≤ t && t ≤ 0x2F) || (0x40 ≤ t && t ≤ 0x5F)

def centBad (v : Word) : Bool :=
  6 ≤ fget ADC.CENT_GAIN v || fget ADC.CENT_SAMPT v = 0 || 19 < fget ADC.CENT_INPUT v

/-- The ticked register of a converter at an offset: the register, its writable bits, whether the value is refused
(R72, R93, R106). -/
def adcTicked (n o : Nat) (v : Word) : Option (Reg × Word × Bool) :=
  if o = 0x000 then some (ADC.ACTL n, 0x3, false)
  else if o = 0x004 then some (ADC.ATRIG n, 0xFFFF007F, !tselLegal (fget ADC.ATRIG_TSEL v))
  else if o = 0x008 then some (ADC.ACSEQ n, 0x1F, 16 < fget ADC.ACSEQ_LEN v)
  else if o = 0x00C then some (ADC.AMSEQ n, 0x1F, 16 < fget ADC.AMSEQ_LEN v)
  else if o < 0x100 then none
  else if o < 0x140 then some (ADC.CENT n ((o - 0x100) / 4), 0x0B07FF1F, centBad v)
  else if o < 0x180 then some (ADC.MENT n ((o - 0x140) / 4), 0x0F07FF1F, centBad v)
  else if o < 0x200 then none
  else if o < 0x240 then
    if o % 8 = 0 then some (ADC.LIMCFG n ((o - 0x200) / 8), 0x801F00FF, fget ADC.LIMCFG_CNT v = 0)
    else some (ADC.LIMTH n ((o - 0x200) / 8), 0xFFFFFFFF, false)
  else none

/-- The offset of a ticked register, written at its own offset or at + 0x800. -/
def tickedOff (o : Nat) : Nat := if 0x800 ≤ o then o - 0x800 else o

/-- A write to a ticked register of a converter, or to `REFCTL` (R106). -/
def writeAdcTicked (d : Dev) (addr : Nat) (v : Word) : Dev :=
  if addr = 0x40108000 || addr = 0x40108800 then
    if gateOpen d 9 then wrPend d REF.REFCTL (v &&& 0xFF) else d
  else if 0x40100000 ≤ addr && addr < 0x40108000 then
    let n := (addr - 0x40100000) / 0x1000
    if gateOpen d (1 + n) then
      match adcTicked n (tickedOff ((addr - 0x40100000) % 0x1000)) v with
      | none => d
      | some (r, m, bad) => if bad then adcFlag d n 6 else wrPend d r (v &&& m)
    else d
  else d

def execAdcConfigWrite (addr : Nat) (v : Word) (s : State) : Out := clocked s (fun d => writeAdcTicked d addr v)

/-! Starting, stopping and calibration. -/

/-- STARTING begins now (R100, R101, R103). -/
def adcStart (d : Dev) (n : Nat) : Dev :=
  let skip := gf d (ADC.ACAL n) ADC.ACAL_SKIP = 1
  let d := adcPut d n { adcGet d n with due := d.now + (if skip then 3000 else 27000),
                                        cal := if skip then none else some (d.now + 24000) }
  adcSetState (setBit d (ADC.ASTAT n) 10 !skip) n 1

/-- A calibration ends: it writes all six trims, whose values the input's errors give (R100; free values). -/
def adcCalWrite (d : Dev) (n : Nat) : Dev :=
  let d := setBit (adcPut d n { adcGet d n with cal := none }) (ADC.ASTAT n) 10 false
  forEach (List.range 6) (fun d g => let q := draw d; wr q.2 (ADC.CALG n g) (Config.freeWord q.1)) d

def adcCalDone (d : Dev) (n : Nat) : Dev :=
  match (adcGet d n).cal with
  | some t => adcCalWrite (advanceTo d t) n
  | none => d

def execAdcCalDone (n : Fin 8) (s : State) : Out := clocked s (fun d => adcCalDone d n)

/-- `ACAL.START` (R102). -/
def adcCalStart (d : Dev) (n : Nat) : Dev :=
  if gateOpen d (1 + n) then
    if adcState d n = 2 && gf d (ADC.ACSEQ n) ADC.ACSEQ_LEN = 0 && gf d (ADC.AMSEQ n) ADC.AMSEQ_LEN = 0
        && (adcGet d n).cal.isNone then
      setBit (adcPut d n { adcGet d n with cal := some (d.now + 24000) }) (ADC.ASTAT n) 10 true
    else adcFlag d n 7
  else d

def execAdcCalStart (n : Fin 8) (s : State) : Out := clocked s (fun d => adcCalStart d n)

/-- A converter becomes RUNNING at the ADC edge after its STARTING time, where its first pass starts (R103). -/
def adcStartDone (d : Dev) (n : Nat) : Dev :=
  if adcState d n = 1 then
    let d := adcCalDone d n
    let d := advanceTo d (edgeAt d 6 (max d.now (adcGet d n).due))
    adcSetState (adcPut d n { adcGet d n with pass := d.now }) n 2
  else d

def execAdcStartDone (n : Fin 8) (s : State) : Out := clocked s (fun d => adcStartDone d n)

/-- A commit of `EN` = 0: what was sampled or abandoned before it is still delivered (R104). -/
def adcStop (d : Dev) (n : Nat) : Dev :=
  let a := adcGet d n
  let fl := a.fl.filter (fun s => !s.mon || decide (s.opn ≤ d.now))
  let last := fl.foldl (fun t s => if s.pat then t else max t (s.inst + 72)) d.now
  let d := setBit (adcPut d n { a with fl := fl, cal := none, due := last + 1200 }) (ADC.ASTAT n) 10 false
  adcSetState d n 3

/-- The end of STOPPING (R104, R105). -/
def adcStopDone (d : Dev) (n : Nat) : Dev :=
  if adcState d n = 3 then
    let d := advanceTo d (adcGet d n).due
    let d := adcPut d n { adcGet d n with fl := [], ctl := [] }
    if gf d (ADC.ACTL n) ADC.ACTL_EN = 1 then adcStart d n else adcSetState d n 0
  else d

def execAdcStopDone (n : Fin 8) (s : State) : Out := clocked s (fun d => adcStopDone d n)

/-- A commit of a converter's ticked registers (R84, R85, R103 to R105, R736). -/
def adcCommit (d : Dev) (n : Nat) : Dev :=
  let len0 := gf d (ADC.AMSEQ n) ADC.AMSEQ_LEN
  let d := forEach (List.range 8) (fun d k =>
    if rdPend d (ADC.LIMCFG n k) ≠ rd d (ADC.LIMCFG n k) || rdPend d (ADC.LIMTH n k) ≠ rd d (ADC.LIMTH n k) then
      adcPut (commitReg (commitReg d (ADC.LIMCFG n k)) (ADC.LIMTH n k)) n { adcGet d n with lim := del (adcGet d n).lim k }
    else d) d
  let d := forEach (List.range 16) (fun d i => commitReg (commitReg d (ADC.CENT n i)) (ADC.MENT n i)) d
  let d := forEach [ADC.ACTL n, ADC.ATRIG n, ADC.ACSEQ n, ADC.AMSEQ n] commitReg d
  let d := if len0 = 0 && gf d (ADC.AMSEQ n) ADC.AMSEQ_LEN ≠ 0 then
      adcPut d n { adcGet d n with pass := edgeAt d 6 d.now } else d
  let st := adcState d n
  if gf d (ADC.ACTL n) ADC.ACTL_EN = 1 then (if st = 0 then adcStart d n else d)
  else if st = 1 || st = 2 then adcStop d n
  else d

/-! Sequences. -/

/-- A monitoring sample whose window the control run from opening `s` to last instant `e` abandons (R89). -/
def monLost (run : Nat × Nat) (m : Smp) : Bool := !(decide (m.inst ≤ run.1 + 6) || decide (run.2 ≤ m.opn + 6))

/-- The samples of a sequence whose first window opens at `a`: entries with their sampling times (R73, R74). -/
def seqItems (mon lp : Bool) : Nat → Nat → List Word → List Smp
  | _, _, [] => []
  | i, a, e :: l =>
    { mon := mon, i := i, opn := a, inst := a + 6 * entS lp e, ent := e,
      adj := lp && decide (fget ADC.CENT_SAMPT e = 1), pat := false, void := false, last := !mon && l.isEmpty }
      :: seqItems mon lp (i + 1) (a + 6 * (entS lp e - 1)) l

/-- A monitoring pass starts on its grid (R83, R84, R89); a changed L restarts the converter's lanes (R246). -/
def monPass (d : Dev) (n : Nat) : Dev :=
  let len := gf d (ADC.AMSEQ n) ADC.AMSEQ_LEN
  if adcState d n = 2 && len ≠ 0 then
    let d := advanceTo d (adcGet d n).pass
    let a := adcGet d n
    let L := monLen d n
    let new := seqItems true (adcLp d n) 0 a.pass ((List.range len).map (fun i => rd d (ADC.MENT n i)))
    let new := new.map (fun m => { m with pat := a.ctl.any (fun r => monLost r m) })
    let d := bumpWrap (adcPut d n { a with fl := a.fl ++ new, pass := a.pass + 6 * L, len := L,
                                           ctl := a.ctl.filter (fun r => decide (a.pass < r.2 + 6)) }) (ADC.APASS n)
    if a.len = L then d else forEach (List.range 16) (fun d i => laneRestart d (16 * n + i)) d
  else d

def execMonitoringPassStart (n : Fin 8) (s : State) : Out := clocked s (fun d => monPass d n)

/-- A control trigger at the PERIPH edge at or after now (R82, R87 to R92). -/
def adcAccept (d : Dev) (n : Nat) : Dev :=
  let d := advanceTo d (edgeAt d 2 d.now)
  let len := gf d (ADC.ACSEQ n) ADC.ACSEQ_LEN
  let a := adcGet d n
  if adcState d n = 2 && len ≠ 0 then
    if a.ctl.any (fun r => decide (d.now < r.2)) then bump (adcFlag d n 1) (ADC.ADROP n) ADC.ADROP_CNT
    else
      let s := edgeAt d 6 (d.now + 2 * gf d (ADC.ATRIG n) ADC.ATRIG_DELAY)
      let new := seqItems false (adcLp d n) 0 s ((List.range len).map (fun i => rd d (ADC.CENT n i)))
      let e := new.foldl (fun _ m => m.inst) s
      adcPut d n { a with fl := a.fl.map (fun m => if m.mon && monLost (s, e) m then { m with pat := true } else m) ++ new,
                          ctl := (if gf d (ADC.AMSEQ n) ADC.AMSEQ_LEN = 0 then [] else a.ctl) ++ [(s, e)] }
  else d

/-- The event of the selected source, `dt` counts on; none is selected by 0, and software triggers come by `ASWT`. -/
def adcTrigger (d : Dev) (n dt : Nat) : Dev :=
  let d := advance d dt
  let t := gf d (ADC.ATRIG n) ADC.ATRIG_TSEL
  if t = 0 || t = 2 then d else adcAccept d n

def execAdcTrigger (n : Fin 8) (dt : Nat) (s : State) : Out := clocked s (fun d => adcTrigger d n dt)

/-- `ASWT.TRIG`: a trigger at the first PERIPH edge after the write, where the source is software. -/
def aswtTrig (d : Dev) (n : Nat) : Dev :=
  if gateOpen d (1 + n) && gf d (ADC.ATRIG n) ADC.ATRIG_TSEL = 2 then adcAccept (advance d 1) n else d

def execAswtTrig (n : Fin 8) (s : State) : Out := clocked s (fun d => aswtTrig d n)

/-! Results. -/

def clampCode (x : Int) : Int := if x < -32768 then -32768 else if 32767 < x then 32767 else x

/-- The code of an input of `nv` nanovolts at a gain code (R70, R72): V × 0.5 × 2^g × 16,384. -/
def rawCode (nv : Int) (gain : Nat) : Int := clampCode (roundDiv (nv * 2 ^ gain * 8192) 1000000000)

/-- The trimmed code. -/
def trimCode (raw : Int) (calg : Word) : Int :=
  clampCode (roundDiv ((16 * raw - fgetS ADC.CALG_OTRIM calg) * (65536 + fgetS ADC.CALG_GTRIM calg)) 1048576)

/-- The input of an entry in nanovolts: the loopback DAC and ground are known, the others come from outside (R69). -/
def adcInput (d : Dev) (n : Nat) (ent : Word) (nv : Int) : Int :=
  match fget ADC.CENT_INPUT ent with
  | 18 => (((gf d (ADC.ADAC n) ADC.ADAC_CODE : Nat) : Int) - 2048) * 976600
  | 19 => 0
  | _ => nv

/-- A side of a limit meets a result: `ex` the result lies beyond it. The run, the fired state, and whether it fires (R97,
R99). -/
def limSide (run : Nat) (fired ex : Bool) (cnt : Nat) : Nat × Bool × Bool :=
  if !ex then (0, false, false)
  else if decide (cnt ≤ run + 1) && !fired then (run + 1, true, true)
  else (min (run + 1) cnt, fired, false)

/-- Bits of `LIMSTAT` are set, and `LIMF` with them (R107). -/
def limFire (d : Dev) (n bit : Nat) (fire : Bool) : Dev :=
  if fire then adcFlag (setBit d (ADC.LIMSTAT n) bit true) n 4 else d

/-- Limit k meets a result of its entry (R97 to R99). -/
def limCheck (n : Nat) (mon : Bool) (i : Nat) (code : Int) (void : Bool) (d : Dev) (k : Nat) : Dev :=
  let c := rd d (ADC.LIMCFG n k)
  if fget ADC.LIMCFG_EN c = 1 && fget ADC.LIMCFG_ENTRY c = i && decide (fget ADC.LIMCFG_SEQ c = 1) == mon then
    let a := adcGet d n
    let l := look a.lim k {}
    if void then adcPut d n { a with lim := store a.lim k { l with hi := 0, lo := 0 } {} }
    else
      let th := rd d (ADC.LIMTH n k)
      let h := limSide l.hi l.hiF (decide (fgetS ADC.LIMTH_HI th < code)) (fget ADC.LIMCFG_CNT c)
      let b := limSide l.lo l.loF (decide (code < fgetS ADC.LIMTH_LO th)) (fget ADC.LIMCFG_CNT c)
      let d := adcPut d n { a with lim := store a.lim k ⟨h.1, h.2.1, b.1, b.2.1⟩ {} }
      limFire (limFire d n (8 + k) h.2.2) n k b.2.2
  else d

/-- The first sample in flight of an entry, and the others. -/
def takeSmp (mon : Bool) (i : Nat) : List Smp → Option (Smp × List Smp)
  | [] => none
  | s :: l =>
    if s.mon == mon && s.i = i then some (s, l)
    else match takeSmp mon i l with | some (x, r) => some (x, s :: r) | none => none

/-- The last result of an entry, a patch included, for the crossbar and for sine and cosine pairs. DEDUCED: log entry 13. -/
def adcKeep (d : Dev) (n : Nat) (s : Smp) (r : ResSt) : Dev :=
  let a := adcGet d n
  adcPut d n { a with res := put a.res ((if s.mon then 16 else 0) + s.i) r }

/-- A result goes the routes of its entry (R91, R94 to R99). -/
def adcRoute (d : Dev) (n : Nat) (s : Smp) (nv : Int) : Dev :=
  let code := trimCode (rawCode (adcInput d n s.ent nv) (fget ADC.CENT_GAIN s.ent))
    (rd d (ADC.CALG n (fget ADC.CENT_GAIN s.ent)))
  let void := s.void || !refReadyAt d (n / 2) s.inst
  let d := if void then adcFlag d n 3 else d
  let d := if s.adj then adcFlag d n 5 else d
  let w := ofInt (code * 65536)
  let r := if s.mon then ADC.MRES n s.i else ADC.CRES n s.i
  let d := if fget ADC.CENT_RES s.ent = 1 then
      { wr d r w with tags := store d.tags r.addr (!void) false } else d
  let d := adcKeep d n s ⟨w, void, s.inst, s.inst + 72, decide (fget ADC.CENT_XBAR s.ent = 1)⟩
  let d := if s.mon && fget ADC.CENT_PRESS s.ent = 1 then laneIn d (16 * n + s.i) code void false s.inst else d
  let d := if fget ADC.CENT_LIMIT s.ent = 1 then
      forEach (List.range 8) (limCheck n s.mon s.i code void) d else d
  if s.last then adcFlag d n 0 else d

/-- The oldest sample of an entry leaves the pipeline (R75), or is delivered as a patch (R91). -/
def adcResult (d : Dev) (n : Nat) (mon : Bool) (i : Nat) (nv : Int) : Dev :=
  let a := adcGet d n
  match takeSmp mon i a.fl with
  | none => d
  | some (s, rest) =>
    let d := advanceTo (adcPut d n { a with fl := rest }) (s.inst + 72)
    if s.pat then
      let d := if fget ADC.CENT_PRESS s.ent = 1 then laneIn d (16 * n + i) 0 false true s.inst else d
      let d := adcKeep d n s ⟨0, true, s.inst, s.inst + 72, false⟩
      bump (adcFlag d n 2) (ADC.APATCH n) ADC.APATCH_CNT
    else adcRoute d n s nv

def execAdcResult (n : Fin 8) (mon : Bool) (i : Fin 16) (nv : Int) (s : State) : Out :=
  clocked s (fun d => adcResult d n mon i nv)

end Sys2Proof.Machine
end

