-- ==== Sys2Proof/Machine/ChainQ.lean ====
section
/-! DEFINITION. Broadcast frames (R615, R616). -/

namespace Sys2Proof.Machine

open Sys2Proof

/-- A frame of chain or system scope goes out of every up port but one (R615); a MGMT frame goes a second time 2 µs later
(R616). -/
def flood (d : Dev) (f : Frame) (but : Option Nat) : Dev :=
  forEach ((portsUp d).filter (fun p => but != some p)) (fun d p => enqueue d p f) d
def broadcast (d : Dev) (scope cls sub : Nat) (payload : List Byte) : Dev :=
  let q := newFrame d (ownPip d) scope cls sub payload
  let d := flood q.2 q.1 none
  if cls = 4 then { d with chTwice := d.chTwice ++ [(d.now + 1200, q.1)] } else d

end Sys2Proof.Machine
end

