-- ==== Sys2Proof/Machine/Pulse.lean ====
section
/-! DEFINITION. PWM triads, legs and their safe states, Rind windows and trip lines (R148 to R201, R737). Edges inside a
count are kept in 1/32 count (52.08 ps). -/

namespace Sys2Proof.Machine

open Sys2Proof

def triGet (d : Dev) (t : Nat) : TriSt := look d.tri t {}
def triPut (d : Dev) (t : Nat) (x : TriSt) : Dev := { d with tri := store d.tri t x {} }
def legGet (d : Dev) (t j : Nat) : LegSt := look d.leg (3 * t + j) {}
def legPut (d : Dev) (t j : Nat) (x : LegSt) : Dev := { d with leg := store d.leg (3 * t + j) x {} }
def triState (d : Dev) (t : Nat) : Nat := gf d (TRIAD.TSTAT t) TRIAD.TSTAT_STATE
def triSetState (d : Dev) (t st : Nat) : Dev := sf d (TRIAD.TSTAT t) TRIAD.TSTAT_STATE st
def triFlag (d : Dev) (t b : Nat) : Dev := setFlag d (TRIAD.TSTAT t) b (gf d (TRIAD.TISEL t) TRIAD.TISEL_IE) (96 + t)
def rindFlag (d : Dev) (b : Nat) : Dev := setFlag d RIND.RSTAT b (gf d RIND.RSEL RIND.RSEL_IE) 56
def legs : List Nat := [0, 1, 2]

/-! The counter (R152, R153). -/

/-- Time-base counts per counter clock of the triad. -/
def triClk (d : Dev) (t : Nat) : Nat := 2 * 2 ^ fget TRIAD.TCFG_PRESC (triGet d t).cfg
def triUp (d : Dev) (t : Nat) : Bool := fget TRIAD.TCFG_CMODE (triGet d t).cfg = 0
/-- Counter clocks since `t0`. -/
def triTicks (d : Dev) (t : Nat) : Nat := (d.now - (triGet d t).t0) / triClk d t
/-- The count after `k` counter clocks. -/
def triAt (x : TriSt) (k : Nat) : Nat := if x.fall then x.c0 - k else x.c0 + k
def triCount (d : Dev) (t : Nat) : Nat := if (triGet d t).run then triAt (triGet d t) (triTicks d t) else 0
/-- Counter clocks from `t0` to the next return to 0, where the next event is one. -/
def triToStart (d : Dev) (t : Nat) : Option Nat :=
  let x := triGet d t
  if x.above.isSome then x.above
  else if triUp d t then some (x.top + 1 - x.c0)
  else if x.fall then some x.c0
  else none
/-- Counter clocks from `t0` to the centre, where the next event is one. -/
def triToCentre (d : Dev) (t : Nat) : Option Nat :=
  let x := triGet d t
  if triUp d t || x.fall || x.above.isSome then none else some (x.top - x.c0)

/-! Outputs (R156 to R161). -/

inductive Side where
  | none | low | high
deriving DecidableEq, Repr

def legHigh (d : Dev) (t j : Nat) : Bool := bitOf d (TRIAD.LSTAT t j) 1
def legLow (d : Dev) (t j : Nat) : Bool := bitOf d (TRIAD.LSTAT t j) 0
/-- A bound twin member that is not ACTIVE holds the outputs of its RUNNING triads inactive (R452). -/
def twinHold (d : Dev) : Bool :=
  let st := gf d PAIRC.TWSTAT PAIRC.TWSTAT_STATE
  st = 2 || st = 3 || st = 5
def legSet (d : Dev) (t j : Nat) (high on : Bool) : Dev :=
  setBit d (TRIAD.LSTAT t j) (if high then 1 else 0) (on && !twinHold d)

/-- Every output of the RUNNING triads goes inactive (R452). -/
def twinLegsOff (d : Dev) : Dev :=
  forEach (List.range 16) (fun d t =>
    if (triGet d t).run then
      forEach legs (fun d j =>
        legSet (legSet (legPut d t j { legGet d t j with wait := none, low := none }) t j true false) t j false false) d
    else d) d

/-- A dead time in 1/32 count: PERIPH cycles and steps of 52.08 ps (R158). -/
def deadTime (high : Bool) (dt : Word) : Nat :=
  if high then 64 * fget TRIAD.LDT_DTHC dt + fget TRIAD.LDT_DTHF dt
  else 64 * fget TRIAD.LDT_DTLC dt + fget TRIAD.LDT_DTLF dt

/-- The leg is driven towards a side from the instant `at32`: the other side turns off first, the incoming side turns on
after its dead time (R156, R157, R161). -/
def legDrive (d : Dev) (t j : Nat) (goal : Side) (at32 : Nat) : Dev :=
  let x := legGet d t j
  let d := if goal = .high then d else legSet d t j true false
  let d := if goal = .low then d else legSet d t j false false
  let go (high : Bool) : Dev :=
    let on := if high then legHigh d t j else legLow d t j
    let already := match x.wait with | some (h, _) => h == high | none => false
    let dt := deadTime high x.dt
    if on then legPut d t j { x with wait := none }
    else if already then d
    else if dt = 0 then legSet (legPut d t j { x with wait := none }) t j high true
    else legPut d t j { x with wait := some (high, at32 + dt) }
  match goal with
  | .none => legPut d t j { x with wait := none }
  | .low => go false
  | .high => go true

def legSafe (d : Dev) (t j : Nat) : Bool := bitOf d (TRIAD.LSTAT t j) 2

/-- The side that `FORCE` or REF calls for (R154, R160). -/
def legWants (x : LegSt) : Side :=
  match fget TRIAD.LCFG_FORCE x.cfg with
  | 1 => .none
  | 2 => .low
  | 3 => .high
  | _ => if x.ref != decide (fget TRIAD.LCFG_RPOL x.cfg = 1) then .high else .low

/-- A leg outside its safe state, of a triad whose counter runs, follows `FORCE` and REF. -/
def legFollow (d : Dev) (t j : Nat) (at32 : Nat) : Dev :=
  if (triGet d t).run && !(triGet d t).hold && !legSafe d t j then legDrive d t j (legWants (legGet d t j)) at32 else d

/-- The level that the count calls for, with no fine delay (R154, R167). -/
def refLevel (c : Nat) (fall : Bool) (op : Nat) : Bool := if fall then 64 * c ≤ op && op ≠ 0 else decide (64 * c < op)

/-- REF of a leg takes the level of the count `c` at the instant `at32`. -/
def legLevel (c at32 : Nat) (t : Nat) (d : Dev) (j : Nat) : Dev :=
  let x := legGet d t j
  let d := legPut d t j { x with ref := refLevel c (triGet d t).fall x.op }
  legFollow d t j at32

/-- An update point: the settings of R165 apply, and the shadows are copied unless locked (R162). -/
def triUpdate (d : Dev) (t : Nat) (lock : Bool) : Dev :=
  let d := triPut d t { triGet d t with cfg := rd d (TRIAD.TCFG t), imm := false }
  forEach legs (fun d j =>
    let x := legGet d t j
    legPut d t j { x with cfg := rd d (TRIAD.LCFG t j), dt := rd d (TRIAD.LDT t j),
                          op := if lock then x.op else (rd d (TRIAD.LDUTY t j)).toNat }) d

def triLocked (d : Dev) (t : Nat) : Bool := gf d (TRIAD.TLOCK t) TRIAD.TLOCK_LOCK = 1

/-! Safe states (R175 to R180). -/

/-- The levels of a leg's safe state, where its triad's outputs are driven (R151, R175). -/
def legSafeLevels (d : Dev) (t j : Nat) : Dev :=
  let d := legPut d t j { legGet d t j with wait := none }
  if (triGet d t).run then
    match gf d (TRIAD.LCFG t j) TRIAD.LCFG_SAFE with
    | 0 => legSet (legSet (legPut d t j { legGet d t j with low := none }) t j true false) t j false false
    | 1 =>
      let d := legSet d t j true false
      if legLow d t j then d
      else legPut d t j { legGet d t j with
        low := some (32 * edgeAt d 2 (d.now + 1) + deadTime false (legGet d t j).dt) }
    | _ => legPut d t j { legGet d t j with low := none }
  else d

/-- The legs are driven again: safe levels at once, every other leg from its next period start (R464). -/
def twinLegsOn (d : Dev) : Dev :=
  forEach (List.range 16) (fun d t =>
    if (triGet d t).run then
      forEach legs (fun d j => if legSafe d t j then legSafeLevels d t j else d) (triPut d t { triGet d t with hold := true })
    else d) d

/-- A cause (4 trip, 5 loop engine, 6 software, 7 freeze) holds for a leg, which enters its safe state. -/
def legEnter (cause t : Nat) (d : Dev) (j : Nat) : Dev :=
  let was := legSafe d t j
  let d := setBit (setBit (setBit d (TRIAD.LSTAT t j) cause true) (TRIAD.LSTAT t j) 3 false) (TRIAD.LSTAT t j) 2 true
  let x := legGet d t j
  let d := legPut d t j { x with manual := (was && x.manual) || cause ≠ 4 }
  if was then d else bump (triFlag (legSafeLevels d t j) t 3) (TRIAD.TERR t) TRIAD.TERR_SAFE

/-- A cause ends for a leg. -/
def legCauseEnd (cause t : Nat) (d : Dev) (j : Nat) : Dev := setBit d (TRIAD.LSTAT t j) cause false

def legCauses (d : Dev) (t j : Nat) : Nat := gf d (TRIAD.LSTAT t j) TRIAD.LSTAT_CAUSE

/-- All legs of a triad enter their safe state at the next PERIPH edge (the table before R175). DEDUCED: log entry 12. -/
def triSafe (cause : Nat) (d : Dev) (t : Nat) : Dev := forEach legs (legEnter cause t) (advanceTo d (edgeAt d 2 (d.now + 1)))

/-- A leg leaves its safe state at a period start at which no cause holds (R178, R180). -/
def legRelease (t : Nat) (d : Dev) (j : Nat) : Dev :=
  if legSafe d t j && legCauses d t j = 0
      && (bitOf d (TRIAD.LSTAT t j) 3 || (!(legGet d t j).manual && gf d (TRIAD.LCFG t j) TRIAD.LCFG_REL = 1)) then
    let d := setBit (setBit d (TRIAD.LSTAT t j) 2 false) (TRIAD.LSTAT t j) 3 false
    let d := legPut d t j { legGet d t j with low := none, wait := none, manual := false }
    triFlag (legFollow d t j (32 * d.now)) t 2
  else d

/-! Trip lines (R188 to R194). -/

def winState (d : Dev) (w : Nat) : Nat := gf d (RIND.WSTAT w) RIND.WSTAT_STATE
/-- The contribution of a window (R185, R188). -/
def winContrib (d : Dev) (w : Nat) : Bool :=
  winState d w = 2 &&
    (if gf d (RIND.WCFG w) RIND.WCFG_LATCH = 1 then bitOf d (RIND.WSTAT w) 3 || bitOf d (RIND.WSTAT w) 2
     else bitOf d (RIND.WSTAT w) 1 || bitOf d (RIND.WSTAT w) 0)
/-- The local cause of line k, without the import latch (R191). -/
def tripLocal (d : Dev) (k : Nat) : Bool :=
  bitOf d RIND.RILAT (8 + k) || (List.range 48).any (fun w => (gf d (RIND.WCFG w) RIND.WCFG_TMASK).testBit k && winContrib d w)
def tripLine (d : Dev) (k : Nat) : Bool := bitOf d RIND.RILAT k || tripLocal d k
def tripLines (d : Dev) : Nat := (List.range 8).foldl (fun a k => if tripLine d k then a + 2 ^ k else a) 0

/-- A trip line selected by the leg is asserted. -/
def legTripped (d : Dev) (t j : Nat) : Bool := (gf d (TRIAD.LCFG t j) TRIAD.LCFG_TRIPM &&& tripLines d) ≠ 0

/-- A line, a latch or a mask has changed: local causes and trip causes that are over end. -/
def tripRefresh (d : Dev) : Dev :=
  let d := { d with tripLoc := (List.range 8).foldl (fun w k => if tripLocal d k then w else fset ⟨k, k⟩ w 0) d.tripLoc }
  let lines := tripLines d
  forEach (List.range 16) (fun d t => forEach legs (fun d j =>
    if bitOf d (TRIAD.LSTAT t j) 4 && (gf d (TRIAD.LCFG t j) TRIAD.LCFG_TRIPM &&& lines) = 0 then legCauseEnd 4 t d j
    else d) d) d

/-- `WINF` is 1 while any latch is 1. -/
def winfRefresh (d : Dev) : Dev :=
  if (List.range 48).any (fun w => bitOf d (RIND.WSTAT w) 3 || bitOf d (RIND.WSTAT w) 2) then rindFlag d 0
  else setBit d RIND.RSTAT 0 false

/-- A TRIP broadcast with the code of line k, or a drop where no port is up (R191, R194). -/
def tripSend (d : Dev) (k : Nat) : Dev :=
  if (portsUp d).isEmpty then bump (rindFlag d 3) RIND.RDROP RIND.RDROP_CNT
  else
    let code := gf d RIND.RXMAP ⟨3 * k + 2, 3 * k⟩
    bump (rindFlag (broadcast d 2 0 0 (leBytes 4 code)) 2) RIND.RCNT RIND.RCNT_EXP

/-- Line k is asserted: its legs enter their safe state, and a new local cause of an exported line is sent (R189, R191). -/
def tripAssert (d : Dev) (k : Nat) : Dev :=
  if tripLine d k then
    let d := forEach (List.range 16) (fun d t => forEach legs (fun d j =>
      if (gf d (TRIAD.LCFG t j) TRIAD.LCFG_TRIPM).testBit k then legEnter 4 t d j else d) d) d
    if tripLocal d k && !d.tripLoc.getLsbD k then
      let d := { d with tripLoc := fset ⟨k, k⟩ d.tripLoc 1 }
      if bitOf d RIND.RXEXP k then tripSend d k else d
    else d
  else d

def execTripLineAssert (k : Fin 8) (s : State) : Out := clocked s (fun d => tripAssert d k)

/-- The repeats of a full-rate tick (R191). -/
def tripTick (d : Dev) : Dev :=
  forEach (List.range 8) (fun d k => if bitOf d RIND.RXEXP k && tripLocal d k && d.tripLoc.getLsbD k then tripSend d k else d) d

/-- `RSWT` (R190). -/
def writeRswt (d : Dev) (v : Word) : Dev := if gateOpen d 10 then wr d RIND.RILAT (rd d RIND.RILAT ||| ((v &&& 0xFF) <<< 8)) else d

def execRswt (v : Word) (s : State) : Out := clocked s (fun d => writeRswt d v)

/-- A TRIP broadcast of another pip (R193). -/
def tripImport (d : Dev) (code pip : Nat) : Dev :=
  if pip = ownPip d && hasPip d then d
  else
    let m := if code < 4 then gf d RIND.RIMAP0 ⟨8 * code + 7, 8 * code⟩ else gf d RIND.RIMAP1 ⟨8 * (code - 4) + 7, 8 * (code - 4)⟩
    let d := wr d RIND.RILAT (rd d RIND.RILAT ||| BitVec.ofNat 32 m)
    let d := sf (sf d RIND.RLAST RIND.RLAST_CODE code) RIND.RLAST RIND.RLAST_PIP pip
    bump (rindFlag d 1) RIND.RCNT RIND.RCNT_IMP

def execTripImport (code : BitVec 3) (pip : BitVec 9) (s : State) : Out :=
  clocked s (fun d => tripImport d code.toNat pip.toNat)

/-! Windows (R184 to R187). -/

def winGet (d : Dev) (w : Nat) : WinSt := look d.win w {}
def winPut (d : Dev) (w : Nat) (x : WinSt) : Dev := { d with win := store d.win w x {} }

/-- A hold of the filter ends by the time its output changes. -/
def winUnhold (d : Dev) (w : Nat) : Dev :=
  match (winGet d w).hold with
  | some t => winPut (advanceTo d t) w { winGet d w with hold := none }
  | none => d

/-- A filtered output rises: its event, its latch and its count (R184). -/
def winEvent (d : Dev) (w : Nat) (hi : Bool) : Dev :=
  if winState d w = 2 && gf d (RIND.WCFG w) (if hi then RIND.WCFG_HIEN else RIND.WCFG_LOEN) = 1
      && !bitOf d (RIND.WSTAT w) (if hi then 1 else 0) then
    let d := winUnhold d w
    let d := setBit (setBit d (RIND.WSTAT w) (if hi then 1 else 0) true) (RIND.WSTAT w) (if hi then 3 else 2) true
    winfRefresh (bump d (RIND.WCNT w) (if hi then RIND.WCNT_HI else RIND.WCNT_LO))
  else d

def execWindowEvent (w : Fin 48) (hi : Bool) (s : State) : Out := clocked s (fun d => winEvent d w hi)

/-- A filtered output falls: its event ends. -/
def winEventEnd (d : Dev) (w : Nat) (hi : Bool) : Dev :=
  tripRefresh (setBit (winUnhold d w) (RIND.WSTAT w) (if hi then 1 else 0) false)

def execWindowEventEnd (w : Fin 48) (hi : Bool) (s : State) : Out := clocked s (fun d => winEventEnd d w hi)

/-- Latches whose bit in `v` is 1 and whose event is not active are cleared (R186). -/
def winClear (d : Dev) (w : Nat) (v : Word) : Dev :=
  let d := if v.getLsbD 3 && !bitOf d (RIND.WSTAT w) 1 then setBit d (RIND.WSTAT w) 3 false else d
  if v.getLsbD 2 && !bitOf d (RIND.WSTAT w) 0 then setBit d (RIND.WSTAT w) 2 false else d

/-- A write of `WSTAT`: only with `CLR` = 0 does it clear. -/
def writeWstat (d : Dev) (w : Nat) (v : Word) : Dev :=
  if gateOpen d 10 && gf d (RIND.WCFG w) RIND.WCFG_CLR = 0 then tripRefresh (winfRefresh (winClear d w v)) else d

def execWindowLatchClear (w : Fin 48) (v : Word) (s : State) : Out := clocked s (fun d => writeWstat d w v)

/-- The latches with `CLR` = 1 that triad t clears at its period start. -/
def winPeriod (d : Dev) (t : Nat) : Dev :=
  let ws := (List.range 48).filter (fun w => gf d (RIND.WCFG w) RIND.WCFG_CLR = 1 && gf d (RIND.WCFG w) RIND.WCFG_CTRI = t)
  if ws.isEmpty then d else tripRefresh (winfRefresh (forEach ws (fun d w => winClear d w 0xC) d))

def winStart (d : Dev) (w : Nat) : Dev :=
  sf (winPut d w { due := d.now + 3000, hold := none }) (RIND.WSTAT w) RIND.WSTAT_STATE 1

def winStartDone (d : Dev) (w : Nat) : Dev :=
  if winState d w = 1 then sf (advanceTo d (winGet d w).due) (RIND.WSTAT w) RIND.WSTAT_STATE 2 else d

def execWindowStartDone (w : Fin 48) (s : State) : Out := clocked s (fun d => winStartDone d w)

def winStopDone (d : Dev) (w : Nat) : Dev :=
  if winState d w = 3 then
    let d := advanceTo d (winGet d w).due
    if gf d (RIND.WCFG w) RIND.WCFG_EN = 1 then winStart d w else sf d (RIND.WSTAT w) RIND.WSTAT_STATE 0
  else d

def execWindowStopDone (w : Fin 48) (s : State) : Out := clocked s (fun d => winStopDone d w)

/-- The held filter input resumes (R187). -/
def execWindowDacSettled (w : Fin 48) (s : State) : Out := clocked s (fun d => winUnhold d w)

/-- A commit of a window's registers (R187). -/
def winCommit (d : Dev) (w : Nat) : Dev :=
  let c0 := rd d (RIND.WCFG w)
  let t0 := rd d (RIND.WTHR w)
  let d := commitReg (commitReg d (RIND.WCFG w)) (RIND.WTHR w)
  let c1 := rd d (RIND.WCFG w)
  let st := winState d w
  let d := if fget RIND.WCFG_HIEN c1 = 0 then setBit d (RIND.WSTAT w) 1 false else d
  let d := if fget RIND.WCFG_LOEN c1 = 0 then setBit d (RIND.WSTAT w) 0 false else d
  if fget RIND.WCFG_EN c1 = 1 then
    if st = 0 then winStart d w
    else if st = 2 then
      if t0 ≠ rd d (RIND.WTHR w) || fget RIND.WCFG_HYS c0 ≠ fget RIND.WCFG_HYS c1 then
        winPut d w { winGet d w with hold := some (d.now + 600) }
      else if fget RIND.WCFG_WIN c0 ≠ fget RIND.WCFG_WIN c1 || fget RIND.WCFG_PRESC c0 ≠ fget RIND.WCFG_PRESC c1 then
        winPut d w { winGet d w with hold := some (d.now + (fget RIND.WCFG_WIN c1 * (fget RIND.WCFG_PRESC c1 + 1) + 1) / 2) }
      else d
    else d
  else if st = 1 || st = 2 then
    let d := setBit (setBit d (RIND.WSTAT w) 1 false) (RIND.WSTAT w) 0 false
    sf (winPut d w { due := d.now + 600, hold := none }) (RIND.WSTAT w) RIND.WSTAT_STATE 3
  else d

/-- The ticked register of the Rind at an offset: register, writable bits, refused (R199). -/
def rindTicked (o : Nat) (v : Word) : Option (Reg × Word × Bool) :=
  match o with
  | 0x0C => some (RIND.RXEXP, 0xFF, false)
  | 0x10 => some (RIND.RXMAP, 0xFFFFFF, false)
  | 0x14 => some (RIND.RIMAP0, 0xFFFFFFFF, false)
  | 0x18 => some (RIND.RIMAP1, 0xFFFFFFFF, false)
  | _ =>
    if 0x100 ≤ o && o < 0x400 then
      let w := (o - 0x100) / 16
      if o % 16 = 0 then some (RIND.WCFG w, 0xFFFFFFFF, fget RIND.WCFG_WIN v % 2 = 0)
      else if o % 16 = 4 then some (RIND.WTHR w, 0x03FF03FF, false)
      else none
    else none

def writeRindTicked (d : Dev) (addr : Nat) (v : Word) : Dev :=
  let o := addr - 0x40110000
  let o := if 0x800 ≤ o then o - 0x800 else o
  if 0x40110000 ≤ addr && gateOpen d 10 then
    match rindTicked o v with
    | none => d
    | some (r, m, bad) => if bad then rindFlag d 4 else wrPend d r (v &&& m)
  else d

def execRindConfigWrite (addr : Nat) (v : Word) (s : State) : Out := clocked s (fun d => writeRindTicked d addr v)

/-! Events of a triad. -/

/-- A period start now: flags, top, latches, copies, REF and releases (R153, R162, R165, R178, R186). -/
def triPeriodStart (d : Dev) (t : Nat) : Dev :=
  let x := triGet d t
  let d := triPut d t { x with
    t0 := d.now, c0 := 0, fall := false, top := gf d (TRIAD.TPER t) TRIAD.TPER_TOP, hold := false, above := none }
  let d := winPeriod (triFlag (setBit d (TRIAD.TSTAT t) 29 false) t 0) t
  let u := fget TRIAD.TCFG_UPD x.cfg
  let d := if u = 0 || u = 2 || x.imm then triUpdate d t (triLocked d t) else d
  let d := forEach legs (legLevel 0 (32 * d.now) t) d
  forEach legs (legRelease t) d

/-- The stop point: every output goes inactive (R174). -/
def triStopPoint (d : Dev) (t : Nat) : Dev :=
  let d := forEach legs (fun d j =>
    legSet (legSet (legPut d t j { legGet d t j with wait := none, low := none }) t j true false) t j false false) d
  triPut d t { triGet d t with run := false, c0 := 0, fall := false, above := none, due := d.now + 128 }

/-- The counter returns to 0 (R153, R168, R174, R737). -/
def periodStart (d : Dev) (t : Nat) : Dev :=
  let x := triGet d t
  if x.run then
    match triToStart d t with
    | none => d
    | some k =>
      let d := advanceTo d (x.t0 + k * triClk d t)
      if triState d t = 3 then triStopPoint d t
      else triPeriodStart (if x.above.isSome then triFlag d t 5 else d) t
  else d

def execPeriodStart (t : Fin 16) (s : State) : Out := clocked s (fun d => periodStart d t)

/-- An up-down counter reaches its top (R153, R162). -/
def centre (d : Dev) (t : Nat) : Dev :=
  let x := triGet d t
  if x.run then
    match triToCentre d t with
    | none => d
    | some k =>
      let d := advanceTo d (x.t0 + k * triClk d t)
      let d := triPut d t { x with t0 := x.t0 + k * triClk d t, c0 := x.top, fall := true }
      let d := triFlag (setBit d (TRIAD.TSTAT t) 29 true) t 1
      let u := fget TRIAD.TCFG_UPD x.cfg
      let d := if u = 1 || u = 2 || x.imm then triUpdate d t (triLocked d t) else d
      forEach legs (legLevel x.top (32 * d.now) t) d
  else d

def execCentre (t : Fin 16) (s : State) : Out := clocked s (fun d => centre d t)

/-- The interpolated instant of a leg's next REF edge, in 1/32 count (R154, R155). -/
def refEdgeAt (d : Dev) (t j : Nat) : Option Nat :=
  let x := triGet d t
  let l := legGet d t j
  let p := triClk d t / 2
  let last := match x.above with
    | some k => 64 * (x.c0 + k)
    | none => if triUp d t then 64 * (x.top + 1) else 64 * x.top
  if x.fall then
    if !l.ref && 0 < l.op && l.op ≤ 64 * x.c0 then some (32 * x.t0 + (64 * x.c0 - l.op) * p) else none
  else if l.ref && 64 * x.c0 ≤ l.op && l.op < last then some (32 * x.t0 + (l.op - 64 * x.c0) * p)
  else none

/-- The count passes the operating duty: REF changes there (R155, R156). -/
def refEdge (d : Dev) (t j : Nat) : Dev :=
  if (triGet d t).run then
    match refEdgeAt d t j with
    | none => d
    | some e =>
      let d := advanceTo d ((e + 31) / 32)
      let x := legGet d t j
      legFollow (legPut d t j { x with ref := !x.ref }) t j e
  else d

def execRefEdge (t : Fin 16) (j : Fin 3) (s : State) : Out := clocked s (fun d => refEdge d t j)

/-- A side turns on at the end of its dead time (R156). -/
def deadTimeEnd (d : Dev) (t j : Nat) : Dev :=
  let x := legGet d t j
  match x.wait with
  | some (h, e) => legSet (legPut (advanceTo d ((e + 31) / 32)) t j { x with wait := none }) t j h true
  | none => d

def execDeadTimeEnd (t : Fin 16) (j : Fin 3) (s : State) : Out := clocked s (fun d => deadTimeEnd d t j)

/-- The low side of LOWON turns on (R175). -/
def lowonTurnOn (d : Dev) (t j : Nat) : Dev :=
  let x := legGet d t j
  match x.low with
  | some e => legSet (legPut (advanceTo d ((e + 31) / 32)) t j { x with low := none }) t j false true
  | none => d

def execLowonTurnOn (t : Fin 16) (j : Fin 3) (s : State) : Out := clocked s (fun d => lowonTurnOn d t j)

/-- The counter clock at or after now: its number from `t0`. -/
def triNextClk (d : Dev) (t : Nat) : Nat := (d.now - (triGet d t).t0 + triClk d t - 1) / triClk d t

/-- A copy at the counter clock `k`, or at the event that falls on it. -/
def triCopyAt (d : Dev) (t k : Nat) : Dev :=
  let x := triGet d t
  if triToStart d t = some k || triToCentre d t = some k then triPut d t { x with imm := true }
  else
    let d := triUpdate d t (triLocked d t)
    forEach legs (legLevel (triAt x k) (32 * (x.t0 + k * triClk d t)) t) d

/-- Shadows written: in IMMEDIATE mode they are copied at the next counter clock (R162). -/
def triWritten (d : Dev) (t : Nat) : Dev :=
  if (triGet d t).run && fget TRIAD.TCFG_UPD (triGet d t).cfg = 4 then triCopyAt d t (triTicks d t + 1) else d

def writeLduty (d : Dev) (t j : Nat) (v : Word) : Dev :=
  if gateOpen d 11 then triWritten (wr d (TRIAD.LDUTY t j) (v &&& 0x3FFFFF)) t else d

def execLDutyWrite (t : Fin 16) (j : Fin 3) (v : Word) (s : State) : Out := clocked s (fun d => writeLduty d t j v)

/-- The counter is loaded with count and slope at `t0` (R171, R174); a load of 0 counts up, and a count above the top ends
the period at the next counter clock (R737). -/
def triLoad (d : Dev) (t t0 c : Nat) (fall : Bool) : Dev :=
  let f := fall && c ≠ 0
  triPut (setBit d (TRIAD.TSTAT t) 29 f) t { triGet d t with
    t0 := t0, c0 := c, fall := f, above := if (triGet d t).top < c then some 1 else none }

/-- Tick synchronisation at the PERIPH edge of the tick (R171, R172). -/
def triSync (d : Dev) (t : Nat) : Dev :=
  let e := edgeAt d 2 d.now
  let x := triGet d t
  let k := (e - x.t0) / triClk d t
  let c := triAt x k
  let atStart := triToStart d t = some k
  let c := if atStart then 0 else c
  let fall := if atStart then false else x.fall
  let ph := gf d (TRIAD.TPHS t) TRIAD.TPHS_PHASE
  let pd := gf d (TRIAD.TPHS t) TRIAD.TPHS_PDIR = 1 && ph ≠ 0
  if ph = c && pd = fall then (if atStart then d else triPut d t { x with t0 := e, c0 := c })
  else
    let d := bump (triFlag (triLoad d t e ph pd) t 4) (TRIAD.TERR t) TRIAD.TERR_SYNC
    if ph = 0 then
      let d := triPeriodStart d t
      triPut d t { triGet d t with t0 := e }
    else forEach legs (legLevel ph (32 * e) t) d

/-- Cycle 0 of a full-rate tick: synchronisation, and the update point of TICK (R162, R171). DEDUCED: log entry 12. -/
def triTick (d : Dev) (t : Nat) : Dev :=
  if (triGet d t).run then
    let d := if fget TRIAD.TCFG_TSYNC (triGet d t).cfg = 1 then triSync d t else d
    if fget TRIAD.TCFG_UPD (triGet d t).cfg = 3 then triCopyAt d t (triNextClk d t) else d
  else d

/-! Starting, stopping, commands and commits. -/

def triStart (d : Dev) (t : Nat) : Dev := triSetState (triPut d t { due := d.now + 1200 }) t 1

/-- A loop engine bound to the triad asserts its safe request (R217). -/
def triAsked (d : Dev) (t : Nat) : Bool :=
  (List.range 16).any (fun n => bitOf d (LE.LSTAT n) 29 && gf d (LE.LBIND n) LE.LBIND_TRI = t)

/-- RUNNING: the counter takes `PHASE` and `PDIR`, the shadows are copied (R173, R174, R217, R737). -/
def triStartDone (d : Dev) (t : Nat) : Dev :=
  if triState d t = 1 then
    let k := if gf d (TRIAD.TCFG t) TRIAD.TCFG_AALN = 1 then 6 else 2
    let d := advanceTo d (edgeAt d k (max d.now (triGet d t).due))
    let ph := gf d (TRIAD.TPHS t) TRIAD.TPHS_PHASE
    let pd := gf d (TRIAD.TPHS t) TRIAD.TPHS_PDIR = 1
    let d := triPut (triSetState d t 2) t { triGet d t with run := true, top := gf d (TRIAD.TPER t) TRIAD.TPER_TOP }
    let d := triUpdate (triLoad d t d.now ph pd) t false
    let d := forEach legs (fun d j => if legSafe d t j then legSafeLevels d t j else d) d
    let d := if triAsked d t then forEach legs (legEnter 5 t) d else d
    if ph = 0 && !pd then triPeriodStart d t else forEach legs (legLevel ph (32 * d.now) t) d
  else d

def execTriadStartDone (t : Fin 16) (s : State) : Out := clocked s (fun d => triStartDone d t)

/-- 64 PERIPH cycles after the stop point the triad is OFF, or starts again (R174). -/
def triStopDone (d : Dev) (t : Nat) : Dev :=
  if triState d t = 3 && !(triGet d t).run then
    let d := advanceTo d (triGet d t).due
    if gf d (TRIAD.TCTL t) TRIAD.TCTL_EN = 1 then triStart d t
    else releaseClaims (triSetState (triPut d t {}) t 0) (ownTriad t)
  else d

def execTriadStopDone (t : Fin 16) (s : State) : Out := clocked s (fun d => triStopDone d t)

/-- `TCMD.SAFE`. -/
def tcmdSafe (d : Dev) (t : Nat) : Dev :=
  if gateOpen d 11 then triSafe 6 (setBit d (TRIAD.TCMD t) 1 true) t else d

def execTcmdSafe (t : Fin 16) (s : State) : Out := clocked s (fun d => tcmdSafe d t)

/-- `TCMD.RELEASE` (R178, R179). -/
def tcmdRelease (d : Dev) (t : Nat) : Dev :=
  if gateOpen d 11 then
    forEach legs (fun d j =>
      let d := legCauseEnd 6 t d j
      if legSafe d t j && legCauses d t j = 0 then setBit d (TRIAD.LSTAT t j) 3 true else d)
      (setBit d (TRIAD.TCMD t) 1 false)
  else d

def execTcmdRelease (t : Fin 16) (s : State) : Out := clocked s (fun d => tcmdRelease d t)

/-- The ticked register of a triad at an offset: register, writable bits, refused (R166, R198). -/
def triTicked (d : Dev) (t o : Nat) (v : Word) : Option (Reg × Word × Bool) :=
  let cfg := rdPend d (TRIAD.TCFG t)
  let phs := rdPend d (TRIAD.TPHS t)
  let top := fget TRIAD.TPER_TOP (rdPend d (TRIAD.TPER t))
  match o with
  | 0x00 =>
    let u := fget TRIAD.TCFG_UPD v
    let up := fget TRIAD.TCFG_CMODE v = 0
    some (TRIAD.TCFG t, 0x3F31, 5 ≤ u || ((u = 1 || u = 2) && up) || (up && fget TRIAD.TPHS_PDIR phs = 1)
      || (triState d t ≠ 0 && ((v ^^^ rd d (TRIAD.TCFG t)) &&& 0x31) ≠ 0))
  | 0x04 => some (TRIAD.TCTL t, 1, false)
  | 0x08 => some (TRIAD.TPER t, 0xFFFF,
      fget TRIAD.TPER_TOP v < 2 || fget TRIAD.TPER_TOP v < fget TRIAD.TPHS_PHASE phs)
  | 0x0C => some (TRIAD.TPHS t, 0x1FFFF,
      top < fget TRIAD.TPHS_PHASE v || (fget TRIAD.TPHS_PDIR v = 1 && fget TRIAD.TCFG_CMODE cfg = 0))
  | _ =>
    if 0x40 ≤ o && o < 0x70 then
      let j := (o - 0x40) / 16
      if o % 16 = 4 then some (TRIAD.LCFG t j, 0xFFFF0000, fget TRIAD.LCFG_SAFE v = 3)
      else if o % 16 = 8 then some (TRIAD.LDT t j, 0xFFFFFFFF, false)
      else none
    else none

/-- A write to a ticked register of a triad, at its own offset or in the window at + 0x8000 (R198, R201). -/
def writeTriTicked (d : Dev) (addr : Nat) (v : Word) : Dev :=
  let a := addr - 0x40120000
  let a := if 0x8000 ≤ a then a - 0x8000 else a
  if 0x40120000 ≤ addr && a < 16 * 0x400 && gateOpen d 11 then
    let t := a / 0x400
    match triTicked d t (a % 0x400) v with
    | none => d
    | some (r, m, bad) => if bad then triFlag d t 6 else wrPend d r (v &&& m)
  else d

def execTriadConfigWrite (addr : Nat) (v : Word) (s : State) : Out := clocked s (fun d => writeTriTicked d addr v)

/-- The six pins of a triad (R149, R150). -/
def triWant (t : Nat) : List (Nat × Bool) :=
  legs.flatMap (fun j => [(resPin (ballPwmH (3 * t + j)), true), (resPin (ballPwmL (3 * t + j)), true)])

/-- A new top applies at the first counter clock at or after now (R165): below the count of that clock it ends the period at
the clock after (R168), else the counter turns or wraps at it (R169). A return to 0 on that clock takes it by itself. -/
def triSetTop (d : Dev) (t : Nat) : Dev :=
  let x := triGet d t
  let top := gf d (TRIAD.TPER t) TRIAD.TPER_TOP
  let k0 := triTicks d t
  let k := triNextClk d t
  if x.run && triToStart d t ≠ some k then
    triPut d t { x with
      t0 := x.t0 + k0 * triClk d t, c0 := triAt x k0, top := top, above := if top < triAt x k then some (k - k0 + 1) else none }
  else d

/-- What a committed `LCFG` does at once: trip selection and safe levels (R165). DEDUCED: log entry 12. -/
def legCommit (old : Word) (t j : Nat) (d : Dev) : Dev :=
  let new := rd d (TRIAD.LCFG t j)
  let d := if legTripped d t j then (if bitOf d (TRIAD.LSTAT t j) 4 then d else legEnter 4 t d j) else legCauseEnd 4 t d j
  if legSafe d t j && fget TRIAD.LCFG_SAFE old ≠ fget TRIAD.LCFG_SAFE new then legSafeLevels d t j else d

/-- A commit of a triad's registers (R165, R166, R174). -/
def triCommit (d : Dev) (t : Nat) : Dev :=
  let st := triState d t
  if st ≠ 0 && ((rdPend d (TRIAD.TCFG t) ^^^ rd d (TRIAD.TCFG t)) &&& 0x31) ≠ 0 then triFlag d t 6
  else
    let en := fget TRIAD.TCTL_EN (rdPend d (TRIAD.TCTL t))
    let claim := if en = 1 && st = 0 then takeClaims d (ownTriad t) (triWant t) else (d, true)
    if !claim.2 then claim.1
    else
      let top0 := gf d (TRIAD.TPER t) TRIAD.TPER_TOP
      let d := forEach [TRIAD.TCFG t, TRIAD.TCTL t, TRIAD.TPER t, TRIAD.TPHS t, TRIAD.LDT t 0, TRIAD.LDT t 1, TRIAD.LDT t 2]
        commitReg claim.1
      let d := forEach legs (fun d j =>
        let old := rd d (TRIAD.LCFG t j)
        if rdPend d (TRIAD.LCFG t j) = old then d else legCommit old t j (commitReg d (TRIAD.LCFG t j))) d
      let d := if gf d (TRIAD.TCFG t) TRIAD.TCFG_PIMM = 1 && top0 ≠ gf d (TRIAD.TPER t) TRIAD.TPER_TOP then triSetTop d t else d
      if en = 1 then (if st = 0 then triStart d t else d)
      else if st = 2 then triSetState d t 3
      else if st = 1 then releaseClaims (triSetState (triPut d t {}) t 0) (ownTriad t)
      else d

end Sys2Proof.Machine
end

