-- ==== Sys2Proof/Machine/Le.lean ====
section
/-! DEFINITION. The loop engines (R202 to R238, R740, R742). -/

namespace Sys2Proof.Machine

open Sys2Proof

def leGet (d : Dev) (n : Nat) : LeSt := look d.le n {}
def lePut (d : Dev) (n : Nat) (x : LeSt) : Dev := { d with le := store d.le n x {} }
def leState (d : Dev) (n : Nat) : Nat := gf d (LE.LSTAT n) LE.LSTAT_STATE
def leSetState (d : Dev) (n st : Nat) : Dev := sf d (LE.LSTAT n) LE.LSTAT_STATE st
def leFlag (d : Dev) (n b : Nat) : Dev := setFlag d (LE.LSTAT n) b (gf d (LE.LSEL n) LE.LSEL_IE) (112 + n)
def leDrive (d : Dev) (n : Nat) : Bool := gf d (LE.LCTL n) LE.LCTL_DRIVE = 1
def leTri (d : Dev) (n : Nat) : Nat := gf d (LE.LBIND n) LE.LBIND_TRI

/-! Safe requests (R220, R230, R232, R233). -/

def leIntZero (d : Dev) (n : Nat) : Dev := wr (wr d (LE.LINTD n) 0) (LE.LINTQ n) 0

/-- The interface asserts feedback fault (R145). -/
def fbFault (d : Dev) (f : Nat) : Bool := (rd d (FB.FSTAT f) &&& rd d (FB.FSUP f) &&& 0x1FFF) ≠ 0

/-- The safe request acts on the bound triad; for one that is OFF or STARTING it is recorded, and acts once that is RUNNING
(R217). DEDUCED: log entry 11. -/
def leSafeAct (d : Dev) (t : Nat) : Dev :=
  if triState d t < 2 then forEach legs (fun d j => setBit (setBit d (TRIAD.LSTAT t j) 5 true) (TRIAD.LSTAT t j) 3 false) d
  else triSafe 5 d t

/-- The safe request rises (R232). -/
def leSafeRise (d : Dev) (n : Nat) : Dev :=
  let d := leFlag (setBit d (LE.LSTAT n) 29 true) n 1
  leSafeAct (leIntZero (bump d (LE.LERRC n) LE.LERRC_SAFE) n) (leTri d n)

/-- The safe request is withdrawn. -/
def leWithdraw (d : Dev) (n : Nat) : Dev :=
  if bitOf d (LE.LSTAT n) 29 then forEach legs (legCauseEnd 5 (leTri d n)) (setBit d (LE.LSTAT n) 29 false) else d

def leCause (d : Dev) (n : Nat) : Bool := (rd d (LE.LSTAT n) &&& 0x1C000000) ≠ 0

/-- The feedback cause follows the interface, and any cause of a driving engine raises the request. -/
def leRefresh (d : Dev) (n : Nat) : Dev :=
  let cf := gf d (LE.LBIND n) LE.LBIND_ASRC = 0 && fbFault d (gf d (LE.LBIND n) LE.LBIND_FB) && leState d n = 2
  let d := setBit d (LE.LSTAT n) 27 cf
  if leState d n = 2 && leDrive d n && leCause d n && !bitOf d (LE.LSTAT n) 29 then leSafeRise d n else d

/-- An interface's fault rises or ends (R145, R230). -/
def leFbFault (d : Dev) (f : Nat) : Dev :=
  forEach ((List.range 16).filter (fun n => leState d n = 2 && gf d (LE.LBIND n) LE.LBIND_FB = f)) leRefresh d

/-! Slots and sets (R203 to R214). -/

def leRole (cfg : Word) (k : Nat) : Nat := fget ⟨4 * k + 2, 4 * k⟩ cfg
def leSlotByte (cfg : Word) (k : Nat) : Nat := fget ⟨8 * k + 7, 8 * k⟩ cfg
def leSlots : List Nat := [0, 1, 2, 3]
/-- The slot with a role. -/
def leSlotOf (role : Word) (r : Nat) : Option Nat := (leSlots.filter (fun k => leRole role k = r)).head?
/-- Slots of the currents IA, IB, IC. -/
def leCurrents (role : Word) : List Nat := leSlots.filter (fun k => 1 ≤ leRole role k && leRole role k ≤ 3)

/-- round(ω × k × 2^32 ÷ 600,000,000) modulo 2^32 (R214, R738); not finite, its value is free. -/
def angleTerm (d : Dev) (w : Word) (k : Int) : Word × Dev :=
  match fUnpack w with
  | .fin s m e =>
    let i : Int := (if s then -(m : Int) else m) * k * 2 ^ 32
    (ofInt (if 0 ≤ e then roundDiv (i * 2 ^ e.natAbs) 600000000 else roundDiv i (600000000 * 2 ^ e.natAbs)), d)
  | _ => let q := draw d; (Config.freeWord q.1, q.2)

/-- The angle triple at set completion, where it is valid for the set instant (R211, R213). -/
def leTriple (d : Dev) (n : Nat) (ts : Word) : Option (Word × Word × Int) :=
  let aged (a s t : Word) : Option (Word × Word × Int) :=
    let g := sint (ts - t)
    if g.natAbs ≤ gf d (LE.LAGE n) LE.LAGE_AGEMAX then some (a, s, g) else none
  if gf d (LE.LBIND n) LE.LBIND_ASRC = 1 then
    match (leGet d n).sw with
    | some (a, s, t) => if realBad s then none else aged a s t
    | none => none
  else
    let f := gf d (LE.LBIND n) LE.LBIND_FB
    let m := gf d (FB.FCFG f) FB.FCFG_MODE
    if gf d (FB.FSTAT f) FB.FSTAT_STATE = 2 && bitOf d (FB.FSTAT f) 28 then
      aged (rd d (FB.FANG f)) (fbSpd d f) (rd d (if m = 3 || m = 4 then FB.FSTS f else FB.FETS f))
    else none

/-- The engine's active registers. -/
def leCfg (d : Dev) (n : Nat) : Tab Word :=
  d.regs.filter (fun e => decide (0x40140000 + 0x400 * n ≤ e.1) && decide (e.1 < 0x401400A0 + 0x400 * n))
def LeSet.reg (x : LeSet) (r : Reg) : Word := look x.cfg r.addr r.rst

/-- A set starts to be computed now. -/
def leBegin (d : Dev) (n : Nat) (x : LeSet) : Dev := lePut d n { leGet d n with comp := some { x with t0 := d.now } }

/-- A discarded set, for a VOID result, for its spread, or for both (R209, R230). DEDUCED: log entry 11. -/
def leDiscard (d : Dev) (n : Nat) (void skew : Bool) : Dev :=
  let d := if void then leFlag d n 4 else d
  let d := if skew then leFlag d n 5 else d
  let d := bump d (LE.LERRA n) LE.LERRA_DISC
  let k := (leGet d n).disc + 1
  let d := lePut d n { leGet d n with disc := k }
  let m := gf d (LE.LSET n) LE.LSET_DSMAX
  leRefresh (if m ≠ 0 && decide (m ≤ k) then setBit d (LE.LSTAT n) 26 true else d) n

/-- A set is complete: it is discarded, has lost its angle, is computed or waits (R207 to R213, R231). -/
def leComplete (d : Dev) (n : Nat) : Dev :=
  let s := (leGet d n).slots
  let d := lePut d n { leGet d n with slots := [] }
  let role := rd d (LE.LROLE n)
  let used := leSlots.filter (fun k => leRole role k ≠ 0)
  let r (k : Nat) : ResSt := look s k ⟨0, true, 0, 0, false⟩
  let insts := (leCurrents role).map (fun k => (r k).inst)
  let last := insts.foldl max 0
  let skew := last - insts.foldl min last
  let void := used.any (fun k => (r k).void)
  let wide := decide (gf d (LE.LSET n) LE.LSET_SKMAX < skew)
  if void || wide then leDiscard d n void wide
  else
    let ts : Word := BitVec.ofNat 32 (tbAt d last)
    match leTriple d n ts with
    | none =>
      let d := if bitOf d (LE.LSTAT n) 28 then d else bump (setBit d (LE.LSTAT n) 28 true) (LE.LERRC n) LE.LERRC_ALOSS
      leRefresh d n
    | some (a, w, g) =>
      let d := leRefresh (setBit d (LE.LSTAT n) 28 false) n
      if bitOf d (LE.LSTAT n) 27 then d
      else
        let x : LeSet := { slots := s, ts := ts, skew := skew, ang := a, spd := w, age := g, cfg := leCfg d n }
        match (leGet d n).comp, (leGet d n).wait with
        | none, _ => leBegin d n x
        | some _, none => lePut d n { leGet d n with wait := some x }
        | some _, some _ =>
          bump (leFlag (lePut d n { leGet d n with wait := some x, bad := true }) n 6) (LE.LERRA n) LE.LERRA_COLL

/-- A result reaches the slots of engine n that name its entry (R95, R207). -/
def leReceive (entry : Nat) (x : ResSt) (d : Dev) (n : Nat) : Dev :=
  if leState d n = 2 then
    let role := rd d (LE.LROLE n)
    let used := leSlots.filter (fun k => leRole role k ≠ 0)
    let hit := used.filter (fun k => leSlotByte (rd d (LE.LSLOT n)) k = entry)
    if hit.isEmpty then d
    else
      let s := hit.foldl (fun s k => put s k x) (leGet d n).slots
      let d := lePut d n { leGet d n with slots := s }
      if used.all (fun k => (find s k).isSome) then leComplete d n else d
  else d

/-- The crossbar delivers the last result of an entry, 8 FABRIC cycles after it left the pipeline (R95). -/
def xbarDeliver (d : Dev) (n : Nat) (mon : Bool) (i : Nat) : Dev :=
  let key := (if mon then 16 else 0) + i
  match find (adcGet d n).res key with
  | some r =>
    if r.xbar then
      let a := adcGet d n
      let d := advanceTo (adcPut d n { a with res := put a.res key { r with xbar := false } }) (r.out + 8 * fabDiv d)
      forEach (List.range 16) (leReceive ((if mon then 128 else 0) + 16 * n + i) r) d
    else d
  | none => d

def execXbarDeliver (n : Fin 8) (mon : Bool) (i : Fin 16) (s : State) : Out := clocked s (fun d => xbarDeliver d n mon i)

/-! The computation (R215 to R221, R225 to R229, R742). -/

/-- A slot's value: FIX read as REAL, less its offset, times its gain. -/
def leValue (n : Nat) (x : LeSet) (k : Nat) : Word :=
  rMul (rSub (fOfInt (sint (look x.slots k ⟨0, true, 0, 0, false⟩).w) (-31)).1 (x.reg (LE.LOFS n k))) (x.reg (LE.LGN n k))

/-- Clarke (R215). -/
def leClarke (n : Nat) (x : LeSet) : Word × Word :=
  let role := x.reg (LE.LROLE n)
  let v (r : Nat) : Option Word := (leSlotOf role r).map (leValue n x)
  let ia := (v 1).getD 0
  let ib := (v 2).getD 0
  match v 3 with
  | some ic => (rDiv (rSub (rSub (rMul rTwo ia) ib) ic) rThree, rDiv (rSub ib ic) rSqrt3)
  | none => (ia, rDiv (rAdd ia (rMul rTwo ib)) rSqrt3)

def lePoles (n : Nat) (x : LeSet) : Nat := fget LE.LMOTOR_PPM1 (x.reg (LE.LMOTOR n)) + 1

/-- A computation under way ends: a waiting set starts, or STOPPING counts from here. DEDUCED: log entry 11. -/
def leEnd (d : Dev) (n : Nat) : Dev :=
  let s := leGet d n
  match s.wait with
  | some x => leBegin (lePut d n { s with comp := none, wait := none }) n x
  | none => lePut d n { s with comp := none, due := d.now + 16 * fabDiv d }

/-- A set has been computed (R230, R231). -/
def leDone (d : Dev) (n : Nat) : Dev :=
  let d := setBit (lePut d n { leGet d n with disc := 0 }) (LE.LSTAT n) 26 false
  leEnd (bumpWrap (leFlag d n 0) (LE.LSETS n)) n

/-- The end of the Park stage, 27 FABRIC cycles after the set started (R225, R742). -/
def leHookPoint (d : Dev) (n : Nat) : Dev :=
  match (leGet d n).comp with
  | none => d
  | some x =>
    if x.stage = 0 then
      let d := advanceTo d (x.t0 + 27 * fabDiv d)
      let q := angleTerm d x.spd x.age
      let d := q.2
      let the := BitVec.ofNat 32 (lePoles n x) * (x.ang + q.1) + x.reg (LE.LEOFS n)
      let (al, be) := leClarke n x
      let c := rCos the
      let s := rSin the
      let id := rAdd (rMul al c) (rMul be s)
      let iq := rAdd (rMul (fNegate al) s) (rMul be c)
      let d := wr (wr (wr d (LE.LID n) id) (LE.LIQ n) iq) (LE.LTHE n) the
      let d := wr (wr d (LE.LTS n) x.ts) (LE.LSKEW n) (BitVec.ofNat 32 x.skew)
      if fget LE.LCTL_DRIVE (x.reg (LE.LCTL n)) = 0 then leDone d n
      else
        let y := { x with id := id, iq := iq, the := the, hook := d.now }
        if fget LE.LHOOK_HKEN (x.reg (LE.LHOOK n)) = 1 then
          let d := wr (wr d (LE.LHID n) id) (LE.LHIQ n) iq
          let d := sf d (LE.LHSEQ n) LE.LHSEQ_SEQ (gf d (LE.LHSEQ n) LE.LHSEQ_SEQ + 1)
          let d := setBit (setBit d (LE.LHSEQ n) 16 true) (LE.LSTAT n) 25 true
          raise (lePut d n { leGet d n with comp := some { y with stage := 1 } }) (128 + n)
        else lePut d n { leGet d n with comp := some { y with stage := 2, due := x.t0 + 64 * fabDiv d } }
    else d

def execLeHookPoint (n : Fin 16) (s : State) : Out := clocked s (fun d => leHookPoint d n)

/-- The hook wait ends at the instant `t`: the computation goes on in the next FABRIC cycle (R226, R227). -/
def leRelease (d : Dev) (n : Nat) (x : LeSet) (t : Nat) (duties : Option (Word × Word)) : Dev :=
  let d := setBit (setBit d (LE.LHSEQ n) 16 false) (LE.LSTAT n) 25 false
  let due := x.t0 + 65 * fabDiv d + (t - x.hook)
  lePut d n { leGet d n with comp := some { x with stage := 2, due := due, duties := duties } }

def leDeadline (d : Dev) (n : Nat) (x : LeSet) : Nat := x.hook + fget LE.LHOOK_HKDL (x.reg (LE.LHOOK n)) * fabDiv d

/-- No release by the deadline (R227). -/
def leHkmiss (d : Dev) (n : Nat) : Dev :=
  match (leGet d n).comp with
  | some x =>
    if x.stage = 1 then
      let t := leDeadline d n x
      let d := bump (leFlag (advanceTo d t) n 7) (LE.LERRB n) LE.LERRB_HKMISS
      leRelease (lePut d n { leGet d n with bad := true }) n x t none
    else d
  | none => d

def execHkmiss (n : Fin 16) (s : State) : Out := clocked s (fun d => leHkmiss d n)

/-- A `GO` that releases nothing (R228). -/
def leHklate (d : Dev) (n : Nat) : Dev := bump (leFlag d n 8) (LE.LERRB n) LE.LERRB_HKLATE

/-- A write of `LHCMD` (R226, R228). -/
def writeLhcmd (d : Dev) (n : Nat) (v : Word) : Dev :=
  if gateOpen d 13 then
    let d := wr d (LE.LHCMD n) (v &&& 0xFFFF0002)
    if v.getLsbD 0 then
      match (leGet d n).comp with
      | some x =>
        if x.stage ≠ 1 then leHklate d n
        else if leDeadline d n x < d.now then leHklate (leHkmiss d n) n
        else if fget LE.LHCMD_SEQ v = gf d (LE.LHSEQ n) LE.LHSEQ_SEQ then
          leRelease d n x d.now (if v.getLsbD 1 then some (rd d (LE.LHOD n), rd d (LE.LHOQ n)) else none)
        else leHklate d n
      | none => leHklate d n
    else d
  else d

def execGo (n : Fin 16) (v : Word) (s : State) : Out := clocked s (fun d => writeLhcmd d n v)

/-- One PI controller: its output, its new integrator, whether it clamped (R215). -/
def lePi (e kp ki integ ff lim : Word) : Word × Word × Bool :=
  let neg := fNegate lim
  let inew := fMax neg (fMin (rAdd integ (rMul ki e)) lim)
  let u := rAdd (rAdd (rMul kp e) inew) ff
  let hi := fLt lim u
  let u1 := if hi then lim else u
  let i1 := if hi && fLt 0 e then integ else inew
  let lo := fLt u1 neg
  (if lo then neg else u1, if lo && fLt e 0 then integ else i1, hi || lo)

/-- D of a duty in 1/64 counter clock: exact product, ties to even, at most the largest shadow (R216). -/
def leDuty (d : Dev) (v : Word) (top : Nat) : Nat × Dev :=
  match fUnpack v with
  | .fin s m e =>
    if s then (0, d)
    else
      let a := m * top * 64
      let k := if 0 ≤ e then a * 2 ^ e.natAbs
               else
                 let b := 2 ^ e.natAbs
                 let n := a / b
                 let r := a % b
                 if b < 2 * r || (2 * r = b && n % 2 = 1) then n + 1 else n
      (min k 0x3FFFFF, d)
  | _ => let q := draw d; (Config.freeNat q.1 % 0x400000, q.2)

/-- Three shadows of triad t in one FABRIC cycle (R164, R216). -/
def leWriteDuties (d : Dev) (t : Nat) (vs : List Word) : Dev :=
  let top := gf d (TRIAD.TPER t) TRIAD.TPER_TOP + (if gf d (TRIAD.TCFG t) TRIAD.TCFG_CMODE = 0 then 1 else 0)
  let d := forEach vs.zipIdx (fun d e =>
    let q := leDuty d e.1 top
    wr q.2 (TRIAD.LDUTY t e.2) (BitVec.ofNat 32 q.1)) d
  triWritten d t

/-- The end of the computation: PI, limits, transforms, duties (R215 to R219). DEDUCED: log entry 11. -/
def leShadow (d : Dev) (n : Nat) : Dev :=
  match (leGet d n).comp with
  | none => d
  | some x =>
    if x.stage = 2 then
      let d := advanceTo d x.due
      let r := x.reg
      let t := fget LE.LBIND_TRI (r (LE.LBIND n))
      let (id, iq) := x.duties.getD (x.id, x.iq)
      let meas := (leSlotOf (r (LE.LROLE n)) 4).map (leValue n x)
      let vmin := r (LE.LVDCMIN n)
      let d := match meas with | some v => if fLt v vmin then leFlag d n 3 else d | none => d
      let vdc := fMax (meas.getD (r (LE.LVDCN n))) vmin
      let svm := fget LE.LMOTOR_MODM (r (LE.LMOTOR n)) = 1
      let vmax := rMul (r (LE.LMLIM n)) (if svm then rDiv vdc rSqrt3 else rDiv vdc rTwo)
      let hold := x.duties.isSome || legs.any (legSafe d t)
      let pd := lePi (rSub (r (LE.LIDREF n)) id) (r (LE.LKPD n)) (r (LE.LKID n)) (rd d (LE.LINTD n)) (r (LE.LFFD n))
        (rMul (r (LE.LDFRAC n)) vmax)
      let vd := pd.1
      let pq := lePi (rSub (r (LE.LIQREF n)) iq) (r (LE.LKPQ n)) (r (LE.LKIQ n)) (rd d (LE.LINTQ n)) (r (LE.LFFQ n))
        (rSqrt (rSub (rMul vmax vmax) (rMul vd vd)))
      let vq := pq.1
      let d := if hold then d else wr (wr d (LE.LINTD n) pd.2.1) (LE.LINTQ n) pq.2.1
      let q := angleTerm d x.spd (lePoles n x * fget LE.LADV_ADV (r (LE.LADV n)) : Nat)
      let d := q.2
      let tv := x.the + q.1
      let c := rCos tv
      let s := rSin tv
      let val := rSub (rMul vd c) (rMul vq s)
      let vbe := rAdd (rMul vd s) (rMul vq c)
      let h := rMul (rDiv rSqrt3 rTwo) vbe
      let m := rDiv (fNegate val) rTwo
      let v0 := val
      let v1 := rAdd m h
      let v2 := rSub m h
      let z := if svm then rDiv (fNegate (rAdd (fMax (fMax v0 v1) v2) (fMin (fMin v0 v1) v2))) rTwo else 0
      let raw := [v0, v1, v2].map (fun v => rAdd rHalf (rDiv (rAdd v z) vdc))
      let lo := r (LE.LDMIN n)
      let hi := r (LE.LDMAX n)
      let ds := raw.map (fun v => fMax lo (fMin v hi))
      let sat := pd.2.2 || pq.2.2 || raw.any (fun v => fLt v lo || fLt hi v)
      let d := if sat then leFlag d n 2 else d
      let d := wr (wr (wr d (LE.LVD n) vd) (LE.LVQ n) vq) (LE.LVDC n) vdc
      let d := if bitOf d (LE.LSTAT n) 29 then d else leWriteDuties d t ds
      leDone d n
    else d

def execLeShadowWrite (n : Fin 16) (s : State) : Out := clocked s (fun d => leShadow d n)

/-! Register writes. -/

/-- `LCMD.RESUME` (R233). -/
def leResume (d : Dev) (n : Nat) : Dev := if gateOpen d 13 && !leCause d n then leWithdraw d n else d

def execResume (n : Fin 16) (s : State) : Out := clocked s (fun d => leResume d n)

/-- `LCMD.IRST` (R220). -/
def leIrst (d : Dev) (n : Nat) : Dev := if gateOpen d 13 then leIntZero d n else d

def execIrst (n : Fin 16) (s : State) : Out := clocked s (fun d => leIrst d n)

/-- A write to `LSWTS` latches the software triple (R212). -/
def writeLswts (d : Dev) (n : Nat) (v : Word) : Dev :=
  if gateOpen d 13 then
    lePut (wr d (LE.LSWTS n) v) n { leGet d n with sw := some (rd d (LE.LSWANG n), rd d (LE.LSWSPD n), v) }
  else d

def execLswtsWrite (n : Fin 16) (v : Word) (s : State) : Out := clocked s (fun d => writeLswts d n v)

/-- A role set outside R204. -/
def leRolesBad (v : Word) : Bool :=
  let k (r : Nat) : Nat := (leSlots.filter (fun s => leRole v s = r)).length
  leSlots.any (fun s => 5 ≤ leRole v s) || k 1 ≠ 1 || k 2 ≠ 1 || 1 < k 3 || 1 < k 4

/-- The ticked register of an engine at an offset: register, writable bits, refused (R237), in the reference group (R222). -/
def leTicked (n o : Nat) (v : Word) : Option (Reg × Word × Bool × Bool) :=
  let real (r : Reg) (bad : Bool) : Option (Reg × Word × Bool × Bool) := some (r, 0xFFFFFFFF, realBad v || bad, false)
  let ref (r : Reg) : Option (Reg × Word × Bool × Bool) := some (r, 0xFFFFFFFF, realBad v, true)
  let x := realRat v
  let unit : Bool := x < 0 || 1 < x
  match o with
  | 0x00 => some (LE.LCTL n, 3, false, false)
  | 0x04 => some (LE.LBIND n, 0x11F0F, 23 < fget LE.LBIND_FB v, false)
  | 0x08 => some (LE.LROLE n, 0x7777, leRolesBad v, false)
  | 0x0C => some (LE.LSLOT n, 0xFFFFFFFF, false, false)
  | 0x10 => some (LE.LMOTOR n, 0x13F, false, false)
  | 0x14 => some (LE.LEOFS n, 0xFFFFFFFF, false, false)
  | 0x18 => some (LE.LADV n, 0xFFFFF, false, false)
  | 0x1C => some (LE.LAGE n, 0xFFFFFF, fget LE.LAGE_AGEMAX v = 0, false)
  | 0x20 => some (LE.LSET n, 0xFF00FFFF, false, false)
  | 0x24 => some (LE.LHOOK n, 0x80000FFF, fget LE.LHOOK_HKDL v < 8, false)
  | 0x60 => real (LE.LKPD n) (x < 0)
  | 0x64 => real (LE.LKID n) (x < 0)
  | 0x68 => real (LE.LKPQ n) (x < 0)
  | 0x6C => real (LE.LKIQ n) (x < 0)
  | 0x70 => real (LE.LMLIM n) (x < 0 || 11547 / 10000 < x)
  | 0x74 => real (LE.LDFRAC n) unit
  | 0x78 => real (LE.LDMIN n) unit
  | 0x7C => real (LE.LDMAX n) unit
  | 0x80 => real (LE.LVDCN n) false
  | 0x84 => real (LE.LVDCMIN n) (x ≤ 0)
  | 0x90 => ref (LE.LIDREF n)
  | 0x94 => ref (LE.LIQREF n)
  | 0x98 => ref (LE.LFFD n)
  | 0x9C => ref (LE.LFFQ n)
  | _ =>
    if 0x40 ≤ o && o < 0x60 then
      if o % 8 = 0 then real (LE.LOFS n ((o - 0x40) / 8)) false
      else if o % 8 = 4 then real (LE.LGN n ((o - 0x40) / 8)) false
      else none
    else none

/-- A write to a ticked register, at its own offset or in the window at + 0x8000 (R224, R237). -/
def writeLeTicked (d : Dev) (addr : Nat) (v : Word) : Dev :=
  let a := addr - 0x40140000
  let a := if 0x8000 ≤ a then a - 0x8000 else a
  if 0x40140000 ≤ addr && a < 16 * 0x400 && gateOpen d 13 then
    let n := a / 0x400
    match leTicked n (a % 0x400) v with
    | none => d
    | some (r, m, bad, _) => if bad then leFlag d n 9 else wrPend d r (v &&& m)
  else d

def execLeConfigWrite (addr : Nat) (v : Word) (s : State) : Out := clocked s (fun d => writeLeTicked d addr v)

/-! Starting, stopping, commits (R205, R222, R232, R233, R235, R740). -/

def leStart (d : Dev) (n : Nat) : Dev :=
  let d := leIntZero (leSetState (lePut d n { due := d.now + 32 * fabDiv d, bad := (leGet d n).bad }) n 1) n
  setBit (setBit (setBit (setBit d (LE.LHSEQ n) 16 false) (LE.LSTAT n) 25 false) (LE.LSTAT n) 28 false) (LE.LSTAT n) 26 false

def leStartDone (d : Dev) (n : Nat) : Dev :=
  if leState d n = 1 then
    let d := advanceTo d (leGet d n).due
    leRefresh (leSetState (lePut d n { leGet d n with sw := none }) n 2) n
  else d

def execLeStartDone (n : Fin 16) (s : State) : Out := clocked s (fun d => leStartDone d n)

def leOff (d : Dev) (n : Nat) : Dev :=
  releaseClaims (setBit (leSetState (lePut d n { bad := (leGet d n).bad }) n 0) (LE.LSTAT n) 27 false) (ownLe n)

def leStopDone (d : Dev) (n : Nat) : Dev :=
  if leState d n = 3 && (leGet d n).comp.isNone then
    let d := advanceTo d (leGet d n).due
    if gf d (LE.LCTL n) LE.LCTL_EN = 1 then leStart d n else leOff d n
  else d

def execLeStopDone (n : Fin 16) (s : State) : Out := clocked s (fun d => leStopDone d n)

/-- A commit of `EN` = 0 while RUNNING. -/
def leStop (d : Dev) (n : Nat) : Dev :=
  let d := leWithdraw d n
  leSetState (lePut d n { leGet d n with wait := none, slots := [], due := d.now + 16 * fabDiv d }) n 3

/-- The claims of the pending configuration (R205). -/
def leWant (d : Dev) (n : Nat) : List (Nat × Bool) :=
  let role := rdPend d (LE.LROLE n)
  let slot := rdPend d (LE.LSLOT n)
  let entry (k : Nat) : Nat :=
    let b := leSlotByte slot k
    resEntry (decide (128 ≤ b)) (b / 16 % 8) (b % 16)
  (resTriad (fget LE.LBIND_TRI (rdPend d (LE.LBIND n))), true)
    :: (leSlots.filter (fun k => leRole role k ≠ 0)).map (fun k => (entry k, decide (leRole role k ≠ 4)))

def leMainRegs (n : Nat) : List Reg :=
  [LE.LCTL n, LE.LBIND n, LE.LROLE n, LE.LSLOT n, LE.LMOTOR n, LE.LEOFS n, LE.LADV n, LE.LAGE n, LE.LSET n, LE.LHOOK n,
   LE.LOFS n 0, LE.LOFS n 1, LE.LOFS n 2, LE.LOFS n 3, LE.LGN n 0, LE.LGN n 1, LE.LGN n 2, LE.LGN n 3, LE.LKPD n, LE.LKID n,
   LE.LKPQ n, LE.LKIQ n, LE.LMLIM n, LE.LDFRAC n, LE.LDMIN n, LE.LDMAX n, LE.LVDCN n, LE.LVDCMIN n]
def leRefRegs (n : Nat) : List Reg := [LE.LIDREF n, LE.LIQREF n, LE.LFFD n, LE.LFFQ n]

/-- The commit of the settings of group `CGRP`. -/
def leCommitMain (d : Dev) (n : Nat) : Dev :=
  let st := leState d n
  let en := fget LE.LCTL_EN (rdPend d (LE.LCTL n))
  let chg (r : Reg) : Bool := rdPend d r ≠ rd d r
  let sets := chg (LE.LROLE n) || chg (LE.LSLOT n)
  let claim := if en = 1 && (st = 0 || sets || chg (LE.LBIND n)) then takeClaims d (ownLe n) (leWant d n) else (d, true)
  if !claim.2 then claim.1
  else
    let old := leTri d n
    let req := bitOf d (LE.LSTAT n) 29
    let d := forEach (leMainRegs n) commitReg claim.1
    let d := if sets && st ≠ 0 then lePut d n { leGet d n with slots := [], wait := none } else d
    let d := if req && old ≠ leTri d n then leSafeAct (forEach legs (legCauseEnd 5 old) d) (leTri d n) else d
    let d := if leDrive d n then d else leWithdraw d n
    if en = 1 then (if st = 0 then leStart d n else leRefresh d n)
    else if st = 2 then leStop d n
    else if st = 1 then leOff d n
    else d

/-- A commit of groups of an engine: settings, references (R222). -/
def leCommit (d : Dev) (n : Nat) (main ref : Bool) : Dev :=
  let d := if ref then forEach (leRefRegs n) commitReg d else d
  if main then leCommitMain d n else d

/-- The engine has not declared its work done in this tick (R234). -/
def leTick (d : Dev) (n : Nat) : Dev := lePut d n { leGet d n with bad := false }

end Sys2Proof.Machine
end

