-- ==== Sys2Proof/Machine/Feedback.lean ====
section
/-! DEFINITION. The feedback interfaces (R108 to R147). -/

namespace Sys2Proof.Machine

open Sys2Proof

def fbGet (d : Dev) (f : Nat) : FbSt := look d.fb f {}
def fbPut (d : Dev) (f : Nat) (x : FbSt) : Dev := { d with fb := store d.fb f x {} }
def fbState (d : Dev) (f : Nat) : Nat := gf d (FB.FSTAT f) FB.FSTAT_STATE
def fbMode (d : Dev) (f : Nat) : Nat := gf d (FB.FCFG f) FB.FCFG_MODE
def fbInv (d : Dev) (f : Nat) : Bool := gf d (FB.FCFG f) FB.FCFG_INV = 1
def fbCpr (d : Dev) (f : Nat) : Nat := (rd d (FB.FCPR f)).toNat
/-- The SINCOS modes. -/
def fbSc (d : Dev) (f : Nat) : Bool := fbMode d f = 3 || fbMode d f = 4
def fbFlag (d : Dev) (f b : Nat) : Dev := setFlag d (FB.FSTAT f) b (gf d (FB.FSEL f) FB.FSEL_IE) (64 + f)
def fbErr (d : Dev) (f b : Nat) (r : Reg) (c : Fld) : Dev := bump (fbFlag d f b) r c

/-- The fault an enabled flag asserts reaches the loop engine bound to the interface (R145). -/
def fbGuard (d : Dev) (f : Nat) : Dev :=
  if fbFault d f then leFbFault d f else d

/-! Levels and states. -/

/-- The state index of the levels A and B (the table before R113). -/
def quadIndex (sc a b : Bool) : Nat :=
  match a, b with
  | false, false => if sc then 2 else 0
  | true, false => 1
  | true, true => if sc then 0 else 2
  | false, true => 3

def fbA (d : Dev) (f : Nat) : Bool := bitOf d (FB.FSTAT f) 24
def fbB (d : Dev) (f : Nat) : Bool := bitOf d (FB.FSTAT f) 25
def fbZ (d : Dev) (f : Nat) : Bool := bitOf d (FB.FSTAT f) 26

/-- A position in a SINCOS mode: bits [31:12] of the value, then the state index, then 0 (R129). -/
def fbAlign (d : Dev) (f : Nat) (v : Word) : Word :=
  if fbSc d f then
    let i := quadIndex true (fbA d f) (fbB d f)
    let i := if fbInv d f then 3 - i else i
    (v &&& 0xFFFFF000) ||| BitVec.ofNat 32 (1024 * i)
  else v

/-- The sector of a Hall value 4U + 2V + W, forward order (R115). -/
def hallSector (u v w : Bool) : Option Nat :=
  match u, v, w with
  | true, false, false => some 0
  | true, true, false => some 1
  | false, true, false => some 2
  | false, true, true => some 3
  | false, false, true => some 4
  | true, false, true => some 5
  | _, _, _ => none

/-! What one sample does to position, phase, speed, compares and the angle stream. -/

/-- A counting event and what came with it. -/
structure FbEv where
  count : Bool := false
  step : Int := 0
  idx : Bool := false
  ref : Bool := false
  gap : Bool := false
  ssi : Bool := false
  /-- A first SSI reading sets the position (R121). -/
  setPos : Option Word := none
deriving DecidableEq, Repr

/-- `FANG` = floor(PH × 2^32 ÷ FCPR) (R130). -/
def fbAngle (d : Dev) (f : Nat) : Dev :=
  wr d (FB.FANG f) (BitVec.ofNat 32 ((fbGet d f).ph * 2 ^ 32 / fbCpr d f))

/-- The phase moves by a step, modulo `FCPR`. -/
def phMove (ph cpr : Nat) (step : Int) : Nat := (((ph : Int) + step) % (cpr : Int)).toNat

/-- A speed enters `FSPD` `dt` FABRIC cycles from now; those already there settle (R112). -/
def fbSpdPut (d : Dev) (f dt : Nat) (w : Word) : Dev :=
  let x := fbGet d f
  let d := wr d (FB.FSPD f) (fbSpd d f)
  let q := x.spdq.filter (fun e => decide (d.now < e.1))
  if dt = 0 then fbPut (wr d (FB.FSPD f) w) f { x with spdq := q }
  else fbPut d f { x with spdq := (d.now + dt, w) :: q }

/-- A speed in revolutions per second; over no time its value is free (log entry 4). -/
def fbRate (d : Dev) (f : Nat) (steps : Int) (dt : Nat) (lag : Nat) : Dev :=
  if dt * fbCpr d f = 0 then let q := draw d; fbSpdPut q.2 f lag (Config.freeWord q.1)
  else fbSpdPut d f lag (fOfRat (steps * 600000000) (dt * fbCpr d f))

/-- The last of a list. -/
def lastOr {α : Type} (l : List α) (a : α) : α := l.foldl (fun _ b => b) a

/-- The edge history and the speed after a counting edge at instant `t` (R132, R133). -/
def fbSpeed (d : Dev) (f t : Nat) (reversed : Bool) : Dev :=
  let x := fbGet d f
  let n := gf d (FB.FCFG f) FB.FCFG_SPDN + 1
  let h := if reversed then [(x.sum, t)] else ((x.sum, t) :: x.hist).take (n + 1)
  let d := fbPut d f { x with hist := h }
  if gf d (FB.FCFG f) FB.FCFG_SPDM = 0 then
    match h with
    | _ :: _ :: _ => let o := lastOr h (x.sum, t); fbRate d f (sint (x.sum - o.1)) (t - o.2) 12
    | _ => fbSpdPut d f 12 0
  else d

/-- Whether a compare fires for a move from `k0` to `k` (R138). -/
def fbCmpHit (mode : Nat) (fwd : Bool) (k k0 c : Word) : Bool :=
  match mode with
  | 1 => fwd && decide ((k - c).toNat < 2 ^ 31)
  | 2 => !fwd && decide ((c - k).toNat < 2 ^ 31)
  | 3 => if fwd then decide (0 < (c - k0).toNat) && decide ((c - k0).toNat ≤ (k - k0).toNat)
         else decide (0 < (k0 - c).toNat) && decide ((k0 - c).toNat ≤ (k0 - k).toNat)
  | _ => false

/-- The distance of two positions. -/
def posDist (a b : Word) : Nat := (sint (a - b)).natAbs

/-- One compare is evaluated (R138 to R141). -/
def fbCompare (f : Nat) (fwd : Bool) (k k0 : Word) (ts : Nat) (d : Dev) (j : Nat) : Dev :=
  let cfg := rd d (FB.FCMPCFG f j)
  let c := rd d (FB.FCMP f j)
  let mode := fget FB.FCMPCFG_MODE cfg
  let x := fbGet d f
  if bitOf d (FB.FCMPSTAT f) (4 + j) then
    if fbCmpHit mode fwd k k0 c then
      let d := wr d (FB.FCMPTS f j) (BitVec.ofNat 32 ts)
      let d := fbFlag (setBit d (FB.FCMPSTAT f) j true) f 8
      if fget FB.FCMPCFG_AUTO cfg = 1 then
        if mode = 3 then
          fbPut (setBit d (FB.FCMPSTAT f) (4 + j) false) f { x with hold := fset ⟨j, j⟩ x.hold 1 }
        else wr d (FB.FCMP f j) (c + rd d (FB.FCMPINC f j))
      else setBit d (FB.FCMPSTAT f) (4 + j) false
    else d
  else if mode = 3 && fget FB.FCMPCFG_AUTO cfg = 1 && x.hold.getLsbD j && decide (fget FB.FCMPCFG_HYST cfg < posDist k c) then
    fbPut (setBit d (FB.FCMPSTAT f) (4 + j) true) f { x with hold := fset ⟨j, j⟩ x.hold 0 }
  else d

def fbCompares (d : Dev) (f : Nat) (fwd : Bool) (k k0 : Word) (ts : Nat) : Dev :=
  forEach [0, 1, 2, 3] (fbCompare f fwd k k0 ts) d

/-- An angle-stream item is made, or lost where 8 wait (R136, R137). -/
def fbItem (d : Dev) (f ts flags : Nat) : Dev :=
  let x := fbGet d f
  let it : AngItem := ⟨rd d (FB.FPOS f), ts, x.seq, flags⟩
  let seq := (x.seq + 1) % 65536
  if x.items.length < 8 then fbPut d f { x with items := x.items ++ [it], seq := seq }
  else fbErr (fbPut d f { x with seq := seq }) f 9 (FB.FERRC f) FB.FERRC_ASLOST

/-- Steps of the phase check at a reference: half a line in SINCOS+TOOTH, none else (R119, R120). DEDUCED: log entry 10. -/
def fbRefOk (d : Dev) (f : Nat) : Bool :=
  let ph := (fbGet d f).ph
  if fbMode d f = 4 then decide (ph ≤ 2048) || decide (fbCpr d f ≤ ph + 2048) else decide (ph = 0)

/-- The phase after a sample, with reference and index (R119, R130, R131). -/
def fbPhase (d : Dev) (f : Nat) (e : FbEv) : Dev :=
  let x := fbGet d f
  let moved := e.count && !fbSc d f && e.setPos.isNone
  let d := fbPut d f { x with ph := if moved then phMove x.ph (fbCpr d f) e.step else x.ph,
                              since := if e.count then x.since + e.step.natAbs else x.since }
  if e.ref then
    let d := if fbRefOk d f then d else fbErr d f 3 (FB.FERRB f) FB.FERRB_REF
    let d := fbFlag (setBit d (FB.FSTAT f) 28 true) f 2
    fbPut d f { fbGet d f with ph := 0, since := 0 }
  else
    let d := if e.idx && !bitOf d (FB.FSTAT f) 28 then
        fbPut (setBit d (FB.FSTAT f) 28 true) f { fbGet d f with ph := 0 } else d
    if (fbMode d f = 2 || fbMode d f = 4) && decide (fbCpr d f ≤ (fbGet d f).since) then
      fbErr (fbPut d f { fbGet d f with since := (fbGet d f).since - fbCpr d f }) f 3 (FB.FERRB f) FB.FERRB_REF
    else d

/-- The position after a sample: whether it was loaded and wrapped come with it (R127 to R129, R142). -/
def fbPosition (d : Dev) (f : Nat) (e : FbEv) : Dev × Bool × Bool :=
  let before := rd d (FB.FPOS f)
  let cm := gf d (FB.FCFG f) FB.FCFG_CMODE
  let ev := e.idx || e.ref
  let load := ev && (cm = 1 || (cm = 2 && bitOf d (FB.FCMD f) 1))
  let d := if ev then fbFlag d f 7 else d
  if load then
    let d := if cm = 2 then setBit d (FB.FCMD f) 1 false else d
    (wr (wr d (FB.FIDXP f) before) (FB.FPOS f) (fbAlign d f (rd d (FB.FIDXV f))), true, false)
  else
    match e.setPos with
    | some v => (wr d (FB.FPOS f) v, false, false)
    | none =>
      let s : Int := (before.toNat : Int) + e.step
      let d := wr d (FB.FPOS f) (ofInt s)
      if s < 0 then (fbFlag (wr d (FB.FWRAP f) (rd d (FB.FWRAP f) - 1)) f 6, false, true)
      else if 2 ^ 32 ≤ s then (fbFlag (wr d (FB.FWRAP f) (rd d (FB.FWRAP f) + 1)) f 6, false, true)
      else (d, false, false)

/-- Everything one sample does, at instant `t` (R112, R127 to R142). -/
def fbEvent (d : Dev) (f t : Nat) (e : FbEv) : Dev :=
  let before := rd d (FB.FPOS f)
  let ts := tbAt d t
  let x := fbGet d f
  let rev := decide (e.step < 0)
  let marked := e.ref || (e.idx && !bitOf d (FB.FSTAT f) 28)
  let turned := e.count && e.step ≠ 0 && !x.dirU && (rev != bitOf d (FB.FSTAT f) 29) && !x.hist.isEmpty
  let d := if e.count then
      let d := fbPut d f { x with
        sum := x.sum + ofInt e.step, quiet := 0, seen := true, edges := x.edges + 1, dirU := x.dirU && e.step.natAbs != 1 }
      let d := if e.step = 0 then d else setBit d (FB.FSTAT f) 29 rev
      wr (setBit d (FB.FSTAT f) 27 false) (FB.FETS f) (BitVec.ofNat 32 ts)
    else d
  let d := fbPhase d f e
  let q := fbPosition d f e
  let d := q.1
  let x := fbGet d f
  let shift := rd d (FB.FPOS f) - (before + ofInt e.step)
  let d := fbPut d f { x with log := ((t, before, e.count) :: x.log).take 12,
                              phAt := if marked && fbSc d f then rd d (FB.FPOS f) else x.phAt + shift }
  let d := if e.count then fbSpeed d f t turned else d
  let d := if fbSc d f then d else fbAngle d f
  let d := if e.count && !fbSc d f then fbCompares d f (!rev) (rd d (FB.FPOS f)) before ts else d
  let k := gf d (FB.FASCFG f) FB.FASCFG_ASDIV + 1
  let any := e.idx || e.ref || q.2.1 || q.2.2 || e.ssi || (e.count && (fbGet d f).edges % k = 0)
  if gf d (FB.FASCFG f) FB.FASCFG_ASEN = 1 && any then
    fbItem d f ts ((if bitOf d (FB.FSTAT f) 29 then 1 else 0) + (if e.idx || e.ref then 2 else 0) + (if e.gap then 4 else 0)
      + (if q.2.2 then 8 else 0) + (if q.2.1 then 16 else 0) + (if e.ssi then 32 else 0))
  else d

/-! Teeth (R118). -/

/-- A rising edge of the tooth train at instant `t`: the device, whether the tooth counts, whether it is tooth 0, and
whether it ends a gap. -/
def fbTooth (d : Dev) (f t : Nat) : Dev × Bool × Bool × Bool :=
  let x := fbGet d f
  let gap := gf d (FB.FTOOTH f) FB.FTOOTH_TGAP
  let plain (q : Option (Nat × Nat)) : Dev × Bool × Bool × Bool :=
    (fbPut d f { x with tooth := some t, q := q, extra := false }, true, x.extra, false)
  match x.tooth with
  | none => plain x.q
  | some t0 =>
    let p := t - t0
    match x.q with
    | none => plain (some (p, 1))
    | some (n, m) =>
      if gf d (FB.FTOOTH f) FB.FTOOTH_TTYPE = 0 then
        if gf d (FB.FTOOTH f) FB.FTOOTH_THI * n ≤ 16 * p * m then
          (fbPut d f { x with tooth := some t, q := some (p, gap + 1) }, true, true, true)
        else plain (some (p, 1))
      else if 16 * p * m ≤ gf d (FB.FTOOTH f) FB.FTOOTH_TLO * n then
        (fbPut d f { x with extra := true }, false, false, false)
      else plain (some (p, 1))

/-! Pin transitions. -/

def fbSigned (d : Dev) (f : Nat) (s : Int) : Int := if fbInv d f then -s else s

/-- A transition in a quadrature mode (R113, R114, R120); `e0` holds what the Z train adds. -/
def fbQuad (d : Dev) (f t : Nat) (a0 b0 z0 a b z : Bool) (e0 : FbEv) : Dev :=
  let sc := fbSc d f
  let i0 := quadIndex sc a0 b0
  let i1 := quadIndex sc a b
  let g := gf d (FB.FCFG f) FB.FCFG_IGATE
  let bad := (a0 != a) && (b0 != b)
  let d := if bad then fbErr d f 0 (FB.FERRA f) FB.FERRA_INV else d
  let moved := !bad && i0 ≠ i1
  let s : Int := if moved then (if (i0 + 1) % 4 = i1 then 1 else -1) * (if sc then 1024 else 1) else 0
  let idx := fbMode d f ≠ 4 && (if g = 4 then !z0 && z else moved && z && i1 = g)
  let e : FbEv := { e0 with count := moved, step := fbSigned d f s, idx := idx }
  if e.count || e.idx || e.ref then fbEvent d f t e else d

/-- A change of the Hall levels (R115 to R117). -/
def fbHall (d : Dev) (f t : Nat) (a b z : Bool) : Dev :=
  match hallSector a b z with
  | none => fbErr d f 0 (FB.FERRA f) FB.FERRA_INV
  | some s =>
    let x := fbGet d f
    let d := fbPut d f { x with sector := some s }
    match x.sector with
    | none => fbAngle (setBit (fbPut d f { fbGet d f with ph := s % fbCpr d f }) (FB.FSTAT f) 28 true) f
    | some s0 =>
      let go (d : Dev) (k : Int) : Dev := fbEvent d f t { count := true, step := fbSigned d f k }
      let skip (d : Dev) : Dev := fbErr d f 1 (FB.FERRA f) FB.FERRA_SKIP
      match (s + 6 - s0) % 6 with
      | 0 => d
      | 1 => go d 1
      | 2 => go (skip d) 2
      | 3 => fbPut (skip d) f { fbGet (skip d) f with dirU := true }
      | 4 => go (skip d) (-2)
      | _ => go d (-1)

/-- In STARTING of a SINCOS mode the lower bits of the position are taken as found (R129, R144). -/
def fbFound (d : Dev) (f t : Nat) : Dev :=
  let old := rd d (FB.FPOS f)
  let d := wr d (FB.FPOS f) (fbAlign d f old)
  if rd d (FB.FPOS f) = old then d else fbPut d f { fbGet d f with log := ((t, old, false) :: (fbGet d f).log).take 12 }

/-- The qualified levels change (R110 to R118): the time is the qualifying PERIPH edge, `dt` counts on, and the timestamp
F + 3 PERIPH cycles before it. -/
def fbEdge (d : Dev) (f : Nat) (a b z : Bool) (dt : Nat) : Dev :=
  let d := advance d dt
  let d := advanceTo d (edgeAt d 2 d.now)
  let t := d.now - 2 * (gf d (FB.FCFG f) FB.FCFG_FILT + 3)
  let a0 := fbA d f
  let b0 := fbB d f
  let z0 := fbZ d f
  let d := setBit (setBit (setBit d (FB.FSTAT f) 24 a) (FB.FSTAT f) 25 b) (FB.FSTAT f) 26 z
  if fbState d f = 1 && fbSc d f then fbFound d f t
  else if fbState d f = 2 then
    let d := match fbMode d f with
      | 0 => fbQuad d f t a0 b0 z0 a b z {}
      | 3 => fbQuad d f t a0 b0 z0 a b z {}
      | 1 => if a0 = a && b0 = b && z0 = z then d else fbHall d f t a b z
      | 2 =>
        if !a0 && a then
          let q := fbTooth d f t
          if q.2.1 then
            let k : Int := if q.2.2.2 then gf d (FB.FTOOTH f) FB.FTOOTH_TGAP + 1 else 1
            fbEvent q.1 f t { count := true, step := fbSigned d f k, ref := q.2.2.1, gap := q.2.2.2 }
          else q.1
        else d
      | 4 =>
        if !z0 && z then
          let q := fbTooth d f t
          fbQuad q.1 f t a0 b0 z0 a b z { ref := q.2.2.1, gap := q.2.2.2 }
        else fbQuad d f t a0 b0 z0 a b z {}
      | _ => d
    fbGuard d f
  else d

def execFbEdge (f : Fin 24) (a b z : Bool) (dt : Nat) (s : State) : Out := clocked s (fun d => fbEdge d f a b z dt)

/-- `STO` ticks without a counting edge (R135). -/
def fbStill (d : Dev) (f : Nat) : Dev :=
  let sto := gf d (FB.FSUP f) FB.FSUP_STO
  if fbState d f = 2 && sto ≠ 0 && decide (sto ≤ (fbGet d f).quiet) then
    wr (setBit (fbPut d f { fbGet d f with hist := [], spdq := [] }) (FB.FSTAT f) 27 true) (FB.FSPD f) 0
  else d

def execStandstill (f : Fin 24) (s : State) : Out := clocked s (fun d => fbStill d f)

/-! Register writes. -/

/-- A write to `FCMPk` arms compare k (R139). -/
def writeFcmp (d : Dev) (f k : Nat) (v : Word) : Dev :=
  if gateOpen d 12 then
    let x := fbGet d f
    fbPut (setBit (wr d (FB.FCMP f k) v) (FB.FCMPSTAT f) (4 + k) true) f { x with hold := fset ⟨k, k⟩ x.hold 0 }
  else d

def execFcmpWrite (f : Fin 24) (k : Fin 4) (v : Word) (s : State) : Out := clocked s (fun d => writeFcmp d f k v)

/-- A software write of `FPOS` (R129): the phase and the step sum do not follow it. -/
def writeFpos (d : Dev) (f : Nat) (v : Word) : Dev :=
  if gateOpen d 12 then
    let x := fbGet d f
    let old := rd d (FB.FPOS f)
    let d := wr d (FB.FPOS f) (fbAlign d f v)
    fbPut d f { x with phAt := x.phAt + (rd d (FB.FPOS f) - old), log := ((d.now, old, false) :: x.log).take 12 }
  else d

def execFposWrite (f : Fin 24) (v : Word) (s : State) : Out := clocked s (fun d => writeFpos d f v)

/-- `FCMD.IARM` (R128). -/
def fbIarm (d : Dev) (f : Nat) : Dev := if gateOpen d 12 then setBit d (FB.FCMD f) 1 true else d

def execIarm (f : Fin 24) (s : State) : Out := clocked s (fun d => fbIarm d f)

/-! SSI (R121, R122). -/

/-- A trigger of an enabled SSI interface, with the level of A. -/
def fbSsiTrigger (d : Dev) (f : Nat) (aHigh : Bool) : Dev :=
  if fbMode d f = 5 && (fbState d f = 1 || fbState d f = 2) then
    let x := fbGet d f
    if x.ssi ≠ 0 then fbGuard (fbErr d f 10 (FB.FERRC f) FB.FERRC_DROP) f
    else
      let d := advanceTo d (edgeAt d 2 d.now)
      if aHigh then
        let per := 4 * (gf d (FB.FSSI f) FB.FSSI_DIV + 1)
        fbPut d f { x with ssi := 1, ssiT := d.now, ssiDue := d.now + (gf d (FB.FSSI f) FB.FSSI_LEN + 1) * per }
      else fbGuard (fbErr d f 5 (FB.FERRB f) FB.FERRB_SIG) f
  else d

/-- A trigger of the selected source other than software. -/
def fbSsiSource (d : Dev) (f : Nat) (aHigh : Bool) : Dev :=
  let t := gf d (FB.FSSI f) FB.FSSI_TSEL
  if t = 0 || t = 2 then d else fbSsiTrigger d f aHigh

def execSsiTrigger (f : Fin 24) (aHigh : Bool) (s : State) : Out := clocked s (fun d => fbSsiSource d f aHigh)

/-- `FCMD.SWT`: a software trigger at the first PERIPH edge after the write, where the source is software. DEDUCED: log entry
50. -/
def fbSwt (d : Dev) (f : Nat) (aHigh : Bool) : Dev :=
  if gateOpen d 12 && gf d (FB.FSSI f) FB.FSSI_TSEL = 2 then fbSsiTrigger (advance d 1) f aHigh else d

def execSwt (f : Fin 24) (aHigh : Bool) (s : State) : Out := clocked s (fun d => fbSwt d f aHigh)

/-- Binary from Gray code: each bit is the exclusive or of the bits from it up. -/
def grayDecode : Nat → Nat → Nat
  | 0, _ => 0
  | k + 1, v => v ^^^ grayDecode k (v / 2)

/-- `v` modulo 2^len into [−2^(len−1), 2^(len−1)). -/
def wrapSigned (len : Nat) (v : Int) : Int := (v + 2 ^ (len - 1)) % 2 ^ len - 2 ^ (len - 1)

/-- A decoded reading is stored and, while RUNNING, counted (R121, R131). -/
def fbReading (d : Dev) (f : Nat) (v : Nat) (t : Nat) : Dev :=
  let x := fbGet d f
  let d := wr d (FB.FSSID f) (BitVec.ofNat 32 v)
  if fbState d f = 2 then
    let d := fbPut d f { x with last := some v }
    match x.last with
    | none =>
      let d := fbEvent d f t { count := true, ssi := true, setPos := some (BitVec.ofNat 32 v) }
      fbAngle (setBit (fbPut d f { fbGet d f with ph := v % fbCpr d f }) (FB.FSTAT f) 28 true) f
    | some v0 =>
      fbEvent d f t { count := true, ssi := true,
                      step := fbSigned d f (wrapSigned (gf d (FB.FSSI f) FB.FSSI_LEN) ((v : Int) - v0)) }
  else fbPut d f { x with got := true }

/-- The last bit of a reading: it is decoded, or discarded where A stays high, and the wait follows. DEDUCED: log entry 10.
-/
def fbSsiDone (d : Dev) (f : Nat) (raw : Word) (endHigh : Bool) : Dev :=
  let x := fbGet d f
  if x.ssi = 1 then
    let d := advanceTo d x.ssiDue
    let len := gf d (FB.FSSI f) FB.FSSI_LEN
    let v := raw.toNat % 2 ^ len
    let d := fbPut d f { x with ssi := 2, ssiDue := d.now + 600 * gf d (FB.FSSI f) FB.FSSI_MONO }
    fbGuard (if endHigh then fbErr d f 5 (FB.FERRB f) FB.FERRB_SIG
      else fbReading d f (if gf d (FB.FSSI f) FB.FSSI_GRAY = 1 then grayDecode len v else v) x.ssiT) f
  else d

def execSsiReadingDone (f : Fin 24) (raw : Word) (endHigh : Bool) (s : State) : Out :=
  clocked s (fun d => fbSsiDone d f raw endHigh)

/-- The wait after a reading ends. -/
def fbMonoEnd (d : Dev) (f : Nat) : Dev :=
  let x := fbGet d f
  if x.ssi = 2 then fbPut (advanceTo d x.ssiDue) f { x with ssi := 0 } else d

def execSsiMonoEnd (f : Fin 24) (s : State) : Out := clocked s (fun d => fbMonoEnd d f)

/-! Sine and cosine (R123 to R126). -/

/-- floor(4,096 × atan2(s, c) ÷ 2π) mod 4,096, exact on the axes and diagonals; the angle of (0, 0) is free. -/
def fineAngle (d : Dev) (s c : Int) : Nat × Dev :=
  let e (n : Nat) : Nat × Dev := (n, d)
  if s = 0 && c = 0 then let q := draw d; (Config.freeNat q.1 % 4096, q.2)
  else if s = 0 then e (if 0 < c then 0 else 2048)
  else if c = 0 then e (if 0 < s then 1024 else 3072)
  else if s = c then e (if 0 < c then 512 else 2560)
  else if s = -c then e (if 0 < c then 3584 else 1536)
  else
    let z := if 0 < c then vectorAngle atanTable 0 (c * 2 ^ 60) (s * 2 ^ 60) 0
             else vectorAngle atanTable 0 (-c * 2 ^ 60) (-s * 2 ^ 60) 0 + 2 ^ 55
    e ((z / 2 ^ 44) % 4096).toNat

/-- The position as it was just after instant `t`, from the logged changes. -/
def fbPosAt (d : Dev) (f t : Nat) : Word :=
  ((fbGet d f).log.filter (fun e => decide (t < e.1))).foldl (fun _ e => e.2.1) (rd d (FB.FPOS f))

/-- The last result of the entry that a half of `FSC` names: converter, sequence, entry. -/
def fbHalf (d : Dev) (f : Nat) (cv sq en : Fld) : Option ResSt :=
  let w := rd d (FB.FSC f)
  find (adcGet d (fget cv w)).res (16 * fget sq w + fget en w)

/-- An accepted pair: position, instant, phase and compares (R125, R130). DEDUCED: log entry 13. -/
def fbAccept (d : Dev) (f : Nat) (v : Word) (t : Nat) : Dev :=
  let x := fbGet d f
  let old := rd d (FB.FSPOS f)
  let d := wr (wr d (FB.FSPOS f) v) (FB.FSTS f) (BitVec.ofNat 32 (tbAt d t))
  let d := fbPut d f { x with ph := phMove x.ph (fbCpr d f) (sint (v - x.phAt)), phAt := v, got := true }
  let d := fbAngle d f
  let k := sint (v - old)
  if fbState d f = 2 && k ≠ 0 then fbCompares d f (decide (0 < k)) v old (tbAt d t) else d

/-- A pair, 6 FABRIC cycles after its later result left the pipeline. DEDUCED: log entry 13. -/
def fbPair (d : Dev) (f : Nat) : Dev :=
  if fbSc d f && (fbState d f = 1 || fbState d f = 2) then
    match fbHalf d f FB.FSC_SCONV FB.FSC_SSEQ FB.FSC_SENT, fbHalf d f FB.FSC_CCONV FB.FSC_CSEQ FB.FSC_CENT with
    | some a, some b =>
      let x := fbGet d f
      if x.pair = some (a.inst, b.inst) || 96 < max a.inst b.inst - min a.inst b.inst then d
      else
        let d := advanceTo (fbPut d f { x with pair := some (a.inst, b.inst) }) (max a.out b.out + 6 * fabDiv d)
        fbGuard (
          if a.void || b.void then fbFlag d f 11
          else
            let w := rd d (FB.FSCOFS f)
            let s := fbSigned d f (sint a.w / 65536 - fgetS FB.FSCOFS_SOFS w)
            let c := sint b.w / 65536 - fgetS FB.FSCOFS_COFS w
            let t := max a.inst b.inst
            let q := fineAngle d s c
            let d := q.2
            let pos := (fbPosAt d f t).toNat
            let delta : Int := ((q.1 : Int) - 1024 * ((pos / 1024 % 4 : Nat) : Int) + 2048) % 4096 - 2048
            let amp := (s * s + c * c) * 65536
            let lo : Int := 32768 * gf d (FB.FSC f) FB.FSC_AMIN
            let hi : Int := 32768 * gf d (FB.FSC f) FB.FSC_AMAX
            let late := ((fbGet d f).log.filter (fun e => e.2.2 && decide (t < e.1))).length
            if -1024 ≤ delta && lo * lo ≤ amp && amp ≤ hi * hi && decide (late ≤ 4) then
              fbAccept d f (ofInt ((pos / 1024 * 1024 : Nat) + delta)) t
            else fbErr d f 4 (FB.FERRB f) FB.FERRB_SIG) f
    | _, _ => d
  else d

def execSincosPair (f : Fin 24) (s : State) : Out := clocked s (fun d => fbPair d f)

/-! Starting, stopping, commits. -/

def fbStart (d : Dev) (f : Nat) : Dev :=
  let t := edgeAt d 2 d.now
  let d := sf d (FB.FSTAT f) FB.FSTAT_STATE 1
  fbFound (fbPut d f { fbGet d f with due := t + 128, got := false, pair := none, ssi := 0 }) f d.now

/-- RUNNING: the phase and the histories begin (R131, R133, R144). -/
def fbStartDone (d : Dev) (f : Nat) : Dev :=
  let x := fbGet d f
  if fbState d f = 1 && (x.got || !(fbSc d f || fbMode d f = 5)) then
    let d := advanceTo d x.due
    let d := setBit (sf d (FB.FSTAT f) FB.FSTAT_STATE 2) (FB.FSTAT f) 28 false
    let d := wr d (FB.FSPD f) 0
    let hall := if fbMode d f = 1 then hallSector (fbA d f) (fbB d f) (fbZ d f) else none
    let d := fbPut d f { x with
      ph := (hall.getD 0) % fbCpr d f, phAt := if fbSc d f then rd d (FB.FSPOS f) else x.phAt, since := 0, hist := [],
      tooth := none, q := none, extra := false, sector := hall, last := none, edges := 0, quiet := 0, seen := false, dirU := false, tickSum := x.sum, spdq := [] }
    fbAngle (if hall.isSome then setBit d (FB.FSTAT f) 28 true else d) f
  else d

def execFbStartDone (f : Fin 24) (s : State) : Out := clocked s (fun d => fbStartDone d f)

/-- OFF, or a new start, once the items are handed over and a reading has ended (R144). -/
def fbStopDone (d : Dev) (f : Nat) : Dev :=
  let x := fbGet d f
  if fbState d f = 3 && x.items.isEmpty && x.ssi ≠ 1 then
    if gf d (FB.FCTL f) FB.FCTL_EN = 1 then fbStart d f
    else releaseClaims (fbPut (sf d (FB.FSTAT f) FB.FSTAT_STATE 0) f { x with ssi := 0 }) (ownFb f)
  else d

def execFbStopDone (f : Fin 24) (s : State) : Out := clocked s (fun d => fbStopDone d f)

/-- A ticked register at an offset: the register, its writable bits, whether the value is refused (R146). -/
def fbTicked (f o : Nat) (v : Word) : Option (Reg × Word × Bool) :=
  match o with
  | 0x00 =>
    let m := fget FB.FCFG_MODE v
    let c := fget FB.FCFG_CMODE v
    some (FB.FCFG f, 0x0FFFFF07, 6 ≤ m || 5 ≤ fget FB.FCFG_IGATE v || c = 3 || 2 ≤ fget FB.FCFG_SPDM v
      || (c ≠ 0 && (m = 1 || m = 5)))
  | 0x04 => some (FB.FCTL f, 1, false)
  | 0x08 => some (FB.FCPR f, 0xFFFFFFFF, v = 0)
  | 0x0C => some (FB.FIDXV f, 0xFFFFFFFF, false)
  | 0x10 => some (FB.FTOOTH f, 0xFFFF3800, fget FB.FTOOTH_TGAP v = 0)
  | 0x14 => some (FB.FSC f, 0xFFFFFFFF, fget FB.FSC_AMAX v ≤ fget FB.FSC_AMIN v)
  | 0x18 => some (FB.FSCOFS f, 0xFFFFFFFF, false)
  | 0x1C => some (FB.FSSI f, 0xFFFF7FFF, fget FB.FSSI_LEN v < 8 || fget FB.FSSI_DIV v < 14 || fget FB.FSSI_MONO v = 0
      || !tselLegal (fget FB.FSSI_TSEL v))
  | 0x20 => some (FB.FSUP f, 0xFF001FFF, false)
  | 0x24 => some (FB.FASCFG f, 0x800000FF, false)
  | _ =>
    if 0x80 ≤ o && o < 0xC0 then
      if o % 16 = 0 then some (FB.FCMPCFG f ((o - 0x80) / 16), 0x7FF, false)
      else if o % 16 = 8 then some (FB.FCMPINC f ((o - 0x80) / 16), 0xFFFFFFFF, false)
      else none
    else none

/-- A write to a ticked register, at its own offset or in the window at + 0x8000 (R143, R146). -/
def writeFbTicked (d : Dev) (addr : Nat) (v : Word) : Dev :=
  let a := addr - 0x40130000
  let a := if 0x8000 ≤ a then a - 0x8000 else a
  if 0x40130000 ≤ addr && a < 24 * 0x400 && gateOpen d 12 then
    let f := a / 0x400
    match fbTicked f (a % 0x400) v with
    | none => d
    | some (r, m, bad) => if bad then fbGuard (fbFlag d f 12) f else wrPend d r (v &&& m)
  else d

def execFbConfigWrite (addr : Nat) (v : Word) (s : State) : Out := clocked s (fun d => writeFbTicked d addr v)

def fbRegs (f : Nat) : List Reg :=
  [FB.FCFG f, FB.FCTL f, FB.FCPR f, FB.FIDXV f, FB.FTOOTH f, FB.FSC f, FB.FSCOFS f, FB.FSSI f, FB.FSUP f, FB.FASCFG f,
   FB.FCMPCFG f 0, FB.FCMPCFG f 1, FB.FCMPCFG f 2, FB.FCMPCFG f 3, FB.FCMPINC f 0, FB.FCMPINC f 1, FB.FCMPINC f 2,
   FB.FCMPINC f 3]

/-- The claims of the pending configuration: three pins, and in the SINCOS modes both entries (R123, R650). -/
def fbWant (d : Dev) (f : Nat) : List (Nat × Bool) :=
  let m := fget FB.FCFG_MODE (rdPend d (FB.FCFG f))
  let w := rdPend d (FB.FSC f)
  [(resPin (ballFbA f), true), (resPin (ballFbB f), true), (resPin (ballFbZ f), true)] ++
    (if m = 3 || m = 4 then
      [(resEntry (decide (fget FB.FSC_SSEQ w = 1)) (fget FB.FSC_SCONV w) (fget FB.FSC_SENT w), true),
       (resEntry (decide (fget FB.FSC_CSEQ w = 1)) (fget FB.FSC_CCONV w) (fget FB.FSC_CENT w), true)] else [])

/-- A commit of an interface's registers (R144, R652). -/
def fbCommit (d : Dev) (f : Nat) : Dev :=
  let st := fbState d f
  let en := fget FB.FCTL_EN (rdPend d (FB.FCTL f))
  let chg (r : Reg) (m : Word) : Bool := (rdPend d r ^^^ rd d r) &&& m ≠ 0
  let hard := chg (FB.FCFG f) 0x0F800007 || chg (FB.FSC f) 0xFFFFFFFF
  let claim := if en = 1 && (st = 0 || hard) then takeClaims d (ownFb f) (fbWant d f) else (d, true)
  if !claim.2 then claim.1
  else
    let d := forEach (fbRegs f) commitReg claim.1
    let d := fbAngle (fbPut d f { fbGet d f with ph := (fbGet d f).ph % fbCpr d f }) f
    let d := if en = 1 then
        if st = 0 || ((st = 1 || st = 2) && hard) then fbStart d f else d
      else if st = 1 || st = 2 then sf d (FB.FSTAT f) FB.FSTAT_STATE 3
      else d
    fbGuard d f

/-- Cycle 0 of a full-rate tick after a period of `per` counts (R134, R135). -/
def fbTick (per : Nat) (d : Dev) (f : Nat) : Dev :=
  if fbState d f = 2 then
    let x := fbGet d f
    let d := if gf d (FB.FCFG f) FB.FCFG_SPDM = 1 then fbRate d f (sint (x.sum - x.tickSum)) per 0 else d
    fbPut d f { fbGet d f with tickSum := x.sum, quiet := if x.seen then 0 else x.quiet + 1, seen := false }
  else d

end Sys2Proof.Machine
end

