-- ==== Sys2Proof/Machine/Crc.lean ====
section
/-! DEFINITION. Folding bytes into a reflected CRC (R370, R534). -/

namespace Sys2Proof.Machine

open Sys2Proof

/-- The reflected polynomial of a selector: CRC-32C, CRC-32, CRC-16/CCITT (R370, R533). -/
def crcPoly (sel : Nat) : Word :=
  match sel with
  | 0 => 0x82F63B78
  | 1 => 0xEDB88320
  | _ => 0x8408

/-- `k` bits of a value shifted out into the polynomial. -/
def crcShift (p : Word) : Nat → Word → Word
  | 0, v => v
  | k + 1, v => crcShift p k (if v.getLsbD 0 then (v >>> 1) ^^^ p else v >>> 1)

/-- One byte, from its least significant bit. -/
def crcByte (p : Word) (v : Word) (b : Byte) : Word := crcShift p 8 (v ^^^ b.setWidth 32)

/-- Bytes in order; the 16-bit polynomial keeps the upper half 0. -/
def crcFold (sel : Nat) (v : Word) (l : List Byte) : Word :=
  l.foldl (crcByte (crcPoly sel)) (if sel = 2 then v &&& 0xFFFF else v)

end Sys2Proof.Machine
end

