-- ==== Sys2Proof/Machine/Cvu.lean ====
section
/-! DEFINITION. Check-value units (R533 to R547). -/

namespace Sys2Proof.Machine

open Sys2Proof

def cvFlag (d : Dev) (u b : Nat) : Dev := setFlag d (CVU.CVSTAT u) b (gf d (CVU.CVSEL u) CVU.CVSEL_IE) (192 + u)

/-- The guard word: pip, context, sequence (R538). -/
def guardWord (pip ctx seq : Nat) : List Byte := leBytes 2 pip ++ leBytes 2 ctx ++ leBytes 4 seq

/-- Bytes that still wait in a unit's buffer: it folds 8 per FABRIC cycle (R539). -/
def cvBuffered (d : Dev) (u : Nat) : Nat := (look d.cvBusy u 0 - d.now) / fabDiv d * 8

/-- The item as the unit's source and filter take it: its bytes and its guard word (R536, R538). -/
def cvTake (d : Dev) (u : Nat) (it : CvuItem) : Option (List Byte × List Byte) :=
  let cfg := rd d (CVU.CVCFG u)
  let flt := rd d (CVU.CVFILT u)
  let lo := 16 * (rd d (CVU.CVLO u)).toNat
  let hi := 16 * (rd d (CVU.CVHI u)).toNat + 15
  let inside (a : Nat) (l : List Byte) : List Byte :=
    (l.zipIdx.filter (fun e => decide (lo ≤ a + e.2) && decide (a + e.2 ≤ hi))).map (·.1)
  let guard (g : List Byte) : List Byte := if fget CVU.CVCFG_GUARD cfg = 1 then g else []
  let num (l : List Byte) (i k : Nat) : Nat := ofLeBytes ((l.drop i).take k)
  match it with
  | .write ddr a l =>
    if fget CVU.CVCFG_SRC cfg = 1 && decide (fget CVU.CVFILT_SPACE flt = 1) == ddr && !(inside a l).isEmpty
    then some (inside a l, []) else none
  | .curd r l =>
    if fget CVU.CVCFG_SRC cfg = 2 && fget CVU.CVFILT_RING flt = r
    then some (l, guard (guardWord (num l 4 2) (num l 6 2) (num l 8 4))) else none
  | .chain p rx l =>
    if fget CVU.CVCFG_SRC cfg = 3 && fget CVU.CVFILT_PORT flt = p && decide (fget CVU.CVFILT_DIR flt = 1) == rx
        && (fget CVU.CVFILT_CLASS flt).testBit (num l 4 1 % 8)
    then some (l, guard (guardWord (num l 2 2 % 512) (num l 4 1 % 8) (num l 6 2))) else none
  | .flash a l =>
    if fget CVU.CVCFG_SRC cfg = 4 && decide (lo ≤ a) && decide (a ≤ hi) then some (l, []) else none

/-- Bytes folded into the running value. -/
def cvFold (d : Dev) (u : Nat) (l : List Byte) : Dev :=
  wr d (CVU.CVRUN u) (crcFold (gf d (CVU.CVCFG u) CVU.CVCFG_POLY) (rd d (CVU.CVRUN u)) l)

/-- The buffer holds `n` more bytes to fold. -/
def cvLoad (d : Dev) (u n : Nat) : Dev :=
  { d with cvBusy := put d.cvBusy u (max (look d.cvBusy u 0) d.now + (n + 7) / 8 * fabDiv d) }

/-- A RUNNING unit folds an item, or loses it where its buffer lacks room (R536, R539). -/
def cvItem (d : Dev) (u : Nat) (it : CvuItem) : Dev :=
  if gf d (CVU.CVSTAT u) CVU.CVSTAT_STATE = 2 && gateOpen d 15 then
    match cvTake d u it with
    | none => d
    | some (l, g) =>
      if 512 < cvBuffered d u + l.length + g.length then
        bump (cvFlag d u 2) (CVU.CVLOST u) CVU.CVLOST_CNT
      else bumpWrap (cvFold (cvLoad d u (l.length + g.length)) u (g ++ l)) (CVU.CVICNT u)
  else d

def execCvuItemFold (u : Fin 8) (it : CvuItem) (s : State) : Out := clocked s (fun d => cvItem d u it)

/-- A write to `CVRUN` replaces the value and folds the guard word of a span (R538, R540). -/
def writeCvrun (d : Dev) (u : Nat) (v : Word) : Dev :=
  if gateOpen d 15 then
    let d := wr d (CVU.CVRUN u) (if gf d (CVU.CVCFG u) CVU.CVCFG_POLY = 2 then v &&& 0xFFFF else v)
    let src := gf d (CVU.CVCFG u) CVU.CVCFG_SRC
    if gf d (CVU.CVCFG u) CVU.CVCFG_GUARD = 1 && (src = 1 || src = 4) then
      let g := guardWord (ownPip d) (gf d (CVU.CVCTX u) CVU.CVCTX_CTX) (rd d (CVU.CVSEQ u)).toNat
      bumpWrap (cvFold (cvLoad d u 8) u g) (CVU.CVSEQ u)
    else d
  else d

def execCvrunWrite (u : Fin 8) (v : Word) (s : State) : Out := clocked s (fun d => writeCvrun d u v)

/-- `CVRES` (R535). -/
def cvRes (d : Dev) (u : Nat) : Word :=
  let r := rd d (CVU.CVRUN u) ^^^ rd d (CVU.CVXOR u)
  if gf d (CVU.CVCFG u) CVU.CVCFG_POLY = 2 then r &&& 0xFFFF else r

/-- A write to `CVEXP` compares with `CVRES` (R541). -/
def writeCvexp (d : Dev) (u : Nat) (v : Word) : Dev :=
  if gateOpen d 15 then
    let d := wr d (CVU.CVEXP u) v
    if v = cvRes d u then cvFlag d u 0 else cvFlag d u 1
  else d

def execCvexpWrite (u : Fin 8) (v : Word) (s : State) : Out := clocked s (fun d => writeCvexp d u v)

/-- A STOPPING unit is OFF when its buffer is empty, or starts again (R543). -/
def cvStopDone (d : Dev) (u : Nat) : Dev :=
  if gf d (CVU.CVSTAT u) CVU.CVSTAT_STATE = 3 then
    let d := advanceTo d (look d.cvBusy u 0)
    sf d (CVU.CVSTAT u) CVU.CVSTAT_STATE (if gf d (CVU.CVCFG u) CVU.CVCFG_EN = 1 then 2 else 0)
  else d

def execCvuStopDone (u : Fin 8) (s : State) : Out := clocked s (fun d => cvStopDone d u)

/-- The pending word of a unit's register at `o` as it stands with `v` there, or as it stands. -/
def cvWith (d : Dev) (o o' : Nat) (r : Reg) (v : Word) : Word := if o = o' then v else rdPend d r

/-- A ticked write that R546 refuses. -/
def cvBad (d : Dev) (u o : Nat) (v : Word) : Bool :=
  let cfg := cvWith d o 0x00 (CVU.CVCFG u) v
  let flt := cvWith d o 0x04 (CVU.CVFILT u) v
  let src := fget CVU.CVCFG_SRC cfg
  5 ≤ src || fget CVU.CVCFG_POLY cfg = 3
    || ((src = 1 || src = 4) && decide ((cvWith d o 0x0C (CVU.CVHI u) v).toNat < (cvWith d o 0x08 (CVU.CVLO u) v).toNat))
    || (src = 3 && fget CVU.CVFILT_PORT flt = 3)

/-- The ticked register of a unit at an offset. -/
def cvTicked (u o : Nat) : Option (Reg × Word) :=
  match o with
  | 0x00 => some (CVU.CVCFG u, 0xFE000000)
  | 0x04 => some (CVU.CVFILT u, 0x3FE7)
  | 0x08 => some (CVU.CVLO u, 0xFFFFFFFF)
  | 0x0C => some (CVU.CVHI u, 0xFFFFFFFF)
  | _ => none

/-- A write to a ticked register of the block, at its own offset or at + 0x800 (R19, R546). -/
def writeCvuTicked (d : Dev) (addr : Nat) (v : Word) : Dev :=
  let a := addr - 0x40060000
  let a := if 0x800 ≤ a then a - 0x800 else a
  if gateOpen d 15 && decide (a < 0x200) then
    match cvTicked (a / 0x40) (a % 0x40) with
    | none => d
    | some (r, m) => if cvBad d (a / 0x40) (a % 0x40) v then cvFlag d (a / 0x40) 3 else wrPend d r (v &&& m)
  else d

def execCvuConfigWrite (addr : Nat) (v : Word) (s : State) : Out := clocked s (fun d => writeCvuTicked d addr v)

/-- A commit of a unit's registers (R543). -/
def cvCommit (d : Dev) (u : Nat) : Dev :=
  let was := gf d (CVU.CVCFG u) CVU.CVCFG_EN
  let d := forEach [CVU.CVCFG u, CVU.CVFILT u, CVU.CVLO u, CVU.CVHI u] commitReg d
  let en := gf d (CVU.CVCFG u) CVU.CVCFG_EN
  let st := gf d (CVU.CVSTAT u) CVU.CVSTAT_STATE
  if was = 0 && en = 1 && st = 0 then sf d (CVU.CVSTAT u) CVU.CVSTAT_STATE 2
  else if en = 0 && (st = 1 || st = 2) then sf d (CVU.CVSTAT u) CVU.CVSTAT_STATE 3
  else d

/-- The Press borrows a unit for one record: the running value is kept, the guard word and 252 bytes are folded from the
seed, and the value is written back (R306, R542). -/
def cvBorrow (d : Dev) (u : Nat) (seed : Word) (guard : List Byte) (bytes : List Byte) : Dev × Word :=
  let v := crcFold (gf d (CVU.CVCFG u) CVU.CVCFG_POLY) seed (guard ++ bytes)
  let t := max (look d.cvBusy u 0) d.now + 35 * fabDiv d
  ({ d with cvBusy := put d.cvBusy u t, cvBorrow := put d.cvBorrow u t }, v ^^^ rd d (CVU.CVXOR u))

end Sys2Proof.Machine
end

