-- ==== Sys2Proof/Machine/Pout.lean ====
section
/-! DEFINITION. What leaves the Press: the output queue, the Cellar rings and the whey snapshots (R295 to R333). -/

namespace Sys2Proof.Machine

open Sys2Proof

def poutFlag (d : Dev) (b : Nat) : Dev := setFlag d POUT.OSTAT b (gf d POUT.OSEL POUT.OSEL_IE) 58

/-! The output queue (R304, R306, R308, R310). -/

def oqFill (d : Dev) : Nat := (d.oq.map (fun r => r.recs.length)).sum
def oqShow (d : Dev) : Dev := sf d POUT.OQFILL POUT.OQFILL_FILL (oqFill d)

/-- The oldest results are removed until `n` more records fit (R310). -/
def oqRoom (n : Nat) : List OqRes → Dev → Dev
  | [], d => d
  | r :: l, d =>
    if oqFill d + n ≤ 256 then d
    else
      let d := bump (poutFlag { d with oq := l, oqDrop := fset ⟨r.ring, r.ring⟩ d.oqDrop 1 } 3) (POUT.PQOVF r.ring)
        POUT.PQOVF_CNT r.recs.length
      oqRoom n l { d with loss := put d.loss r.ring (look d.loss r.ring 0 + r.recs.length) }

/-- A record of 252 bytes with its DROPPED flag and its check value (R304, R306, R307). -/
def oqRecord (dropped : Bool) (d : Dev) (bytes : List Byte) : Dev × List Byte :=
  let bytes := bytes.zipIdx.map (fun e => if e.2 = 0x0D && dropped then e.1 ||| 2 else e.1)
  if gf d POUT.PRCK POUT.PRCK_EN = 1 then
    let guard := (bytes.drop 4).take 8
    let q := cvBorrow d (gf d POUT.PRCK POUT.PRCK_CVU) (rd d POUT.PRCKSEED) guard bytes
    (q.1, bytes ++ leBytes 4 q.2.toNat)
  else (d, bytes ++ [0, 0, 0, 0])

def oqRecords (dropped : Bool) : Dev → List (List Byte) → Dev × List (List Byte)
  | d, [] => (d, [])
  | d, b :: l =>
    let q := oqRecord dropped d b
    let r := oqRecords dropped q.1 l
    (r.1, q.2 :: r.2)

/-- A result enters the queue, all its records at once (R308, R310). -/
def oqEnter (d : Dev) (ring : Nat) (recs : List (List Byte)) : Dev :=
  let d := oqRoom recs.length d.oq d
  let q := oqRecords (d.oqDrop.getLsbD ring) d recs
  oqShow { q.1 with oq := q.1.oq ++ [⟨ring, q.2⟩], oqDrop := fset ⟨ring, ring⟩ q.1.oqDrop 0 }

/-- The oldest spilled results are removed until `n` more records fit (R312). -/
def spillRoom (n len : Nat) : List SpillRes → Dev → Dev
  | [], d => d
  | r :: l, d =>
    if (d.spill.map SpillRes.n).sum + n ≤ len then d
    else
      let d := bump (poutFlag { d with spill := l } 4) POUT.SPOVF POUT.SPOVF_CNT r.n
      spillRoom n len l { d with loss := put d.loss 8 (look d.loss 8 0 + r.n) }

/-- DDR5 key of a slot of the spill region. -/
def spillKey (d : Dev) (slot : Nat) : Nat :=
  keyDdr (64 * gf d POUT.SPBASE POUT.SPBASE_ADDR + 256 * (slot % gf d POUT.SPLEN POUT.SPLEN_LEN))

/-- The oldest result of the queue moves into the spill region (R311, R312). -/
def spillOne (d : Dev) : Dev :=
  match d.oq with
  | [] => d
  | r :: l =>
    let len := gf d POUT.SPLEN POUT.SPLEN_LEN
    let n := r.recs.length
    let d := spillRoom n len d.spill { d with oq := l }
    let d := if n ≤ len then
        let s := d.spSlot
        let d := forEach r.recs.zipIdx (fun d e => wrBytes d (spillKey d (s + e.2)) e.1) d
        { d with spill := d.spill ++ [⟨r.ring, n, s⟩], spSlot := (s + n) % len }
      else bump (poutFlag d 4) POUT.SPOVF POUT.SPOVF_CNT n
    oqShow (sf d POUT.SPFILL POUT.SPFILL_FILL (d.spill.map SpillRes.n).sum)

/-! The Cellar (R314 to R321). -/

def celOn (d : Dev) (c : Nat) : Bool := gf d (PRESS.LNCFG c) PRESS.LNCFG_CEL = 1
def celSusp (d : Dev) (c : Nat) : Bool := bitOf d (POUT.CELSUSP (c / 32)) (c % 32)
def celFeeds (d : Dev) (c : Nat) : Bool := celOn d c && !celSusp d c
/-- DDR5 address of a ring's header. -/
def celBase (d : Dev) (c : Nat) : Nat := 64 * gf d (POUT.CELBASE c) POUT.CELBASE_ADDR
def celLen (d : Dev) (c : Nat) : Nat := 1024 * gf d (POUT.CELLEN c) POUT.CELLEN_LEN
/-- Lanes whose feeds count in the rate. -/
def celLanes (d : Dev) : List Nat := (List.range 128).filter (celFeeds d)
def celRate (d : Dev) : Rat := ((celLanes d).map (fLane d)).foldl (· + ·) 0
def celLimit : Rat := 6666667
/-- Counts between the samples of a lane (R314). -/
def lanePeriod (d : Dev) (c : Nat) : Nat := 12 * (look d.lane c {}).len * gf d (PRESS.LNCFG c) PRESS.LNCFG_MC

/-- The STATE byte of a ring's header. -/
def celState (d : Dev) (c : Nat) : Dev :=
  wrByte d (keyDdr (celBase d c + 3)) (BitVec.ofNat 8 ((if celFeeds d c then 1 else 0) + (if celSusp d c then 2 else 0)))

/-- Epoch and WIDX of a ring's header (R316). -/
def celHeader (d : Dev) (c : Nat) : Dev :=
  let s := look d.cel c {}
  let e := s.eps.headD ⟨0, 0, 0, 0⟩
  let k := keyDdr (celBase d c)
  let d := wrBytes d (k + 0x10) (leBytes 8 e.idx ++ leBytes 8 e.t0 ++ leBytes 4 e.period ++ leBytes 4 e.no)
  { wrBytes d (k + 8) (leBytes 8 s.count) with cel := put d.cel c { s with shown := s.count } }

/-- The commit of `CEL` = 1: a new header (R317). -/
def celStart (d : Dev) (c : Nat) : Dev :=
  let k := keyDdr (celBase d c)
  let d := wrBytes d k ([0, 1, BitVec.ofNat 8 c, 0] ++ leBytes 4 (celLen d c) ++ leBytes 8 0 ++ leBytes 40 0)
  let d := { d with cel := put d.cel c {}, lane := put d.lane c { look d.lane c {} with ep := 0 } }
  celState d c

/-- 2 MiB granules of a ring (R560). -/
def celGranules (d : Dev) (c : Nat) : List Nat :=
  let a := celBase d c / 2 ^ 21
  let b := (celBase d c + 63 + 4 * celLen d c) / 2 ^ 21
  (List.range (b + 1 - a)).map (· + a)
def granuleReady (d : Dev) (g : Nat) : Bool := look d.bias g 0 = 2

/-- One sample joins the ring (R315, R317): a first sample or a restart begins an epoch. -/
def celPut (d : Dev) (c : Nat) (w : Word) (t : Nat) : Dev :=
  let s := look d.cel c {}
  let l := look d.lane c {}
  let s := if s.eps.isEmpty || l.ep ≠ 0 then
      let no := match s.eps with | [] => l.ep | e :: _ => e.no + l.ep
      { s with eps := ⟨s.count, t, lanePeriod d c, no⟩ :: s.eps } else s
  let d := wrBytes d (keyDdr (celBase d c + 0x40 + 4 * (s.count % celLen d c))) (leBytes 4 w.toNat)
  { d with cel := put d.cel c { s with count := s.count + 1 }, lane := put d.lane c { l with ep := 0 } }

/-- Held outputs are written while their granule is in device bias (R561). -/
def celDrain (c : Nat) : List (Word × Nat) → Dev → Dev
  | [], d => { d with cel := put d.cel c { look d.cel c {} with hold := [] } }
  | (w, t) :: l, d =>
    if granuleReady d ((celBase d c + 0x40 + 4 * ((look d.cel c {}).count % celLen d c)) / 2 ^ 21) then
      celDrain c l (celPut d c w t)
    else { d with cel := put d.cel c { look d.cel c {} with hold := (w, t) :: l } }

/-- A lane output for the ring; a lane that waits for device bias holds up to 256 (R561). -/
def celWrite (d : Dev) (c : Nat) (w : Word) (t : Nat) : Dev :=
  if celFeeds d c && ddrRunning d then
    let h := (look d.cel c {}).hold
    celDrain c (if h.length < 256 then h ++ [(w, t)] else h) d
  else d

/-- A feed is suspended, and resumes with a new epoch (R317, R319, R321). -/
def celSuspend (d : Dev) (c : Nat) : Dev :=
  celState (poutFlag (setBit d (POUT.CELSUSP (c / 32)) (c % 32) true) 5) c
def celResume (d : Dev) (c : Nat) : Dev :=
  let d := setBit d (POUT.CELSUSP (c / 32)) (c % 32) false
  let l := look d.lane c {}
  celState { d with lane := put d.lane c { l with ep := l.ep + 1 } } c

/-- Feeds are suspended from the highest lane until the rate fits (R319). DESIGN CHOICE: log entry 67. -/
def celFit (d : Dev) : Dev :=
  (celLanes d).reverse.foldl (fun d c => if celLimit < celRate d then celSuspend d c else d) d

/-- A suspended feed that fits again resumes (R319, R321). DESIGN CHOICE: log entry 67. -/
def celTryResume (d : Dev) (c : Nat) : Dev :=
  if celOn d c && celSusp d c && ddrRunning d && celRate d + fLane d c ≤ celLimit then celResume d c else d

/-- Headers of the rings that received samples, at a full-rate tick (R316). DESIGN CHOICE: log entry 67. -/
def celTick (d : Dev) : Dev :=
  if ddrRunning d then
    forEach (d.cel.map (·.1)) (fun d c =>
      let s := look d.cel c {}
      if s.count ≠ s.shown && celOn d c then celHeader d c else d) d
  else d

/-- The check a lane's pending `CEL` = 1 fails at its commit (R318, R321). -/
def celRefused (d : Dev) (c : Nat) : Bool :=
  !ddrRunning d || celLimit < celRate d + fLane d c || decide (((celLen d c : Nat) : Rat) < fLane d c)
    || decide (ddrCap d < celBase d c + 64 + 4 * celLen d c)

/-- The ring returns to host bias (R320). -/
def celRelease (d : Dev) (c : Nat) : Dev := { d with bias := d.bias.filter (fun e => !(celGranules d c).contains e.1) }

/-- A commit of a lane's `LNCFG` (R246, R317, R318, R320). -/
def laneCommit (d : Dev) (c : Nat) : Dev :=
  let old := rd d (PRESS.LNCFG c)
  let new := rdPend d (PRESS.LNCFG c)
  if old = new then d
  else
    let was := fget PRESS.LNCFG_CEL old = 1
    let want := fget PRESS.LNCFG_CEL new = 1
    let d := wr d (PRESS.LNCFG c) (fset PRESS.LNCFG_MC old (fget PRESS.LNCFG_MC new))
    let d := if fget PRESS.LNCFG_MC old = fget PRESS.LNCFG_MC new then d else laneRestart d c
    if was = want then { d with pend := del d.pend (PRESS.LNCFG c).addr }
    else if want then
      if celRefused d c then poutFlag (setPend d (PRESS.LNCFG c) new) 1
      else celStart (commitReg d (PRESS.LNCFG c)) c
    else
      let d := setBit (commitReg d (PRESS.LNCFG c)) (POUT.CELSUSP (c / 32)) (c % 32) false
      let d := celState (celHeader d c) c
      let reading := match d.snCopy with | some s => s.lanes.contains c | none => false
      let d := if reading then d else celRelease d c
      { d with cel := put d.cel c { look d.cel c {} with hold := [] } }

/-! Whey snapshots (R322 to R329). -/

/-- A definition is triggered (R322, R326). Triggers of one definition in one cycle make one snapshot, with the source of the
lowest code (R331). -/
def snTrigger (d : Dev) (s src t ctx rseq : Nat) : Dev :=
  if gf d (POUT.SNCFG s) POUT.SNCFG_EN = 1 then
    let same (x : SnapSt) : Bool := decide (x.sdef = s) && decide (x.cyc = d.now)
    if d.snWait.any same then
      { d with snWait := d.snWait.map (fun x =>
          if same x && decide (src < x.src) then { x with src := src, t := t, ctx := ctx, rseq := rseq } else x) }
    else if d.snWait.any (fun x => x.sdef = s) then
      bump { d with snWait := d.snWait.map (fun x => if x.sdef = s then { x with merged := true } else x) }
        POUT.SNMERGE POUT.SNMERGE_CNT
    else if 4 ≤ d.snWait.length then bump (poutFlag d 6) POUT.SNDROP POUT.SNDROP_CNT
    else
      let lanes := (List.range 128).filter (fun c => bitOf d (POUT.SNLANE s (c / 32)) (c % 32))
      { d with snWait := d.snWait ++ [{ sdef := s, src := src, t := t, ctx := ctx, rseq := rseq, tno := tnoLow d, cyc := d.now, lanes := lanes,
                                        pre := 600000 * gf d (POUT.SNWIN s) POUT.SNWIN_PRE,
                                        post := 600000 * gf d (POUT.SNWIN s) POUT.SNWIN_POST }] }
  else d

/-- The schedule source (R322). -/
def snSchedule (d : Dev) (s : Nat) : Dev :=
  let next := rd d (POUT.SNNEXT s)
  if gf d (POUT.SNCFG s) POUT.SNCFG_EN = 1 && gf d (POUT.SNCFG s) POUT.SNCFG_SCHED = 1 && atOrPast (tnoLow d) next then
    snTrigger (wr d (POUT.SNNEXT s) (next + rd d (POUT.SNPER s))) s 1 d.tickts.toNat 0xFFFF 0
  else d

def execSnapshotSchedule (s : Fin 16) (st : State) : Out := clocked st (fun d => snSchedule d s)

/-- The epoch of a ring that contains an instant, and the index its samples end at. -/
def epochOf (t : Nat) : List Epoch → Nat → Option (Epoch × Nat)
  | [], _ => none
  | e :: l, stop =>
    match l with
    | [] => some (e, stop)
    | _ :: _ => if e.t0 ≤ t then some (e, stop) else epochOf t l e.idx

/-- What a lane gives. -/
def snTake (d : Dev) (x : SnapSt) (c : Nat) : Option SnLane :=
  let s := look d.cel c {}
  match epochOf x.t s.eps s.shown with
  | none => none
  | some (e, stop) =>
    let per := max e.period 1
    let lo := x.t - x.pre
    let hi := x.t + x.post
    let k0 := e.idx + (lo - e.t0 + per - 1) / per
    let k1 := min stop (e.idx + (hi - e.t0 + per - 1) / per)
    let kept := s.count - celLen d c
    let f := max k0 kept
    let cut := (decide (lo < e.t0) && decide (e.idx ≠ 0)) || (decide (stop ≠ s.shown) && decide (e.t0 + (stop - e.idx) * per < hi))
    some ⟨c, f, k1 - f, e.period, e.t0 + (f - e.idx) * per, decide (k0 < kept) && decide (k0 < k1), cut⟩

/-- A lane has counted a sample at or past the end of the window, or has stopped feeding (R324). -/
def snReached (d : Dev) (x : SnapSt) (c : Nat) : Bool :=
  let s := look d.cel c {}
  !celFeeds d c || (match s.eps with
    | e :: _ => decide (e.idx < s.shown) && decide (x.t + x.post ≤ e.t0 + (s.shown - 1 - e.idx) * e.period)
    | [] => false)

/-- The lanes of a snapshot and what they give. -/
def snLanes (d : Dev) (x : SnapSt) : List SnLane :=
  (x.lanes.filter (celFeeds d)).filterMap (snTake d x)

/-- Offsets of the sample arrays and the size of the snapshot (R329). -/
def snLayout : Nat → List SnLane → List (SnLane × Nat) × Nat
  | o, [] => ([], o)
  | o, l :: r =>
    let a := up64 o
    let q := snLayout (a + 4 * l.count) r
    ((l, a) :: q.1, q.2)

/-- A snapshot leaves without a descriptor. -/
def snDrop (d : Dev) : Dev := bump (poutFlag d 6) POUT.SNDROP POUT.SNDROP_CNT

/-- The snapshot of a definition is placed and its copy starts (R324 to R327). DEDUCED: log entry 16. DEDUCED: log entry 75.
-/
def snCopyStart (d : Dev) (s : Nat) : Dev :=
  match d.snWait.find? (fun x => x.sdef = s), d.snCopy with
  | some x, none =>
    if x.lanes.all (snReached d x) && ddrRunning d then
      let d := { d with snWait := d.snWait.filter (fun y => y.sdef != s) }
      let ls := snLanes d x
      let size := (snLayout (64 + 32 * ls.length) ls).2
      let room := 64 * gf d POUT.SNLEN POUT.SNLEN_LEN
      let pos := up64 d.snPos
      let off := if room < pos + size then 0 else pos
      let clash := d.snHeld.any (fun e => decide (off < e.2.off + e.2.size) && decide (e.2.off < off + size))
        || d.snReady.any (fun e => decide (off < e.off + e.size) && decide (e.off < off + size))
      if room < size || clash then snDrop d
      else
        let flags := (if ls.any SnLane.clip then 1 else 0) + (if ls.any SnLane.cut then 2 else 0)
          + (if x.lanes.any (fun c => !celFeeds d c) then 4 else 0) + (if x.merged then 8 else 0)
        { d with snCopy := some { x with seq := d.snSeq, off := off, size := size, flags := flags,
                                         lanes := ls.map SnLane.lane, took := ls },
                 snPos := off + size, snSeq := (d.snSeq + 1) % 2 ^ 32 }
    else d
  | _, _ => d

def execSnapshotCopyStart (s : Fin 16) (st : State) : Out := clocked st (fun d => snCopyStart d s)

/-- DDR5 address of a snapshot. -/
def snAddr (d : Dev) (x : SnapSt) : Nat := 64 * gf d POUT.SNBASE POUT.SNBASE_ADDR + x.off

/-- The header and one lane entry (R329). -/
def snHeader (d : Dev) (x : SnapSt) (n : Nat) : List Byte :=
  [0, 1, BitVec.ofNat 8 x.sdef, BitVec.ofNat 8 x.src] ++ leBytes 2 (ownPip d) ++ leBytes 2 x.ctx ++ leBytes 4 x.seq
    ++ leBytes 4 x.flags ++ leBytes 8 x.t ++ leBytes 4 x.size ++ leBytes 2 n ++ leBytes 2 x.rseq ++ leBytes 4 x.tno.toNat
    ++ leBytes 28 0
def snEntry (l : SnLane) (off : Nat) : List Byte :=
  [BitVec.ofNat 8 l.lane, (if l.clip then 1 else 0) + (if l.cut then 2 else 0), 0, 0] ++ leBytes 4 l.count ++ leBytes 8 l.t
    ++ leBytes 4 l.period ++ leBytes 4 off ++ leBytes 8 l.first

/-- The samples of a lane, out of its ring. -/
def celBytes (d : Dev) (c first : Nat) : Nat → List Byte
  | 0 => []
  | n + 1 => rdBytes d (keyDdr (celBase d c + 0x40 + 4 * (first % celLen d c))) 4 ++ celBytes d c (first + 1) n

/-- The copy ends: the bytes are in the region and the descriptor waits for its ring (R328, R329). -/
def snCopyDone (d : Dev) : Dev :=
  match d.snCopy with
  | none => d
  | some x =>
    let lay := (snLayout (64 + 32 * x.took.length) x.took).1
    let base := keyDdr (snAddr d x)
    let d := wrBytes d base (snHeader d x x.took.length ++ lay.flatMap (fun e => snEntry e.1 e.2))
    let d := forEach lay (fun d e => wrBytes d (base + e.2) (celBytes d e.1.lane e.1.first e.1.count)) d
    let d := forEach (x.lanes.filter (fun c => !celOn d c)) celRelease d
    poutFlag { d with snCopy := none, snReady := d.snReady ++ [x] } 7

def execSnapshotCopyDone (st : State) : Out := clocked st snCopyDone

/-- The commit of `DCTL.EN` = 0 (R321). -/
def poutDdrStop (d : Dev) : Dev :=
  let d := forEach (celLanes d) celSuspend d
  match d.snCopy with
  | none => d
  | some _ => snDrop { d with snCopy := none }

/-! Configuration. -/

/-- The ticked register of POUT at an offset: register, writable bits, refused (R332). -/
def poutTicked (d : Dev) (o : Nat) (v : Word) : Option (Reg × Word × Bool) :=
  match o with
  | 0x0C => some (POUT.PRCK, 0x80000007, false)
  | 0x10 => some (POUT.PRCKSEED, 0xFFFFFFFF, false)
  | 0x18 => some (POUT.SPBASE, 0x3FFFFFFF, false)
  | 0x1C => some (POUT.SPLEN, 0xFFFFFF, false)
  | 0x28 => some (POUT.SNBASE, 0x3FFFFFFF, false)
  | 0x2C => some (POUT.SNLEN, 0x3FFFFFFF, false)
  | _ =>
    if 0x100 ≤ o && o < 0x500 then
      let c := (o - 0x100) / 8
      if o % 8 = 0 then some (POUT.CELBASE c, 0x3FFFFFFF, false)
      else if o % 8 = 4 then some (POUT.CELLEN c, 0xFFFFFF, fget POUT.CELLEN_LEN v = 0)
      else none
    else if 0x500 ≤ o && o < 0x700 then
      let s := (o - 0x500) / 32
      match o % 32 with
      | 0 => some (POUT.SNCFG s, 0xE7FF0000, fget POUT.SNCFG_SCHED v = 1 && rdPend d (POUT.SNPER s) = 0)
      | 4 => some (POUT.SNWIN s, 0xFFFFFFFF, fget POUT.SNWIN_PRE v + fget POUT.SNWIN_POST v = 0)
      | 8 => some (POUT.SNPER s, 0xFFFFFFFF, v = 0 && fget POUT.SNCFG_SCHED (rdPend d (POUT.SNCFG s)) = 1)
      | 16 => some (POUT.SNLANE s 0, 0xFFFFFFFF, false)
      | 20 => some (POUT.SNLANE s 1, 0xFFFFFFFF, false)
      | 24 => some (POUT.SNLANE s 2, 0xFFFFFFFF, false)
      | 28 => some (POUT.SNLANE s 3, 0xFFFFFFFF, false)
      | _ => none
    else none

def writePoutTicked (d : Dev) (addr : Nat) (v : Word) : Dev :=
  let o := addr - 0x40210000
  let o := if 0x800 ≤ o then o - 0x800 else o
  if 0x40210000 ≤ addr && gateOpen d 14 then
    match poutTicked d o v with
    | none => d
    | some (r, m, bad) => if bad then poutFlag d 0 else wrPend d r (v &&& m)
  else d

def execPoutConfigWrite (addr : Nat) (v : Word) (s : State) : Out := clocked s (fun d => writePoutTicked d addr v)

/-- A commit of POUT's registers. -/
def poutCommit (d : Dev) : Dev :=
  let d := forEach [POUT.PRCK, POUT.PRCKSEED, POUT.SPBASE, POUT.SPLEN, POUT.SNBASE, POUT.SNLEN] commitReg d
  let d := forEach (List.range 128) (fun d c => commitReg (commitReg d (POUT.CELBASE c)) (POUT.CELLEN c)) d
  forEach (List.range 16) (fun d s =>
    forEach [POUT.SNCFG s, POUT.SNWIN s, POUT.SNPER s, POUT.SNLANE s 0, POUT.SNLANE s 1, POUT.SNLANE s 2, POUT.SNLANE s 3]
      commitReg d) d

end Sys2Proof.Machine
end

