-- ==== Sys2Proof/Machine/PressJob.lean ====
section
/-! DEFINITION. The block section of the Press: windows, spectra, averages, features, alarms, records, and the jobs with
their deadlines and shedding (R264 to R288, R295 to R307). -/

namespace Sys2Proof.Machine

open Sys2Proof

/-! A job's configuration: the context's words at its release (R253). -/

def jf (cfg : Tab Word) (r : Reg) (f : Fld) : Nat := fget f (look cfg r.addr r.rst)
def jcpath (cfg : Tab Word) (c : Nat) : Word := look cfg (CTX.CPATH c).addr (CTX.CPATH c).rst
def ctxCfg (d : Dev) (c : Nat) : Tab Word :=
  d.regs.filter (fun e => decide (0x40280000 + 0x200 * c ≤ e.1) && decide (e.1 < 0x40280100 + 0x200 * c))
def blkLen (cpath : Word) : Nat := 2 ^ (fget CTX.CPATH_BLOG cpath + 8)
/-- The last reported line K (R266). -/
def lastLine (n : Nat) : Nat := 25 * n / 64

/-! Sums. -/

/-- Neighbours added. -/
def pairUp : List Word → List Word
  | a :: b :: l => rAdd a b :: pairUp l
  | l => l
def pairIter : Nat → List Word → Word
  | 0, l => l.headD 0
  | k + 1, l => pairIter k (pairUp l)
/-- Pairwise summation in binary32 (R272). DESIGN CHOICE: log entry 15. -/
def pairSum (l : List Word) : Word := pairIter 17 l
/-- The number `n` as REAL. -/
def rNat (n : Nat) : Word := fOfRat n 1
def rMean (l : List Word) : Word := if l.isEmpty then 0 else rDiv (pairSum l) (rNat l.length)
def rAbs (w : Word) : Word := w &&& 0x7FFFFFFF
def rSq (w : Word) : Word := rMul w w
def qNaN : Word := 0x7FC00000
def isNaN (w : Word) : Bool := rAbs w > 0x7F800000

/-! Windows and spectra (R265, R266). -/

/-- Cosine of `2π·m/n`, for `n` a power of two up to 2^16. -/
def cosTurn (m n : Nat) : Word := rCos (BitVec.ofNat 32 (m % n * (2 ^ 32 / n)))
def sinTurn (m n : Nat) : Word := rSin (BitVec.ofNat 32 (m % n * (2 ^ 32 / n)))

def window (win n i : Nat) : Word :=
  let c (k : Nat) : Word := cosTurn (k * i) n
  let q (num den : Nat) (k : Nat) : Word := rMul (fOfRat num den) (c k)
  match win with
  | 0 => rOne
  | 1 => rSub rHalf (rMul rHalf (c 1))
  | 2 => rAdd (rSub (rAdd (rSub (fOfRat 21557895 (10 ^ 8)) (q 41663158 (10 ^ 8) 1)) (q 277263158 (10 ^ 9) 2)) (q 83578947 (10 ^ 9) 3))
      (q 6947368 (10 ^ 9) 4)
  | _ => rSub (rAdd (rSub (fOfRat 35875 (10 ^ 5)) (q 48829 (10 ^ 5) 1)) (q 14128 (10 ^ 5) 2)) (q 1168 (10 ^ 5) 3)

/-- ENBW of a window, in lines. -/
def enbw (win : Nat) : Word :=
  match win with
  | 0 => rOne
  | 1 => fOfRat 3 2
  | 2 => fOfRat 377 100
  | _ => fOfRat 2004 1000

/-- Line `k` of the windowed, transformed block. -/
def dftLine (xs : List Word) (n k : Nat) : Word × Word :=
  (pairSum (xs.zipIdx.map (fun e => rMul e.1 (cosTurn (k * e.2) n))),
   fNegate (pairSum (xs.zipIdx.map (fun e => rMul e.1 (sinTurn (k * e.2) n)))))

/-- Power of a line from its complex value and Σw. -/
def linePower (n k : Nat) (x : Word × Word) (sw : Word) : Word :=
  let a := rDiv (rSqrt (rAdd (rSq x.1) (rSq x.2))) sw
  if k = 0 then rSq a
  else
    let a := if 2 * k = n then a else rMul rTwo a
    rDiv (rSq a) rTwo

/-- Powers and complex values of lines 0 to N/2. -/
def spectrum (win : Nat) (xs : List Word) : List Word × List Word × List Word :=
  let n := xs.length
  let w := (List.range n).map (window win n)
  let sw := pairSum w
  let ys := (xs.zip w).map (fun e => rMul e.1 e.2)
  let ls := (List.range (n / 2 + 1)).map (dftLine ys n)
  (ls.zipIdx.map (fun e => linePower n e.2 e.1 sw), ls.map (·.1), ls.map (·.2))

/-! Time features (R272). -/

/-- Mean square, peak, peak-to-peak and kurtosis of a block. -/
def timeFeatures (ac : Bool) (xs : List Word) : Word × Word × Word × Word :=
  let mu := rMean xs
  let ds := xs.map (fun x => rSub x mu)
  let es := if ac then ds else xs
  let var := rMean (ds.map rSq)
  let kurt := if rAbs var = 0 then 0 else rDiv (rMean (ds.map (fun x => rSq (rSq x)))) (rSq var)
  let hi := xs.foldl fMax (xs.headD 0)
  let lo := xs.foldl fMin (xs.headD 0)
  (rMean (es.map rSq), (es.map rAbs).foldl fMax 0, rSub hi lo, kurt)

/-! Averages (R267). -/

/-- One average against one new list: `i` computed blocks with this one, `a` the record's A. -/
def avgStep (mode i a : Nat) (old new : List Word) : List Word :=
  if i ≤ 1 then new
  else match mode with
    | 0 => (old.zip new).map (fun e => rAdd e.1 e.2)
    | 1 => (old.zip new).map (fun e => rAdd e.1 (rDiv (rSub e.2 e.1) (rNat (min i a))))
    | _ => (old.zip new).map (fun e => fMax e.1 e.2)

/-- The average as read: linear keeps sums. -/
def avgRead (mode i : Nat) (l : List Word) : List Word :=
  if mode = 0 && 1 < i then l.map (fun w => rDiv w (rNat i)) else l

/-- A computed block joins the average of its context. -/
def avgAdd (a : AvgSt) (j : Job) : AvgSt :=
  let cp := jcpath j.cfg j.ctx
  let mode := fget CTX.CPATH_AVGM cp
  let n := jf j.cfg (CTX.CAVG j.ctx) CTX.CAVG_AVGN + 1
  let xs := j.smp.map Sample.x
  let tf := timeFeatures (fget CTX.CPATH_ACRMS cp = 1) xs
  let sp := spectrum (fget CTX.CPATH_WIN cp) xs
  let i := a.inAvg + 1
  let cplx (old new : List Word) : List Word := if mode = 2 then new else avgStep mode i n old new
  { a with pos := a.pos + 1, comp := a.comp + 1, inAvg := i,
           pw := avgStep mode i n a.pw sp.1, xre := cplx a.xre sp.2.1, xim := cplx a.xim sp.2.2,
           ms := a.ms ++ [tf.1], kurt := a.kurt ++ [tf.2.2.2], pk := fMax a.pk tf.2.1, pp := fMax a.pp tf.2.2.1,
           spd := a.spd ++ [j.spd], pat := a.pat + j.pat, voi := a.voi + j.voi, gaps := a.gaps + (if j.gap then 1 else 0),
           noref := a.noref || j.noref, late := a.late + (if j.late then 1 else 0),
           t0 := some (a.t0.getD ((j.smp.headD ⟨0, 0, 0, false, false⟩).t / 16)),
           t1 := (j.smp.getLastD ⟨0, 0, 0, false, false⟩).t / 16 }

/-- A shed block counts in the set of its record (R277, R285). -/
def avgShed (a : AvgSt) (j : Job) : AvgSt :=
  let t := (j.smp.headD ⟨0, 0, 0, false, false⟩).t / 16
  { a with pos := a.pos + 1, shed := a.shed + 1, late := a.late + (if j.late then 1 else 0), t0 := some (a.t0.getD t),
           t1 := if a.comp = 0 then t else a.t1 }

/-- What remains after a record: a linear or peak-hold average restarts. -/
def avgNext (mode : Nat) (a : AvgSt) : AvgSt :=
  if mode = 1 then { inAvg := a.inAvg, pw := a.pw, xre := a.xre, xim := a.xim } else {}

/-! Features of a record (R273 to R276). -/

/-- The values of a record: the time features, bands, order amplitudes and phases, peaks, and A̅. -/
structure Feats where
  tf : List Word
  bands : List Word
  amps : List Word
  phases : List Int
  peaks : List (Word × Word)
  abar : List Word
deriving DecidableEq, Repr

/-- A finite pair at a common scale. -/
def realPair (a b : Word) : Int × Int :=
  match fUnpack a, fUnpack b with
  | .fin s m e, .fin t n g => (fScaled s m e (min e g), fScaled t n g (min e g))
  | _, _ => (0, 0)

/-- A phase in 1/65,536 turn (R275, R301). -/
def phase16 (re im : Word) : Int :=
  let p := realPair re im
  let a := angleOf p.1 p.2 re im
  let q := roundDiv (sint a) 65536
  if q = 32768 then -32768 else q

/-- Order of the peak list: by power, ties by the lower line. -/
def peakBefore (a b : Nat × Word) : Bool := fLt b.2 a.2 || (!fLt a.2 b.2 && decide (a.1 ≤ b.1))

/-- The peak list (R276). -/
def peakList (p : List Word) (kMax : Nat) : List (Word × Word) :=
  let at' (k : Nat) : Word := p.getD k 0
  let ks := (List.range kMax).map (· + 1)
  let cand := (ks.filter (fun k => fLt (at' (k - 1)) (at' k) && !fLt (at' k) (at' (k + 1)))).map (fun k => (k, at' k))
  let top := (sortBy peakBefore cand).take 8
  let one (e : Nat × Word) : Word × Word :=
    let am := rSqrt (at' (e.1 - 1))
    let a0 := rSqrt (at' e.1)
    let ap := rSqrt (at' (e.1 + 1))
    let δ := rMul rHalf (rDiv (rSub am ap) (rAdd (rSub am (rMul rTwo a0)) ap))
    (rAdd (rNat e.1) δ, rSqrt (rMul rTwo e.2))
  let l := top.map one
  l ++ List.replicate (8 - l.length) (0, 0)

def features (cfg : Tab Word) (c : Nat) (a : AvgSt) : Feats :=
  let cp := jcpath cfg c
  let n := blkLen cp
  let mode := fget CTX.CPATH_AVGM cp
  let nb := jf cfg (CTX.CAVG c) CTX.CAVG_NBAND
  let no := jf cfg (CTX.CAVG c) CTX.CAVG_NORD
  if a.comp = 0 then
    ⟨List.replicate 5 qNaN, List.replicate 32 qNaN, List.replicate 32 qNaN, List.replicate 32 0,
      List.replicate 8 (qNaN, qNaN), []⟩
  else
    let p := avgRead mode a.inAvg a.pw
    let re := avgRead mode a.inAvg a.xre
    let im := avgRead mode a.inAvg a.xim
    let rms := rSqrt (rMean a.ms)
    let crest := if rAbs rms = 0 then 0 else rDiv a.pk rms
    let band (b : Nat) : Word :=
      let w := look cfg (CTX.CBAND c b).addr 0
      let lo := fget CTX.CBAND_KLO w
      rDiv (pairSum ((p.drop lo).take (fget CTX.CBAND_KHI w + 1 - lo))) (enbw (fget CTX.CPATH_WIN cp))
    let line (q : Nat) : Nat :=
      let w := look cfg (CTX.CORD c (q / 2)).addr 0
      if q % 2 = 0 then fget CTX.CORD_LINE0 w else fget CTX.CORD_LINE1 w
    let amp (k : Nat) : Word := rSqrt (rMul rTwo (p.getD k 0))
    ⟨[rms, a.pk, a.pp, crest, rMean a.kurt],
      (List.range 32).map (fun b => if b < nb then band b else qNaN),
      (List.range 32).map (fun q => if q < no then amp (line q) else qNaN),
      (List.range 32).map (fun q => if q < no then phase16 (re.getD (line q) 0) (im.getD (line q) 0) else 0),
      peakList p (lastLine n),
      (List.range (lastLine n + 1)).map (fun k => if k = 0 then rSqrt (p.getD 0 0) else amp k)⟩

/-- The 70 values the alarms evaluate. -/
def alarmValues (f : Feats) : List Word := f.tf ++ f.bands ++ f.amps ++ [(f.peaks.headD (0, 0)).2]

/-! Alarms (R278 to R280). States: 0 NORMAL, 1 H1, 2 H2, 3 L1, 4 L2, 5 INVALID. -/

def almSev (s : Nat) : Nat := if s = 2 || s = 4 then 2 else if s = 1 || s = 3 then 1 else 0
def almHigh (s : Nat) : Bool := s = 1 || s = 2

/-- One feature's step: state, run, pending state. -/
def alarmStep (h : Word) (n : Nat) (h2 h1 l1 l2 v : Word) (st : Nat × Nat × Nat) : Nat × Nat × Nat :=
  if isNaN v then (5, 0, 0)
  else
    let st := if st.1 = 5 then (0, 0, 0) else st
    let s := st.1
    let tgt := if fLt h2 v then 2 else if fLt h1 v then 1 else if fLt v l2 then 4 else if fLt v l1 then 3 else 0
    if almSev s < almSev tgt || (tgt ≠ 0 && almHigh tgt != almHigh s) then
      let run := if tgt = st.2.2 then st.2.1 + 1 else 1
      if n ≤ run then (tgt, 0, tgt) else (s, run, tgt)
    else
      let le (a b : Word) : Bool := fCmp a b = 0 || fCmp a b = 1
      let below (l : Word) : Bool := le v (rSub l (rMul h (rAbs l)))
      let above (l : Word) : Bool := le (rAdd l (rMul h (rAbs l))) v
      let s := if s = 2 && below h2 then (if fLt h1 v then 1 else 0) else s
      let s := if s = 1 && below h1 then 0 else s
      let s := if s = 4 && above l2 then (if fLt v l1 then 3 else 0) else s
      let s := if s = 3 && above l1 then 0 else s
      (s, 0, st.2.2)

/-- One feature of a context against its alarm table: its new state is kept; the states with their change marks gather. -/
def alarmOne (c base : Nat) (used : Nat → Bool) (r : Dev × List (Nat × Bool)) (e : Word × Nat) : Dev × List (Nat × Bool) :=
  let d := r.1
  let f := e.2
  let old := fget ⟨4 * (f % 8) + 3, 4 * (f % 8)⟩ (rd d (CTX.CALM c (f / 8)))
  if used f then
    let lv (i : Nat) : Word := rdW d (keyDdr (base + 0x10 + 16 * f + 4 * i))
    let x := ctxGet d c
    let rp := look x.run f (0, 0)
    let q := alarmStep (rdW d (keyDdr base)) ((rdByte d (keyDdr (base + 4))).toNat) (lv 0) (lv 1) (lv 2) (lv 3) e.1
      (old, rp.1, rp.2)
    let d := ctxPut d c { x with run := store x.run f (q.2.1, q.2.2) (0, 0) }
    (sf d (CTX.CALM c (f / 8)) ⟨4 * (f % 8) + 3, 4 * (f % 8)⟩ q.1, r.2 ++ [(q.1, decide (q.1 ≠ old))])
  else (d, r.2 ++ [(0, false)])

/-- The alarms of a record (R279, R280). -/
def alarms (d : Dev) (c : Nat) (cfg : Tab Word) (empty : Bool) (f : Feats) : Dev × List (Nat × Bool) :=
  let kept := (List.range 70).map (fun i => (fget ⟨4 * (i % 8) + 3, 4 * (i % 8)⟩ (rd d (CTX.CALM c (i / 8))), false))
  if empty then (d, kept)
  else
    let nb := jf cfg (CTX.CAVG c) CTX.CAVG_NBAND
    let no := jf cfg (CTX.CAVG c) CTX.CAVG_NORD
    let used (i : Nat) : Bool :=
      decide (i < 5) || (decide (5 ≤ i) && decide (i < 5 + nb)) || (decide (37 ≤ i) && decide (i < 37 + no)) || decide (i = 69)
    let base := ctxWs d c + 0x480 * fget CTX.CPATH_ASEL (jcpath cfg c)
    let r := (alarmValues f).zipIdx.foldl (alarmOne c base used) (d, [])
    if r.2.any (·.2) then (pressFlag r.1 7, r.2) else r

/-! Records (R295 to R304). -/

def wBytes (l : List Word) : List Byte := l.flatMap (fun w => leBytes 4 w.toNat)
def alarmByte (a b : Nat × Bool) : Byte :=
  BitVec.ofNat 8 (a.1 + (if a.2 then 8 else 0) + 16 * (b.1 + (if b.2 then 8 else 0)))
/-- Nibbles in pairs. -/
def alarmBytes : List (Nat × Bool) → List Byte
  | a :: b :: l => alarmByte a b :: alarmBytes l
  | _ => []

/-- The header of a record (R297). DEDUCED: log entry 14. -/
def recHeader (d : Dev) (c part parts kind rseq flags t0 nblk : Nat) (cp : Word) : List Byte :=
  let mode := fget CTX.CPATH_AVGM cp + 4 * fget CTX.CPATH_ORDER cp + 8 * fget CTX.CPATH_INTEG cp + 16 * fget CTX.CPATH_ENV cp
    + 32 * fget CTX.CPATH_WIN cp
  [BitVec.ofNat 8 (gf d POUT.OFMT POUT.OFMT_MINOR), BitVec.ofNat 8 (gf d POUT.OFMT POUT.OFMT_MAJOR),
    BitVec.ofNat 8 (part + 16 * parts), BitVec.ofNat 8 kind] ++ leBytes 2 (ownPip d) ++ leBytes 2 c ++ leBytes 4 rseq
    ++ leBytes 4 flags ++ leBytes 8 t0 ++ leBytes 6 d.tickno.toNat ++ [BitVec.ofNat 8 nblk, BitVec.ofNat 8 mode]

/-- The parts of a record set: the order extension with `NORD` > 0, the band extension with `NBAND` > 16 (R295). -/
def recKinds (nord nband : Nat) : List Nat := [0] ++ (if 0 < nord then [1] else []) ++ (if 16 < nband then [2] else [])

/-- A REAL from a rational rate. -/
def rRat (q : Rat) : Word := fOfRat q.num q.den

/-- The first 252 bytes of the body of a record of a kind (R298 to R300). -/
def recBody (d : Dev) (c : Nat) (cfg : Tab Word) (a : AvgSt) (f : Feats) (alm : List (Nat × Bool)) (kind : Nat) : List Byte :=
  let cp := jcpath cfg c
  let order := fget CTX.CPATH_ORDER cp = 1
  let v11 := gf d POUT.OFMT POUT.OFMT_MINOR ≠ 0
  let n := blkLen cp
  let fs := fStream d (jf cfg (CTX.CCTL c) CTX.CCTL_CHAN) cp
  let df := if order then fOfRat (2 ^ fget CTX.CPATH_NRLOG cp) n else rRat (fs / (n : Nat))
  match kind with
  | 0 =>
    leBytes 8 a.t1 ++ leBytes 4 (if order then (rMean a.spd).toNat else 0) ++ leBytes 4 a.pat ++ leBytes 4 a.voi
      ++ [BitVec.ofNat 8 (min a.shed 255), BitVec.ofNat 8 (min a.late 255)] ++ leBytes 2 (if v11 then a.gaps else 0)
      ++ [BitVec.ofNat 8 (fget CTX.CPATH_BLOG cp + 8), BitVec.ofNat 8 (if order then fget CTX.CPATH_NRLOG cp else 0),
        BitVec.ofNat 8 (jf cfg (CTX.CAVG c) CTX.CAVG_NBAND), BitVec.ofNat 8 (jf cfg (CTX.CAVG c) CTX.CAVG_NORD)]
      ++ wBytes f.tf ++ alarmBytes alm ++ [0] ++ wBytes (f.peaks.flatMap (fun p => [p.1, p.2]))
      ++ (if v11 then wBytes [df, rRat fs] else leBytes 8 0) ++ wBytes (f.bands.take 16)
  | 1 => wBytes f.amps ++ f.phases.flatMap (fun p => leBytes 2 (p % 65536).toNat) ++ leBytes 28 0
  | _ => wBytes (f.bands.drop 16) ++ leBytes 156 0

/-- SIG of a main record: the CRC-32C of the fields that do not depend on sample values (R458). -/
def resultSig (r : List Byte) : Word :=
  let part (lo n : Nat) : List Byte := (r.drop lo).take n
  crcFold 0 0 (part 0x02 2 ++ part 0x06 6 ++ part 0x10 8 ++ part 0x1E 2)

/-- A standby's own or a received signature meets its counterpart, or waits for it (R459). -/
def sigArrive (d : Dev) (own : Bool) (c rseq : Nat) (sig : Word) : Dev :=
  let l := d.twin.sigs
  let same (e : SigSt) : Bool := decide (e.ctx = c) && decide (e.rseq = rseq) && e.own != own
  match l.find? same with
  | some e =>
    let d := { d with twin := { d.twin with sigs := l.filter (fun x => !same x) } }
    if e.sig = sig then d
    else
      let d := bump (twinFlag d 4) PAIRC.TWCNTA PAIRC.TWCNTA_SIGF
      { d with twin := { d.twin with sigT := true } }
  | none => { d with twin := { d.twin with sigs := l ++ [⟨c, rseq, sig, own, d.tickno.toNat⟩] } }

/-- A result of a twin member: the ACTIVE one mirrors its signature as it enters the queue, a standby compares it and writes
no record (R454, R459, R460). -/
def resultOut (d : Dev) (ring c rseq : Nat) (recs : List (List Byte)) : Dev :=
  let sig := resultSig (recs.headD [])
  let st := gf d PAIRC.TWSTAT PAIRC.TWSTAT_STATE
  if st = 2 || st = 5 then d
  else if st = 3 then sigArrive d true c (rseq % 2 ^ 22) sig
  else mirror (oqEnter d ring recs) (.curd (BitVec.ofNat 10 c) (BitVec.ofNat 22 rseq) sig)

/-- A result is emitted (R267, R280, R295 to R304, R308, R322). -/
def emitResult (d : Dev) (c : Nat) (cfg : Tab Word) : Dev :=
  let x := ctxGet d c
  let a := x.avg
  let cp := jcpath cfg c
  let empty := a.comp = 0
  let f := features cfg c a
  let d := wrBytes d (keyDdr (ctxWs d c + 0x1100)) (wBytes f.abar)
  let r := alarms d c cfg empty f
  let d := r.1
  let sev := (r.2.filter (·.2)).foldl (fun m e => max m (almSev e.1)) 0
  let defs := (List.range 16).filter (fun s =>
    gf d (POUT.SNCFG s) POUT.SNCFG_EN = 1 && gf d (POUT.SNCFG s) POUT.SNCFG_ALM = 1 && gf d (POUT.SNCFG s) POUT.SNCFG_CTX = c
      && decide (gf d (POUT.SNCFG s) POUT.SNCFG_SEV + 1 ≤ sev))
  let d := forEach defs (fun d s => snTrigger d s 0 a.t1 c (x.rseq % 65536)) d
  let bit (b : Bool) (k : Nat) : Nat := if b then 2 ^ k else 0
  let flags := bit (0 < a.pat) 0 + bit (0 < a.voi) 1 + bit (0 < a.late) 2 + bit (0 < a.shed) 3 + bit (0 < a.gaps) 4
    + bit a.noref 5 + bit (r.2.any (·.2)) 6 + bit empty 7 + bit (x.rseq = 0) 8 + bit (ctxState d c = 3) 10
    + bit (!defs.isEmpty) 11
  let kinds := recKinds (jf cfg (CTX.CAVG c) CTX.CAVG_NORD) (jf cfg (CTX.CAVG c) CTX.CAVG_NBAND)
  let recs := kinds.zipIdx.map (fun e =>
    recHeader d c e.2 kinds.length e.1 x.rseq flags (a.t0.getD 0) (min a.comp 255) cp ++ recBody d c cfg a f r.2 e.1)
  let d := resultOut d (jf cfg (CTX.CAVG c) CTX.CAVG_RING) c x.rseq recs
  let y := ctxGet d c
  let avg := avgNext (fget CTX.CPATH_AVGM cp) a
  let d := ctxPut d c { y with avg := avg, rseq := (x.rseq + 1) % 2 ^ 32 }
  wr (bumpWrap d (CTX.CNREC c)) (CTX.CAVGN c) (BitVec.ofNat 32 avg.inAvg)

/-- A block of a context's average is computed or shed: its record follows where its set is full (R267). -/
def setStep (d : Dev) (j : Job) (a : AvgSt) : Dev :=
  let c := j.ctx
  let cp := jcpath j.cfg c
  let d := ctxPut d c { ctxGet d c with avg := a }
  let d := wr d (CTX.CAVGN c) (BitVec.ofNat 32 a.inAvg)
  if fget CTX.CPATH_AVGM cp = 1 || jf j.cfg (CTX.CAVG c) CTX.CAVG_AVGN + 1 ≤ a.pos then emitResult d c j.cfg else d

/-- The average area of the workspace (R294). -/
def wsAverage (d : Dev) (j : Job) (a : AvgSt) : Dev :=
  let n := blkLen (jcpath j.cfg j.ctx)
  let mode := fget CTX.CPATH_AVGM (jcpath j.cfg j.ctx)
  let rows := (avgRead mode a.inAvg a.pw).zip ((avgRead mode a.inAvg a.xre).zip (avgRead mode a.inAvg a.xim))
  wrBytes d (keyDdr (ctxWs d j.ctx + 0x1100 + up64 (4 * (lastLine n + 1))))
    (rows.flatMap (fun e => wBytes [e.1, e.2.1, e.2.2]))

/-- A job that belongs to no average any more, after a re-trigger, gives nothing. -/
def jobDone (d : Dev) (j : Job) : Dev :=
  if j.avgNo = 0 then d
  else
    let a := avgAdd (ctxGet d j.ctx).avg j
    setStep (wsAverage d j a) j a

/-! Jobs (R269, R270, R283 to R288). -/

/-- FABRIC cycles of W(N) and of its passes. -/
def jobWork (n lg : Nat) : Nat := n / 4 + n / 8 * lg + n / 4 + 512
def passCount (lg : Nat) : Nat := 3 + (lg + 1) / 2
def passLen (n lg p : Nat) : Nat :=
  if p + 1 = passCount lg then 512
  else if lg % 2 = 1 && p = (lg + 1) / 2 then n / 8
  else n / 4
def jobLg (j : Job) : Nat := fget CTX.CPATH_BLOG (jcpath j.cfg j.ctx) + 8
def jobPassLen (j : Job) : Nat := passLen (2 ^ jobLg j) (jobLg j) j.pass
def jobLast (j : Job) : Bool := j.pass + 1 = passCount (jobLg j)

/-- The pass start of a job on an engine. -/
def jobStart (d : Dev) (id : Nat) : Option Nat := ((d.eng.find? (fun e => e.2.1 = id)).map (fun e => e.2.2))

/-- FABRIC cycles a job still needs. -/
def jobRemaining (d : Dev) (j : Job) : Nat :=
  match jobStart d j.id with
  | none => j.rem
  | some t => j.rem - min (jobPassLen j) ((d.now - t) / fabDiv d)

/-- Order of R284. -/
def jobBefore (d : Dev) (a b : Job) : Bool :=
  let key (j : Job) : Int := sint (BitVec.ofNat 32 j.dl - tnoLow d)
  key a < key b || (key a = key b && (a.cls < b.cls || (a.cls = b.cls && a.ctx ≤ b.ctx)))

def jobSet (d : Dev) (j : Job) : Dev := { d with jobs := d.jobs.map (fun k => if k.id = j.id then j else k) }
def jobDel (d : Dev) (id : Nat) : Dev :=
  { d with jobs := d.jobs.filter (fun k => k.id != id), eng := d.eng.filter (fun e => e.2.1 != id) }

/-- An engine without a job takes the earliest released job that is on none (R284). -/
def engTake (d : Dev) (e : Nat) : Dev :=
  match find d.eng e with
  | some _ => d
  | none =>
    match (sortBy (jobBefore d) (d.jobs.filter (fun j => (jobStart d j.id).isNone))).head? with
    | none => d
    | some j => { d with eng := put d.eng e (j.id, d.now) }

/-- A job is shed (R285): it ends at once. -/
def jobShed (d : Dev) (j : Job) : Dev :=
  let d := bump (pressFlag (jobDel d j.id) 3) (PRESS.PSHED j.cls) PRESS.PSHED_CNT
  let d := bump { d with pressBad := true } (CTX.CJERR j.ctx) CTX.CJERR_SHED
  let d := ctxJobRegs d j.ctx
  if j.avgNo = 0 then d else setStep d j (avgShed (ctxGet d j.ctx).avg j)

/-- The victim among jobs: class 1 up, highest class, then latest deadline, then highest context. -/
def shedAfter (d : Dev) (a b : Job) : Bool :=
  let key (j : Job) : Int := sint (BitVec.ofNat 32 j.dl - tnoLow d)
  b.cls < a.cls || (a.cls = b.cls && (key b < key a || (key a = key b && b.ctx ≤ a.ctx)))
def shedVictim (d : Dev) (l : List Job) : Option Job := (sortBy (shedAfter d) (l.filter (fun j => j.cls != 0 && decide (0 < jobRemaining d j)))).head?

/-- The inner loop of R285: jobs kept, work, jobs shed. -/
def shedWhile (d : Dev) (avail : Nat) : Nat → List Job → Nat → List Job → List Job × Nat × List Job
  | 0, kept, work, gone => (kept, work, gone)
  | n + 1, kept, work, gone =>
    if avail < work then
      match shedVictim d kept with
      | none => (kept, work, gone)
      | some v => shedWhile d avail n (kept.filter (fun j => j.id != v.id)) (work - jobRemaining d v) (gone ++ [v])
    else (kept, work, gone)

/-- FABRIC cycles of both engines until cycle 0 of a deadline tick. -/
def shedAvail (d : Dev) (j : Job) : Nat :=
  let k := sint (BitVec.ofNat 32 j.dl - tnoLow d)
  2 * (((k * (gf d TICK.TICKPER TICK.TICKPER_PER : Nat)).toNat - d.tphase) / fabDiv d)

/-- The outer loop of R285. -/
def shedScan (d : Dev) : List Job → List Job → Nat → List Job → List Job
  | [], _, _, gone => gone
  | j :: l, kept, work, gone =>
    let q := shedWhile d (shedAvail d j) (kept.length + 1) (kept ++ [j]) (work + jobRemaining d j) gone
    shedScan d l q.1 q.2.1 q.2.2

/-- The shed test (R285). DEDUCED: log entry 19. -/
def shedTest (d : Dev) : Dev :=
  let gone := shedScan d (sortBy (jobBefore d) d.jobs) [] 0 []
  engTake (engTake (forEach gone jobShed d) 0) 1

/-- A job that has not completed at its deadline is late (R286). DEDUCED: log entry 19. -/
def jobLate (d : Dev) (j : Job) : Dev :=
  if !j.late && atOrPast (tnoLow d) (BitVec.ofNat 32 j.dl) then
    let d := bump (pressFlag (jobSet d { j with late := true }) 4) (PRESS.PLATE j.cls) PRESS.PLATE_CNT
    bump { d with pressBad := true } (CTX.CJERR j.ctx) CTX.CJERR_LATE
  else d

/-- The Press at cycle 0 of a full-rate tick, `husk` true where the tick before was a Husk tick, `stops` the contexts that
were STOPPING before the tick's commit (R251, R282, R285 to R288). DEDUCED: log entry 19. DEDUCED: log entry 74. -/
def pressTick (d : Dev) (husk : Bool) (stops : List Nat) : Dev :=
  let d := if husk then d else
    let d := shedTest d
    forEach d.jobs jobLate d
  let d := forEach stops ctxTickStop d
  pressFit (forEach (ctxLive d) ctxResume d)

/-- A Husk tick moves every deadline one tick on (R288). DESIGN CHOICE: log entry 21. -/
def pressHuskTick (d : Dev) : Dev :=
  { d with jobs := d.jobs.map (fun j => { j with dl := (j.dl + 1) % 2 ^ 32 }) }

/-- The job and pass start of an engine. -/
def engJob (d : Dev) (e : Nat) : Option (Job × Nat) :=
  match find d.eng e with
  | none => none
  | some (id, t) => (d.jobs.find? (fun j => j.id = id)).map (fun j => (j, t))

/-- An engine ends a pass that is not its job's last, and takes the earliest job (R270, R284). -/
def jobPassEnd (d : Dev) (e : Nat) : Dev :=
  match engJob d e with
  | none => d
  | some (j, t) =>
    if jobLast j then d
    else
      let len := jobPassLen j
      let d := advanceTo d (t + len * fabDiv d)
      let d := jobSet d { j with pass := j.pass + 1, rem := j.rem - len }
      engTake { d with eng := del d.eng e } e

def execJobPassEnd (e : Fin 2) (s : State) : Out := clocked s (fun d => jobPassEnd d e)

/-- An engine ends its job's final pass (R267 to R280, R308). -/
def jobComplete (d : Dev) (e : Nat) : Dev :=
  match engJob d e with
  | none => d
  | some (j, t) =>
    if jobLast j then
      let d := advanceTo d (t + jobPassLen j * fabDiv d)
      let d := ctxJobRegs (jobDone (jobDel d j.id) j) j.ctx
      engTake d e
    else d

def execJobComplete (e : Fin 2) (s : State) : Out := clocked s (fun d => jobComplete d e)

end Sys2Proof.Machine
end

