-- ==== Sys2Proof/Machine/PressStream.lean ====
section
/-! DEFINITION. The stream section of the Press: lane outputs, the context chain, the order grid, blocks, and the
configuration writes (R239 to R264, R283, R290, R291). -/

namespace Sys2Proof.Machine

open Sys2Proof

/-- A context takes part in the streams: STARTING or RUNNING, not suspended. -/
def ctxTakes (d : Dev) (c : Nat) : Bool := (ctxState d c = 1 || ctxState d c = 2) && !ctxSusp d c
def ctxOrder (d : Dev) (c : Nat) : Bool := gf d (CTX.CPATH c) CTX.CPATH_ORDER = 1
def ctxNr (d : Dev) (c : Nat) : Nat := 2 ^ gf d (CTX.CPATH c) CTX.CPATH_NRLOG

/-! Blocks (R263, R264). -/

/-- The registers that show the block in progress. -/
def blkShow (d : Dev) (c : Nat) : Dev :=
  let x := ctxGet d c
  let ch := gf d (CTX.CCTL c) CTX.CCTL_CHAN
  let d := sf d (CTX.CSTAT c) CTX.CSTAT_FILL x.blk.length
  let d := sf d (CTX.CSTAT c) CTX.CSTAT_GAP (if x.grid.gap || x.blk.any Sample.gap then 1 else 0)
  match x.blk.getLast?, x.blk.head? with
  | some a, some b =>
    let seen := (look d.lane ch {}).rep.filter (fun e => decide (a.t ≤ 16 * e.1) && decide (16 * e.1 ≤ b.t))
    let d := wr (wr d (CTX.CBTSLO c) (BitVec.ofNat 32 (a.t / 16))) (CTX.CBTSHI c) (BitVec.ofNat 32 (a.t / 16 / 2 ^ 32))
    let d := wr d (CTX.CPATCH c) (BitVec.ofNat 32 (seen.filter (fun e => !e.2)).length)
    wr d (CTX.CVOID c) (BitVec.ofNat 32 (seen.filter (·.2)).length)
  | _, _ => wr (wr d (CTX.CPATCH c) 0) (CTX.CVOID c) 0

/-- DDR5 key of a sample's place in the block ring (R294). -/
def ringKey (d : Dev) (c k : Nat) : Nat :=
  let n := blkLen (rd d (CTX.CPATH c))
  keyDdr (ctxWs d c + 0x1100 + up64 (4 * (lastLine n + 1)) + up64 (12 * (n / 2 + 1)) + 4 * (k % (2 * n)))

/-- A job whose window pass has not ended before its first sample is overwritten is shed (R271). -/
def ringShed (d : Dev) (c k : Nat) : Dev :=
  let n := blkLen (rd d (CTX.CPATH c))
  let gone := d.jobs.filter (fun j => j.ctx = c && decide (j.pass = 0) && decide (j.first + 2 * n ≤ k))
  if gone.isEmpty then d else engTake (engTake (forEach gone jobShed d) 0) 1

/-- A sample joins the block; in order mode a block starts at a multiple of Nr. DEDUCED: log entry 20. -/
def blkAdd (d : Dev) (c : Nat) (s : Sample) : Dev :=
  let x := ctxGet d c
  if x.blk.isEmpty && ctxOrder d c && s.j % ctxNr d c ≠ 0 then ctxPut d c { x with first := x.first + 1 }
  else
    let k := x.first + x.blk.length
    let d := ringShed d c k
    let d := wrW d (ringKey d c k) s.x
    let x := ctxGet d c
    blkShow (ctxPut d c { x with blk := s :: x.blk }) c

/-- The first place from `i` on at which the next block may start: any sample, or in order mode a multiple of Nr. -/
def nextStart (order : Bool) (nr : Nat) : Nat → List Sample → Nat
  | i, [] => i
  | i, s :: l => if order && decide (s.j % nr ≠ 0) then nextStart order nr (i + 1) l else i

/-- Speed over a block (rev/s), from its first to its last target. DEDUCED: log entry 14. -/
def blkSpeed (d : Dev) (c : Nat) (l : List Sample) : Word :=
  match l.head?, l.getLast? with
  | some a, some b =>
    if ctxOrder d c && decide (a.t < b.t) then fOfRat (((l.length - 1) * 600000000 * 16 : Nat)) (ctxNr d c * (b.t - a.t)) else 0
  | _, _ => 0

/-- The speed differs from the average's first by more than the threshold (R268). -/
def retrigs (d : Dev) (c rel : Nat) (spd : Word) : Bool :=
  let s0 := rd d (CTX.CSPD0 c)
  ctxOrder d c && gf d (CTX.CPATH c) CTX.CPATH_RTRIG = 1 && decide (0 < rel)
    && fLt (rMul (rd d (CTX.RTPCT c)) s0) (rAbs (rSub spd s0))

/-- A job for a block is released (R253, R283, R285). -/
def jobRelease (d : Dev) (c : Nat) (l : List Sample) (spd : Word) (first : Nat) : Dev :=
  let x := ctxGet d c
  let cfg := ctxCfg d c
  let lg := gf d (CTX.CPATH c) CTX.CPATH_BLOG + 8
  let a := gf d (CTX.CAVG c) CTX.CAVG_AVGN + 1
  let d := if x.rel = 0 then wr d (CTX.CSPD0 c) spd else d
  let j : Job := { id := d.jobSeq, ctx := c, cls := gf d (CTX.CCTL c) CTX.CCTL_CLASS,
                   dl := (tnoLow d + BitVec.ofNat 32 (gf d (CTX.CCTL c) CTX.CCTL_DL)).toNat, rem := jobWork (2 ^ lg) lg,
                   smp := l, first := first, spd := spd, pat := (rd d (CTX.CPATCH c)).toNat, voi := (rd d (CTX.CVOID c)).toNat,
                   gap := l.any Sample.gap, noref := (l.headD ⟨0, 0, 0, false, false⟩).nr, avgNo := x.avgNo, cfg := cfg }
  let full := gf d (CTX.CPATH c) CTX.CPATH_AVGM ≠ 1 && decide (a ≤ x.rel + 1)
  let d := ctxPut d c { x with rel := if full then 0 else x.rel + 1, avgNo := if full then x.avgNo + 1 else x.avgNo }
  shedTest (ctxJobRegs { d with jobs := d.jobs ++ [j], jobSeq := d.jobSeq + 1 } c)

/-- The average restarts without a record (R268): jobs of it still in hand give nothing. -/
def retrigger (d : Dev) (c : Nat) : Dev :=
  let x := ctxGet d c
  let d := { d with jobs := d.jobs.map (fun j => if j.ctx = c && j.avgNo = x.avgNo then { j with avgNo := 0 } else j) }
  let older := d.jobs.any (fun j => j.ctx = c && j.avgNo != 0)
  let keep : AvgSt := { shed := x.avg.shed }
  let d := ctxPut d c { x with avgNo := x.avgNo + 1, rel := 0, avg := if older then x.avg else keep }
  let d := if older then d else wr d (CTX.CAVGN c) 0
  bump (ctxDiscard d c) (CTX.CSERR c) CTX.CSERR_RETRIG

/-- A block's B-th sample is there (R264). -/
def blockComplete (d : Dev) (c : Nat) : Dev :=
  let x := ctxGet d c
  let b := blkLen (rd d (CTX.CPATH c))
  if ctxState d c = 2 && !ctxSusp d c && decide (b ≤ x.blk.length) then
    let l := x.blk.reverse.take b
    let spd := blkSpeed d c l
    let d := wr (bumpWrap d (CTX.CNBLK c)) (CTX.CSPD c) spd
    if retrigs d c x.rel spd then retrigger d c
    else
      let d := jobRelease d c l spd x.first
      let x := ctxGet d c
      let hop := match gf d (CTX.CPATH c) CTX.CPATH_OVL with | 1 => b / 2 | 2 => b / 4 | _ => b
      let i := nextStart (ctxOrder d c) (ctxNr d c) hop (x.blk.reverse.drop hop)
      blkShow (ctxPut d c { x with blk := (x.blk.reverse.drop i).reverse, first := x.first + i }) c
  else d

def execBlockComplete (c : Fin 1024) (s : State) : Out := clocked s (fun d => blockComplete d c)

/-! The chain (R254 to R257). -/

/-- A word that the spec gives no value for. DESIGN CHOICE: log entry 4. -/
def freeSample (d : Dev) : Word × Dev := let r := draw d; (Config.freeWord r.1, r.2)

/-- Integration (R256). -/
def integrate (d : Dev) (c : Nat) (x : CtxSt) (y : Word) : Word :=
  let f := fCtx d (gf d (CTX.CCTL c) CTX.CCTL_CHAN) (rd d (CTX.CPATH c))
  let α := Config.expAlpha (rd d (CTX.IHPF c)) f.num.toNat f.den
  rAdd (rMul α x.integ) (rDiv (rMul (rd d (CTX.ISCALE c)) (rAdd y x.yPrev)) (rRat (2 * f)))

/-- A stream sample reaches the blocks, or in order mode the resampler. DEDUCED: log entry 14. -/
def streamSample (d : Dev) (c : Nat) (v : Word) (t : Nat) : Dev :=
  let x := ctxGet d c
  let d := ctxPut d c { x with nOut := x.nOut + 1, strm := if ctxOrder d c then ⟨v, 16 * t, 0, false, false⟩ :: x.strm else [] }
  if ctxOrder d c || ctxState d c ≠ 2 then d else blkAdd d c ⟨v, 16 * t, 0, false, false⟩

/-- A lane output enters a context (R251, R254 to R257). -/
def ctxInput (w : Word) (t : Nat) (d : Dev) (c : Nat) : Dev :=
  let x := ctxGet d c
  let cp := rd d (CTX.CPATH c)
  let mx := 2 ^ fget CTX.CPATH_MXLOG cp
  let per := lanePeriod d (gf d (CTX.CCTL c) CTX.CCTL_CHAN)
  let d := ctxPut d c { x with nIn := x.nIn + 1 }
  if (x.nIn + 1) % mx ≠ 0 then d
  else
    let r := if mx = 1 then (w, d) else freeSample d
    let t := t - 31 * (mx - 1) * per
    let d := r.2
    let y := rSub (rMul r.1 (rd d (CTX.CSCALE c))) (rd d (CTX.COFS c))
    let v := if fget CTX.CPATH_INTEG cp = 1 then integrate d c x y else y
    let d := ctxPut d c { ctxGet d c with nC := x.nC + 1, integ := v, yPrev := y }
    if fget CTX.CPATH_ENV cp = 1 then
      let ed := 2 ^ fget CTX.CPATH_EDEC cp
      if (x.nC + 1) % ed = 0 then
        let q := freeSample d
        streamSample q.2 c q.1 (t - 31 * (ed - 1) * mx * per)
      else d
    else streamSample d c v t

/-- A lane has an output after 2 × Mc samples (R241, R245, R247). -/
def laneOutput (d : Dev) (c : Nat) (w : Word) : Dev :=
  let l := look d.lane c {}
  let mc := gf d (PRESS.LNCFG c) PRESS.LNCFG_MC
  if laneActive d c && gateOpen d 14 && decide (2 * mc ≤ l.n) then
    let t := l.inst - 3 * l.len * (5 * (mc - 1) + 254 * mc)
    let d := { d with lane := put d.lane c { l with n := l.n - 2 * mc } }
    let d := celWrite d c w t
    let takers := (ctxLive d).filter (fun k => gf d (CTX.CCTL k) CTX.CCTL_CHAN = c && ctxTakes d k && decide ((ctxGet d k).start < t))
    forEach takers (ctxInput w t) d
  else d

def execLaneOutput (c : Fin 128) (x : Word) (s : State) : Out := clocked s (fun d => laneOutput d c x)

/-- A context is RUNNING after 32 outputs of its own stages and, in order mode, an angle item (R251). -/
def contextRunning (d : Dev) (c : Nat) : Dev :=
  let x := ctxGet d c
  if ctxState d c = 1 && !ctxSusp d c && decide (32 ≤ x.nOut) && (!ctxOrder d c || x.grid.got) then
    sf d (CTX.CSTAT c) CTX.CSTAT_STATE 2
  else d

def execContextRunning (c : Fin 1024) (s : State) : Out := clocked s (fun d => contextRunning d c)

/-! The order grid (R258 to R262). -/

/-- Offset of target `j`, and the first target at or beyond an offset. -/
def tgtOff (cpr nr j : Nat) : Int := ((j * cpr / nr : Nat) : Int)
def tgtFrom (cpr nr : Nat) (off : Int) : Nat := (off.toNat * nr + cpr - 1) / max cpr 1

/-- An order discard (R259, R262). -/
def orderDiscard (d : Dev) (c : Nat) : Dev := bump (ctxDiscard d c) (CTX.CSERR c) CTX.CSERR_ODISC

def gridSet (d : Dev) (c : Nat) (g : GridSt) : Dev := ctxPut d c { ctxGet d c with grid := g }

/-- Targets between two forward items, from the next one on (R260, R262). DEDUCED: log entry 20. -/
def targetsOf (g : GridSt) (cpr nr : Nat) (nrf : Bool) (pb : Int) (tb : Nat) : List Target :=
  let j0 := max g.next (tgtFrom cpr nr (g.pos - g.base))
  let j1 := tgtFrom cpr nr (pb - g.base)
  (List.range (j1 - j0)).map (fun i =>
    let j := j0 + i
    let p := g.base + tgtOff cpr nr j
    let t := roundDiv (16 * ((tb - g.ts : Nat) : Int) * (p - g.pos)) (pb - g.pos).toNat
    ⟨(16 * (g.ts : Int) + t).toNat, j, (pb - g.pos).toNat, tb - g.ts, nrf, g.gap && decide (i = 0)⟩)

/-- A forward item after a forward item: the speed test and the targets between them. -/
def gridForward (d : Dev) (c f : Nat) (g : GridSt) (pb : Int) (tb : Nat) : Dev :=
  let cpr := max (fbCpr d f) 1
  let nr := ctxNr d c
  let chan := gf d (CTX.CCTL c) CTX.CCTL_CHAN
  let fs := fStream d chan (rd d (CTX.CPATH c))
  let dp := (pb - g.pos).toNat
  let dt := tb - g.ts
  let next := max g.next (tgtFrom cpr nr (pb - g.base))
  if dp = 0 then d
  else if decide (dt = 0) || 4 * fs < ((nr * dp * 600000000 : Nat) : Rat) / ((cpr * dt : Nat) : Rat) then
    let d := if g.fast then d else orderDiscard d c
    let h := (ctxGet d c).grid
    gridSet d c { h with fast := true, next := next, far := max g.far pb }
  else
    let nrf := gf d (CTX.CSTAT c) CTX.CSTAT_NOREF = 1
    let ts := if ctxState d c = 2 then targetsOf g cpr nr nrf pb tb else []
    gridSet d c { g with fast := false, next := next, far := max g.far pb, tgts := g.tgts ++ ts,
                         gap := g.gap && ts.isEmpty }

/-- The grid is based on an item (R258, R259). -/
def gridBase (d : Dev) (c : Nat) (ref : Bool) : Dev :=
  let g := (ctxGet d c).grid
  let d := gridSet d c { g with base := g.pos, next := 0, far := g.pos }
  if ref then sf d (CTX.CSTAT c) CTX.CSTAT_NOREF 0 else d

/-- The Press takes an angle item for a context (R258 to R260, R262). DEDUCED: log entry 20. -/
def itemTake (f : Nat) (it : AngItem) (d : Dev) (c : Nat) : Dev :=
  let g := (ctxGet d c).grid
  let fl (b : Nat) : Bool := it.flags.testBit b
  let rev := fl 0
  let pos := if g.got then g.pos + sint (it.pos - g.raw) else sint it.pos
  let gapped := g.got && decide (it.seq ≠ (g.seq + 1) % 65536)
  let d := if gapped then sf (gridSet d c { g with gap := true }) (CTX.CSTAT c) CTX.CSTAT_GAP 1 else d
  let g := (ctxGet d c).grid
  let upd (d : Dev) (fwd : Bool) : Dev :=
    let h := (ctxGet d c).grid
    gridSet d c { h with got := true, pos := pos, raw := it.pos, ts := it.ts, seq := it.seq, fwd := fwd }
  let noref := gf d (CTX.CSTAT c) CTX.CSTAT_NOREF = 1
  if !g.got then gridBase (upd d (!rev)) c (fl 1)
  else if fl 4 then gridBase (upd (orderDiscard d c) (!rev)) c (fl 1)
  else if rev then
    let d := upd (orderDiscard d c) false
    let h := (ctxGet d c).grid
    gridSet d c { h with next := tgtFrom (max (fbCpr d f) 1) (ctxNr d c) (h.far - h.base + 1) }
  else
    let d := if g.fwd then gridForward d c f g pos it.ts else d
    let d := upd d true
    if fl 1 && noref then gridBase d c true else d

/-- An interface's oldest item is handed to the Press (R136, R137). -/
def angleItem (d : Dev) (f : Nat) : Dev :=
  let x := fbGet d f
  match x.items with
  | [] => d
  | it :: l =>
    let d := fbPut d f { x with items := l }
    if gateOpen d 14 then
      let takers := (ctxLive d).filter (fun c => ctxTakes d c && ctxOrder d c && gf d (CTX.CPATH c) CTX.CPATH_FB = f)
      forEach takers (itemTake f it) d
    else d

def execAngleItem (f : Fin 24) (s : State) : Out := clocked s (fun d => angleItem d f)

/-! Resampling (R261). -/

/-- I₀(8·√q) for a rational `q` from 0 to 1, by its power series. -/
def bessel (q : Rat) : Nat → Rat × Rat
  | 0 => (1, 1)
  | n + 1 =>
    let r := bessel q n
    let t := r.2 * 16 * q / (((n + 1) * (n + 1) : Nat) : Rat)
    (r.1 + t, t)

/-- The kernel at a distance of `x` stream samples for a cutoff of `u` per stream sample: sinc times Kaiser, β = 8. DESIGN
CHOICE: log entry 15. -/
def kernel (x u : Rat) : Word :=
  if 16 * 16 < x * x then 0
  else
    let kaiser := (bessel (1 - x * x / 256) 40).1 / (bessel 1 40).1
    let z := 2 * u * x
    let sinc : Word := if z = 0 then rOne else
      rDiv (rSin (BitVec.ofInt 32 ((z / 2) * 2 ^ 32).floor)) (rMul (0x40490FDB : Word) (rRat z))
    rMul (rMul (rRat (2 * u)) sinc) (rRat kaiser)

/-- The value at a target from the 32 nearest stream samples (R261). DESIGN CHOICE: log entry 15. -/
def orderValue (d : Dev) (c : Nat) (t : Target) (near : List Sample) : Word :=
  let chan := gf d (CTX.CCTL c) CTX.CCTL_CHAN
  let fs := fStream d chan (rd d (CTX.CPATH c))
  let cpr := max (fbCpr d (gf d (CTX.CPATH c) CTX.CPATH_FB)) 1
  let ω : Rat := ((t.dp * 600000000 : Nat) : Rat) / ((cpr * max t.dt 1 : Nat) : Rat)
  let u := min (1 / 2) (25 / 64 * (ctxNr d c : Nat) * ω / fs)
  let dist (s : Sample) : Rat := (((t.t : Int) - (s.t : Int) : Int) : Rat) / 16 / 600000000 * fs
  pairSum (near.map (fun s => rMul s.x (kernel (dist s) u)))

/-- The next target of a context is computed once 16 samples after it are present (R261). -/
def orderTarget (d : Dev) (c : Nat) : Dev :=
  let x := ctxGet d c
  match x.grid.tgts with
  | [] => d
  | t :: l =>
    let after := x.strm.filter (fun s => decide (t.t < s.t))
    if ctxState d c = 2 && !ctxSusp d c && decide (16 ≤ after.length) then
      let before := (x.strm.filter (fun s => decide (s.t ≤ t.t))).take 16
      let v := orderValue d c t (after.reverse.take 16 ++ before)
      let d := ctxPut d c { x with grid := { x.grid with tgts := l }, strm := after ++ before }
      blkAdd d c ⟨v, t.t, t.j, t.nr, t.gap⟩
    else d

def execOrderTarget (c : Fin 1024) (s : State) : Out := clocked s (fun d => orderTarget d c)

/-! Configuration writes (R248, R291). -/

/-- Context and offset of a configuration address: the pending window, then the active window. -/
def ctxAddr (a : Nat) : Option (Nat × Nat) :=
  if 0x40240000 ≤ a && a < 0x40280000 then some ((a - 0x40240000) / 0x100, (a - 0x40240000) % 0x100)
  else if 0x40280000 ≤ a && a < 0x40300000 && (a - 0x40280000) % 0x200 < 0x100 then
    some ((a - 0x40280000) / 0x200, (a - 0x40280000) % 0x200)
  else none

/-- The bits of a configuration word that can be written. -/
def ctxMask (o : Nat) : Word :=
  match o with
  | 0x00 => 0xE07FFFFF
  | 0x08 => 0xFF3F3F07
  | _ => if 0x30 ≤ o && o < 0x40 then 0 else 0xFFFFFFFF

/-- A write to a context's words or to `LNCFG`. -/
def writeCtxTicked (d : Dev) (addr : Nat) (v : Word) : Dev :=
  if !gateOpen d 14 then d
  else
    match ctxAddr addr with
    | some (c, o) =>
      if ctxMask o = 0 then d
      else if ctxWordBad o v then pressFlag d 0
      else wrPend d (ctxRegAt c (4 * (o / 4))) (v &&& ctxMask o)
    | none =>
      let o := addr - 0x40200000
      let o := if 0x800 ≤ o then o - 0x800 else o
      if 0x40200000 ≤ addr && 0x100 ≤ o && o < 0x300 then
        let mc := fget PRESS.LNCFG_MC v
        if mc < 2 || 1024 < mc then pressFlag d 0
        else wrPend d (PRESS.LNCFG ((o - 0x100) / 4)) (v &&& 0x800007FF)
      else d

def execContextConfigWrite (addr : Nat) (v : Word) (s : State) : Out := clocked s (fun d => writeCtxTicked d addr v)

/-- Commit group of a context. -/
def ctxGroup (d : Dev) (c : Nat) : Nat := fget ⟨4 * (c % 8) + 3, 4 * (c % 8)⟩ (rd d (PRESS.PCGRP (c / 8)))

/-! What `PLOAD` and `PCSTATE` read. -/

def ploadNow (d : Dev) : Word :=
  let stream := (pressCost d * 1000 / pressCap d).floor.toNat
  let back := ((d.jobs.map (jobRemaining d)).sum) / 1024
  fset PRESS.PLOAD_STREAM (fset PRESS.PLOAD_BACKLOG 0 (min back 0xFFFF)) (min stream 1023)
def pcstateNow (d : Dev) (w : Nat) : Word :=
  BitVec.ofNat 32 (((List.range 16).map (fun i => ctxState d (16 * w + i) * 4 ^ i)).sum)
def celRateNow (d : Dev) : Word := BitVec.ofNat 32 (min (celRate d).floor.toNat (2 ^ 23 - 1))

end Sys2Proof.Machine
end

