-- ==== Sys2Proof/Machine/Flash.lean ====
section
/-! DEFINITION. SRAM, flash and DDR5 as their initiators see them: errors, windows, the flash commands with their journal,
and the controllers' states (R489 to R532). -/

namespace Sys2Proof.Machine

open Sys2Proof

def flFlag (d : Dev) (b : Nat) : Dev := setFlag d FLASHC.FLSTAT b (gf d FLASHC.FLSEL FLASHC.FLSEL_IE) 160
def ddrFlag (d : Dev) (b : Nat) : Dev := setFlag d DDRC.DSTAT b (gf d DDRC.DSEL DDRC.DSEL_IE) 176
/-- With the gate of the DDRC closed its sources stay at 0 (R648). -/
def smFlag (d : Dev) (b : Nat) : Dev := setFlag d DDRC.SMSTAT b (if gateOpen d 16 then gf d DDRC.SMSEL DDRC.SMSEL_IE else 0) 177

/-! The core address map (R489). -/

def inFlash (a : Nat) : Bool := a < 0x02000000
def inSram (a : Nat) : Bool := 0x10000000 ≤ a && a < 0x10C00000
def inPeriph (a : Nat) : Bool := 0x40000000 ≤ a && a < 0x40412000
def inDdr (a : Nat) : Bool := 0x80000000 ≤ a && a < 0x100000000

/-! Flash organisation (R498, R699). -/

def bootSel (d : Dev) : Nat := gf d FLASHC.FLBOOT FLASHC.FLBOOT_BOOTSEL
/-- Physical bank of a core flash address. -/
def flBank (d : Dev) (a : Nat) : Nat := (a / 2 ^ 24 + bootSel d) % 2
def flOff (a : Nat) : Nat := a % 2 ^ 24
/-- 256 × bank + sector of a core flash address. -/
def flSec (d : Dev) (a : Nat) : Nat := 256 * flBank d a + flOff a / 65536
def flKey (d : Dev) (a : Nat) : Nat := keyFlash (flBank d a) (flOff a)
/-- Index of a line of a physical bank in `flProg`. -/
def flLineIx (bank off : Nat) : Nat := 2 ^ 19 * bank + off / 32
def flLineSet (d : Dev) (bank off : Nat) : Bool := look d.flProg (flLineIx bank off) false
/-- The core address at which a physical bank's byte appears now. -/
def flCore (d : Dev) (bank off : Nat) : Nat := (if bank = bootSel d then 0 else 2 ^ 24) + off

/-- A line is programmed with eight tagged words. -/
def flPutLine (d : Dev) (bank off : Nat) (ws : List TWord) : Dev :=
  let o := off / 32 * 32
  let d := forEach ws.zipIdx (fun d e => wrTW d (keyFlash bank o + 4 * e.2) e.1) d
  { d with flProg := store d.flProg (flLineIx bank o) true false }

/-- A sector reads erased: its lines, bytes, tags and bit errors go. -/
def flWipe (d : Dev) (sec : Nat) : Dev :=
  let bank := sec / 256
  let o := sec % 256 * 65536
  let k := keyFlash bank o
  let d := memZero d k 65536
  let l := flLineIx bank o
  { d with flProg := d.flProg.filter (fun e => !(decide (l ≤ e.1) && decide (e.1 < l + 2048))),
           ecc := d.ecc.filter (fun e => !(decide (k ≤ 4 * e.1) && decide (4 * e.1 < k + 65536))) }

/-- Programmed lines of a sector, as line numbers within it. -/
def flLines (d : Dev) (sec : Nat) : List Nat :=
  let l := flLineIx (sec / 256) (sec % 256 * 65536)
  (d.flProg.filter (fun e => decide (l ≤ e.1) && decide (e.1 < l + 2048))).map (fun e => e.1 - l)

/-! The erase journal (R510 to R513). -/

/-- Word `i` of a line of a sector. -/
def flWord (d : Dev) (sec line i : Nat) : Word := rdW d (keyFlash (sec / 256) (sec % 256 * 65536 + 32 * line + 4 * i))
/-- A record's type, sequence and sector. DEDUCED: log entry 24. -/
def jRecord (d : Dev) (sec line : Nat) : Option (Nat × Nat × Nat) :=
  let w := (flWord d sec line 0).toNat
  let t := w % 65536
  let rest := (flWord d sec line 2).toNat / 256 = 0 && [3, 4, 5, 6, 7].all (fun i => flWord d sec line i == 0)
  let tags := (List.range 8).all (fun i => decide (rdTag d (keyFlash (sec / 256) (sec % 256 * 65536 + 32 * line + 4 * i)) = .bits))
  if w / 65536 = 0x4A52 && 1 ≤ t && t ≤ 3 && rest && tags then some (t, (flWord d sec line 1).toNat, (flWord d sec line 2).toNat % 256)
  else none
def jRecords (d : Dev) (sec : Nat) : List (Nat × Nat × Nat) := (flLines d sec).filterMap (jRecord d sec)
def jHigh (d : Dev) (sec : Nat) : Nat := ((jRecords d sec).map (fun r => r.2.1)).foldl max 0
/-- The current journal sector of a bank: the one whose highest sequence number is higher. -/
def jCur (d : Dev) (bank : Nat) : Nat :=
  if jHigh d (256 * bank + 254) < jHigh d (256 * bank + 255) then 256 * bank + 255 else 256 * bank + 254
def jSeq (d : Dev) (bank : Nat) : Nat := max (jHigh d (256 * bank + 254)) (jHigh d (256 * bank + 255))
/-- The first line from which a sector is erased to its end, and how many those are. -/
def jNext (d : Dev) (sec : Nat) : Nat := ((flLines d sec).map (· + 1)).foldl max 0
def jFree (d : Dev) (sec : Nat) : Nat := 2048 - jNext d sec

def jShow (d : Dev) (bank : Nat) : Dev :=
  let s := jCur d bank
  sf (sf d FLASHC.FLJSTAT FLASHC.FLJSTAT_SEQ (jSeq d bank % 65536)) FLASHC.FLJSTAT FLASHC.FLJSTAT_FREE (min (jFree d s) 2047)

def bitsLine (l : List Nat) : List TWord := l.map (fun n => ⟨.bits, BitVec.ofNat 32 n⟩)

/-- A record is programmed into a journal sector. -/
def jWrite (d : Dev) (js typ sec : Nat) : Dev :=
  let bank := js / 256
  let ws := bitsLine [0x4A520000 + typ, jSeq d bank + 1, sec % 256, 0, 0, 0, 0, 0]
  jShow (flPutLine d bank (js % 256 * 65536 + 32 * jNext d js) ws) bank

/-- The journal makes room: the other sector is erased and opened (R512). -/
def jRoom (d : Dev) (bank : Nat) : Dev :=
  let js := jCur d bank
  if jFree d js < 2 then
    let other := 256 * bank + (if js % 256 = 254 then 255 else 254)
    jWrite (flWipe d other) other 1 0
  else d

def jBegin (d : Dev) (sec : Nat) : Dev :=
  let d := jRoom d (sec / 256)
  jWrite d (jCur d (sec / 256)) 2 sec
def jEnd (d : Dev) (sec : Nat) : Dev := jWrite d (jCur d (sec / 256)) 3 sec

/-! Operations in progress (R505 to R509, R515, R516). -/

def flIdle (d : Dev) : Dev :=
  let erase := d.flSusp.isSome
  sf { d with fl := {} } FLASHC.FLSTAT FLASHC.FLSTAT_OP (if erase then 2 else 0)

/-- An erase runs on after its suspension. -/
def flResume (d : Dev) : Dev :=
  match d.flSusp with
  | none => d
  | some e =>
    let d := { d with flSusp := none, fl := { op := 2, addr := e.addr, sec := e.sec, start := d.now } }
    sf (sf d FLASHC.FLSTAT FLASHC.FLSTAT_OP 2) FLASHC.FLSTAT FLASHC.FLSTAT_SUSP 0

/-- An operation other than an erase has ended; a resumption that waited takes place. -/
def flEnd (d : Dev) : Dev :=
  let d := flIdle d
  match d.flSusp with
  | some e => if e.resume then flResume d else d
  | none => d

/-- `FLBUF` and `FLBUFT` as eight tagged words. -/
def flBuffer (d : Dev) : List TWord :=
  (List.range 8).map (fun k => ⟨tagOf ((rd d FLASHC.FLBUFT).toNat / 16 ^ k), rd d (FLASHC.FLBUF k)⟩)

/-- A line program ends. -/
def flProgramDone (d : Dev) : Dev :=
  if d.fl.op = 1 then
    flFlag (flEnd d) 0
  else d

def execProgramDone (s : State) : Out := clocked s flProgramDone

def flEraseDone (d : Dev) : Dev :=
  if d.fl.op = 2 then
    let sec := d.fl.sec
    flFlag (flIdle (jEnd (flWipe d sec) sec)) 0
  else d

def execEraseDone (s : State) : Out := clocked s flEraseDone

/-- A suspension that was asked for takes effect (R505, R507). -/
def flEraseSuspended (d : Dev) : Dev :=
  if d.fl.op = 2 && d.fl.ask ≠ 0 then
    let e : EraseSt := { addr := d.fl.addr, sec := d.fl.sec, by_ := d.fl.ask, lastRd := d.now }
    flFlag (sf { d with fl := {}, flSusp := some e } FLASHC.FLSTAT FLASHC.FLSTAT_SUSP 1) 1
  else d

def execEraseSuspended (s : State) : Out := clocked s flEraseSuspended

/-- A read of a bank that is erasing asks for a suspension where `AUTOSUS` is 1 (R507). -/
def flAutoSuspend (d : Dev) (a : Nat) : Dev :=
  if inFlash a && d.fl.op = 2 && d.fl.sec / 256 = flBank d a && d.fl.ask = 0 && gf d FLASHC.FLCTL FLASHC.FLCTL_AUTOSUS = 1 then
    { d with fl := { d.fl with ask := 2 } }
  else d

def execAutoSuspend (addr : Nat) (s : State) : Out := clocked s (fun d => flAutoSuspend d addr)

/-- An automatically suspended erase runs on after 64 FABRIC cycles without a read of its bank (R508). -/
def flAutoResume (d : Dev) : Dev :=
  match d.flSusp with
  | some e => if e.by_ = 2 && d.fl.op = 0 then flResume (advanceTo d (e.lastRd + 64 * fabDiv d)) else d
  | none => d

def execAutoResume (s : State) : Out := clocked s flAutoResume

/-- A margin read ends: it fails at the first line that does not read erased, or where the cells do (R515). DEDUCED: log
entry 23. -/
def flMarginDone (d : Dev) (fail : Bool) (line : Nat) : Dev :=
  if d.fl.op = 3 then
    let d := advanceTo d (d.fl.start + 2048 * (gf d FLASHC.FLCTL FLASHC.FLCTL_WS + 1) * fabDiv d)
    let sec := d.fl.sec
    let bad := (flLines d sec) ++ (if fail then [line] else [])
    let d := flFlag (flEnd d) 0
    match bad with
    | [] => { sf d FLASHC.FLMARG FLASHC.FLMARG_FAIL 0 with suspect := d.suspect.filter (· != sec) }
    | x :: l => flFlag (sf (sf d FLASHC.FLMARG FLASHC.FLMARG_FAIL 1) FLASHC.FLMARG FLASHC.FLMARG_LINE (l.foldl min x)) 4
  else d

def execMarginDone (fail : Bool) (line : BitVec 11) (s : State) : Out := clocked s (fun d => flMarginDone d fail line.toNat)

def flSwapDone (d : Dev) : Dev :=
  if d.fl.op = 4 then
    let d := { d with swaps := d.swaps + 1 }
    flFlag (flEnd (sf d FLASHC.FLBOOT FLASHC.FLBOOT_SWAPS d.swaps)) 0
  else d

def execSwapDone (s : State) : Out := clocked s flSwapDone

/-! Reads of memory words. A failed access carries its exception and code: 10 bus error, 11 flash access fault, 12
uncorrectable error (R414). -/

abbrev Acc (α : Type) := Except (Nat × Nat) α

/-- A correctable SRAM error is counted and its write-back is due (R495). -/
def sramCorrected (d : Dev) (a : Nat) : Dev :=
  let d := wr (bump d DDRC.SMECC DDRC.SMECC_CE) DDRC.SMEADDR (BitVec.ofNat 32 a)
  let d := if d.wback.contains (a / 4) then d else { d with wback := d.wback ++ [a / 4] }
  smFlag d 0
def sramUncorrectable (d : Dev) (a : Nat) : Dev :=
  smFlag (wr (bump d DDRC.SMECC DDRC.SMECC_UE) DDRC.SMEADDR (BitVec.ofNat 32 a)) 1

/-- The SRAM word at an aligned address. -/
def sramRead (d : Dev) (a : Nat) : Dev × Acc TWord :=
  match look d.ecc (a / 4) 0 with
  | 0 => (d, .ok (rdTW d a))
  | 1 => (sramCorrected d a, .ok (rdTW d a))
  | _ => (sramUncorrectable d a, .error (12, 1))

/-- An SRAM word is written with valid check bits. -/
def sramWrite (d : Dev) (a : Nat) (t : TWord) : Dev :=
  wrTW { d with ecc := del d.ecc (a / 4), wback := d.wback.filter (· != a / 4) } a t

/-- A read of a bank waits for a program of it, and an erase of it is suspended or waited for (R507). DEDUCED: log entry 24.
-/
def flSettle (d : Dev) (a : Nat) : Dev :=
  let bank := flBank d a
  let d := if d.fl.op = 1 && flBank d d.fl.addr = bank then flProgramDone d else d
  if d.fl.op = 2 && d.fl.sec / 256 = bank then
    if gf d FLASHC.FLCTL FLASHC.FLCTL_AUTOSUS = 1 || d.fl.ask ≠ 0 then flEraseSuspended (flAutoSuspend d a) else flEraseDone d
  else d

/-- The flash word at an aligned core address (R499, R500, R509, R514). DEDUCED: log entry 24. -/
def flashRead (d : Dev) (a : Nat) : Dev × Acc TWord :=
  let d := flSettle d a
  let sec := flSec d a
  let d := match d.flSusp with
    | some e => if e.sec / 256 = flBank d a then { d with flSusp := some { e with lastRd := d.now } } else d
    | none => d
  let held := match d.flSusp with | some e => decide (e.sec = sec) | none => false
  if held || d.suspect.contains sec then (flFlag d 3, .error (11, 0))
  else
    let err (d : Dev) : Dev := wr d FLASHC.FLEADDR (BitVec.ofNat 32 a)
    match look d.ecc (flKey d a / 4) 0 with
    | 0 => (d, .ok (rdTW d (flKey d a)))
    | 1 => (flFlag (err (bump d FLASHC.FLECC FLASHC.FLECC_CE)) 5, .ok (rdTW d (flKey d a)))
    | _ => (flFlag (err (bump d FLASHC.FLECC FLASHC.FLECC_UE)) 6, .error (12, 2))

/-- DDR5 address of a byte of a window, where the window serves it (R527, R529). -/
def winAddr (d : Dev) (a : Nat) : Option Nat :=
  let w := (a - 0x80000000) / 2 ^ 27
  let r := rd d (DDRC.DWIN w)
  let x := fget DDRC.DWIN_DBASE r * 2 ^ 27 + a % 2 ^ 27
  if inDdr a && fget DDRC.DWIN_EN r = 1 && x < ddrCap d && (ddrRunning d || d.ddrRetrain) then some x else none
def winTag (d : Dev) (a : Nat) : Tag := tagOf (gf d (DDRC.DWIN ((a - 0x80000000) / 2 ^ 27)) DDRC.DWIN_DTAG)

def winError (d : Dev) (a : Nat) : Dev := ddrFlag (wr d DDRC.DWERR (BitVec.ofNat 32 a)) 4

/-- The error report of a DDR5 read (R522). -/
def ddrError (d : Dev) (x : Nat) (ue : Bool) : Dev :=
  let d := bump d DDRC.DECC (if ue then DDRC.DECC_UE else DDRC.DECC_CE)
  ddrFlag (wr d DDRC.DEADDR (BitVec.ofNat 32 (x / 16))) (if ue then 3 else 2)

/-- A word of unknown check bits (R524): whether its error is correctable, and what it holds, is open. DESIGN CHOICE: log
entry 5. DEDUCED: log entry 25. -/
def ddrUnknown (d : Dev) (x : Nat) : Bool := d.ddrUnk && !look d.ddrOk (keyDdr x / 4) false

/-- `n` DDR5 bytes within one word from a DDR5 address; `none` for an uncorrectable error. -/
def ddrRead (d : Dev) (x n : Nat) : Dev × Option (List Byte) :=
  if ddrUnknown d x then
    let r := draw d
    if Config.freeNat r.1 % 2 = 0 then (ddrError r.2 x true, none)
    else (ddrError r.2 x false, some ((leBytes 4 (Config.freeWord r.1).toNat).take n))
  else
    match look d.ecc (keyDdr x / 4) 0 with
    | 0 => (d, some (rdBytes d (keyDdr x) n))
    | 1 => (ddrError d x false, some (rdBytes d (keyDdr x) n))
    | _ => (ddrError d x true, none)

/-- DDR5 bytes are written with valid check bits; no tag is (R491). -/
def ddrWrite (d : Dev) (x : Nat) (l : List Byte) : Dev :=
  let d := wrBytes d (keyDdr x) l
  let ks := (List.range ((x % 4 + l.length + 3) / 4)).map (fun i => keyDdr x / 4 + i)
  let d := { d with ecc := d.ecc.filter (fun e => !ks.contains e.1) }
  if d.ddrUnk then forEach ks (fun d k => { d with ddrOk := store d.ddrOk k true false }) d else d

/-- The four bytes of a window operand lie in at most two halves at a 16-byte boundary (R395): pieces that share a word. -/
def winPieces (a : Nat) : List (Nat × Nat) :=
  let n := 4 - a % 4
  if a % 4 = 0 then [(a, 4)] else [(a, n), (a + n, 4 - n)]

def winReadPieces (d : Dev) : List (Nat × Nat) → List Byte → Dev × Acc (List Byte)
  | [], acc => (d, .ok acc)
  | (a, n) :: l, acc =>
    match winAddr d a with
    | none => (winError d a, .error (10, 1))
    | some x =>
      let r := ddrRead d x n
      match r.2 with
      | none => (r.1, .error (12, 3))
      | some b => winReadPieces r.1 l (acc ++ b)

/-- A window operand, tagged as its window says (R528). -/
def winRead (d : Dev) (a : Nat) : Dev × Acc TWord :=
  let r := winReadPieces d (winPieces a) []
  match r.2 with
  | .error e => (r.1, .error e)
  | .ok b => (r.1, .ok ⟨winTag d a, BitVec.ofNat 32 (ofLeBytes b)⟩)

/-- A store through a window (R528, R529): refused where a half is, or the tag differs. -/
def winWrite (d : Dev) (a : Nat) (t : TWord) : Dev × Acc Unit :=
  let ps := winPieces a
  match ps.find? (fun p => (winAddr d p.1).isNone) with
  | some p => (winError d p.1, .error (10, 1))
  | none =>
    if ps.any (fun p => decide (winTag d p.1 ≠ t.tag)) then (d, .error (1, 7))
    else
      let b := leBytes 4 t.w.toNat
      let d := ps.foldl (fun (r : Dev × List Byte) p =>
        match winAddr r.1 p.1 with
        | some x => (ddrWrite r.1 x (r.2.take p.2), r.2.drop p.2)
        | none => r) (d, b)
      (d.1, .ok ())

/-- A word of memory at an address: SRAM and flash at multiples of 4, windows at any byte (R348). -/
def memRead (d : Dev) (a : Nat) : Dev × Acc TWord :=
  if inSram a then sramRead d a
  else if inFlash a then flashRead d a
  else if inDdr a then winRead d a
  else (d, .error (10, 1))

/-- A store to memory; flash refuses it (R489). -/
def memWrite (d : Dev) (a : Nat) (t : TWord) : Dev × Acc Unit :=
  if inSram a then (sramWrite d a t, .ok ())
  else if inDdr a then winWrite d a t
  else (d, .error (10, 1))

/-! Upkeep of the SRAM (R495 to R497) and of DDR5 (R523). -/

/-- The corrected word is written back. -/
def sramWriteback (d : Dev) : Dev :=
  match d.wback with
  | [] => d
  | k :: l => { d with wback := l, ecc := del d.ecc k }

def execSramWriteback (s : State) : Out := clocked s sramWriteback

/-- The scrubber reads its next 16-byte line. -/
def sramScrub (d : Dev) : Dev :=
  let n := gf d DDRC.SMCTL DDRC.SMCTL_SCRDIV
  if n = 0 then d
  else
    let d := advance d (n * fabDiv d)
    let a := 0x10000000 + 16 * d.scrS
    let d := forEach [a, a + 4, a + 8, a + 12] (fun d a => (sramRead d a).1) d
    { d with scrS := (d.scrS + 1) % 786432 }

def execSramScrub (s : State) : Out := clocked s sramScrub

/-- The patrol scrubber reads a 64-byte line and writes corrected errors back. -/
def ddrScrub (d : Dev) : Dev :=
  let n := gf d DDRC.DSCRUB DDRC.DSCRUB_DIV
  if n = 0 || !ddrRunning d then d
  else
    let d := advance d (n * 64 * fabDiv d)
    let x := 64 * d.scrD
    let d := forEach ((List.range 16).map (fun i => x + 4 * i)) (fun d x =>
      let r := ddrRead d x 4
      match r.2 with
      | some b => if look d.ecc (keyDdr x / 4) 0 = 1 || ddrUnknown d x then ddrWrite r.1 x b else r.1
      | none => r.1) d
    { d with scrD := (d.scrD + 1) % (ddrCap d / 64) }

def execDdrScrub (s : State) : Out := clocked s ddrScrub

/-- A refresh of a rank changes no state of the model (R523). -/
def ddrRefresh (d : Dev) (_rank : Bool) : Dev := d

def execDdrRefresh (rank : Bool) (s : State) : Out := clocked s (fun d => ddrRefresh d rank)

/-- A device reports its temperature (R523). -/
def deviceHot (d : Dev) (hot : Bool) : Dev := sf d DDRC.DTEMP DDRC.DTEMP_HOT (if hot then 1 else 0)

def execDeviceTemperatureHot (hot : Bool) (s : State) : Out := clocked s (fun d => deviceHot d hot)

/-! Flash commands (R505, R506, R518). -/

def flRefuse (d : Dev) (code : Nat) : Dev := flFlag (wr d FLASHC.FLCERR (BitVec.ofNat 32 code)) 2

/-- Boot block of the active bank, or a journal sector (R506, code 3). -/
def flForbidden (d : Dev) (a : Nat) : Bool :=
  let s := flSec d a
  decide (254 ≤ s % 256) || (decide (a < 2 ^ 24) && decide (s % 256 < 16))

/-- A command that must wait for the operation in progress (code 1). DEDUCED: log entry 23. -/
def flBusy (d : Dev) (op a : Nat) : Bool :=
  if op = 3 || op = 4 then false
  else if d.fl.op ≠ 0 then true
  else match d.flSusp with
    | none => false
    | some e => !((op = 1 || op = 5) && decide (flSec d a ≠ e.sec))

/-- A change of the read-out protection level that is allowed (R518). -/
def rdpAllowed (d : Dev) : Bool :=
  let lvl := gf d FLASHC.FLRDP FLASHC.FLRDP_LEVEL
  let new := gf d FLASHC.FLRDPKEY FLASHC.FLRDPKEY_NEW
  gf d FLASHC.FLRDPKEY FLASHC.FLRDPKEY_KEY2 = 0x3C
    && ((lvl = 0 && (new = 1 || new = 2)) || (lvl = 1 && (new = 0 || new = 2)))

/-- An operation starts. -/
def flStart (d : Dev) (op show' a : Nat) : Dev :=
  sf { d with fl := { op := op, addr := a, sec := flSec d a, start := d.now } } FLASHC.FLSTAT FLASHC.FLSTAT_OP show'

/-- A command with the right key (R505, R506). DEDUCED: log entry 23. -/
def flCommand (d : Dev) (op : Nat) (dbg : Bool) : Dev :=
  let a := 32 * gf d FLASHC.FLADDR FLASHC.FLADDR_ADDR
  if dbg && gf d FLASHC.FLRDP FLASHC.FLRDP_LEVEL ≠ 0 then flRefuse d 8
  else if flBusy d op a then flRefuse d 1
  else match op with
    | 1 =>
      if flForbidden d a then flRefuse d 3
      else if flLineSet d (flBank d a) (flOff a) then flRefuse d 4
      else flStart (flPutLine d (flBank d a) (flOff a) (flBuffer d)) 1 1 a
    | 2 => if flForbidden d a then flRefuse d 3 else flStart (jBegin d (flSec d a)) 2 2 a
    | 3 => if d.fl.op = 2 then { d with fl := { d.fl with ask := 1 } } else flRefuse d 5
    | 4 =>
      match d.flSusp with
      | none => flRefuse d 5
      | some e => if d.fl.op = 0 then flResume d else { d with flSusp := some { e with resume := true } }
    | 5 => if flForbidden d a then flRefuse d 3 else flStart d 3 3 a
    | 6 => if gf d FLASHC.FLBOOT FLASHC.FLBOOT_ROM = 0 || 4096 ≤ d.swaps then flRefuse d 7 else flStart d 4 3 a
    | 7 =>
      if rdpAllowed d then
        let new := gf d FLASHC.FLRDPKEY FLASHC.FLRDPKEY_NEW
        if new = 0 then { flStart d 5 2 a with scrubMark := true } else { d with rdpNext := new }
      else flRefuse d 6
    | _ => d

/-- A write to `FLCMD`; another key is refused with code 2. -/
def writeFlcmd (d : Dev) (v : Word) (dbg : Bool) : Dev :=
  if fget FLASHC.FLCMD_KEY v = 0xA5 then flCommand d (fget FLASHC.FLCMD_OP v) dbg else flRefuse d 2

def execProgram (s : State) : Out := clocked s (fun d => flCommand d 1 false)
def execErase (s : State) : Out := clocked s (fun d => flCommand d 2 false)
def execSuspend (s : State) : Out := clocked s (fun d => flCommand d 3 false)
def execResumeErase (s : State) : Out := clocked s (fun d => flCommand d 4 false)
def execMargin (s : State) : Out := clocked s (fun d => flCommand d 5 false)
def execSwap (s : State) : Out := clocked s (fun d => flCommand d 6 false)
def execRdp (s : State) : Out := clocked s (fun d => flCommand d 7 false)

/-- Least `WS` for a FABRIC divisor and voltage (R501). -/
def minWs (fdiv : Nat) (low : Bool) : Nat :=
  match fdiv, low with
  | 0, _ => 9
  | 1, false => 4
  | 1, true => 6
  | _, false => 2
  | _, true => 3

/-- The commit of `FLCTL` (R502): refused where `WS` does not cover the active divisor and voltage. -/
def flctlCommit (d : Dev) : Dev :=
  let v := rdPend d FLASHC.FLCTL
  if fget FLASHC.FLCTL_WS v < minWs (gf d SYSCFG.SCLK SYSCFG.SCLK_FDIV) (gf d SYSCFG.SCLK SYSCFG.SCLK_VLOW = 1) then
    if v = rd d FLASHC.FLCTL then d else flFlag d 7
  else commitReg d FLASHC.FLCTL

/-! The DDR5 controller (R524 to R526, R530). -/

def ddrState (d : Dev) (n : Nat) : Dev := sf d DDRC.DSTAT DDRC.DSTAT_STATE n

def ddrStarting (d : Dev) : Dev :=
  sf (sf (ddrState { d with bias := [] } 1) DDRC.DSTAT DDRC.DSTAT_SREF 0) DDRC.DCAP DDRC.DCAP_MIB (ddrCap d / 2 ^ 20)

/-- Accesses end and the devices go to self-refresh (R289, R321, R524). -/
def ddrStopping (d : Dev) : Dev := ddrState (poutDdrStop (pressDdrStop d)) 3

/-- The commit of the controller's registers. DEDUCED: log entry 25. -/
def ddrCommit (d : Dev) : Dev :=
  let st := gf d DDRC.DSTAT DDRC.DSTAT_STATE
  let d :=
    if rdPend d DDRC.DCFG = rd d DDRC.DCFG then d
    else if st = 0 then commitReg d DDRC.DCFG
    else ddrFlag d 5
  let d := forEach ([DDRC.DCTL, DDRC.DSCRUB, DDRC.SMCTL] ++ (List.range 16).map DDRC.DWIN) commitReg d
  let en := gf d DDRC.DCTL DDRC.DCTL_EN
  if en = 1 && st = 0 then ddrStarting d
  else if en = 0 && st = 2 then ddrStopping d
  else d

/-- Training ends, with any zero fill (R519, R524). DEDUCED: log entry 25. -/
def ddrStartDone (d : Dev) (ok : Bool) : Dev :=
  if gf d DDRC.DSTAT DDRC.DSTAT_STATE = 1 then
    if ok then
      let fill := gf d DDRC.DCTL DDRC.DCTL_ZFILL = 1 || d.scrubMark
      let d := if fill then
          let d := memZero d (keyDdr 0) (2 ^ 36)
          { d with ddrUnk := false, ddrOk := [], scrubMark := false,
                   ecc := d.ecc.filter (fun e => !(decide (keyDdr 0 ≤ 4 * e.1) && decide (4 * e.1 < keyDdr (2 ^ 36)))) }
        else d
      let d := ddrFlag (ddrState (setBit d DDRC.DSTAT 28 d.scrubMark) 2) 0
      if gf d DDRC.DCTL DDRC.DCTL_EN = 0 then ddrStopping d else d
    else ddrFlag (ddrState d 0) 1
  else d

def execDdrcStartDone (ok : Bool) (s : State) : Out := clocked s (fun d => ddrStartDone d ok)

def ddrStopDone (d : Dev) : Dev :=
  if gf d DDRC.DSTAT DDRC.DSTAT_STATE = 3 then
    let d := sf (ddrState d 0) DDRC.DSTAT DDRC.DSTAT_SREF 1
    if gf d DDRC.DCTL DDRC.DCTL_EN = 1 then ddrStarting d else d
  else d

def execDdrcStopDone (s : State) : Out := clocked s ddrStopDone

/-- After a wake the controller is RUNNING again, contents kept (R526). -/
def ddrRetrainDone (d : Dev) : Dev :=
  if d.ddrRetrain then sf (ddrState { d with ddrRetrain := false } 2) DDRC.DSTAT DDRC.DSTAT_SREF 0 else d

def execDdrcRetrainDone (s : State) : Out := clocked s ddrRetrainDone

/-- Before the root clocks stop the devices go to self-refresh, and a later wake retrains (R526). -/
def ddrSleep (d : Dev) : Dev :=
  if ddrRunning d then sf (ddrState { d with ddrRetrain := true } 3) DDRC.DSTAT DDRC.DSTAT_SREF 1 else d

/-- A `DCFG` with a reserved `DENS` is refused at the write (R525). -/
def writeDcfg (d : Dev) (v : Word) : Dev :=
  if !gateOpen d 16 then d
  else if fget DDRC.DCFG_DENS v = 3 then ddrFlag d 5 else wrPend d DDRC.DCFG (v &&& 0x7B)

def execDcfgWrite (v : Word) (s : State) : Out := clocked s (fun d => writeDcfg d v)

/-- A forbidden default tag is refused at the write (R530). -/
def writeDwin (d : Dev) (w : Nat) (v : Word) : Dev :=
  if !gateOpen d 16 then d
  else if fget DDRC.DWIN_DTAG v = 0 || 10 ≤ fget DDRC.DWIN_DTAG v then ddrFlag d 5
  else wrPend d (DDRC.DWIN w) (v &&& 0x8F0001FF)

def execDwinWrite (w : Fin 16) (v : Word) (s : State) : Out := clocked s (fun d => writeDwin d w v)

end Sys2Proof.Machine
end

