-- ==== Sys2Proof/Machine/CoreOps.lean ====
section
/-! DEFINITION. A core outside its instructions: status, privilege and protection, the frame window, the pair's log and
signature, taking an exception and an interrupt, and the reset of a pair (R375, R380 to R429, R435, R436, R444 to R446, R683). -/

namespace Sys2Proof.Machine

open Sys2Proof

/-- Tagged words of a few kinds. -/
def tVoid : TWord := ⟨.void, 0⟩
def tAddr (w : Word) : TWord := ⟨.addr, w⟩
def tCode (w : Word) : TWord := ⟨.code, w⟩
def tBits (w : Word) : TWord := ⟨.bits, w⟩
def w32 (n : Nat) : Word := BitVec.ofNat 32 n

def coreGet (d : Dev) (c : Nat) : CoreSt := look d.core c {}
def corePut (d : Dev) (c : Nat) (x : CoreSt) : Dev := { d with core := put d.core c x }
def pairGet (d : Dev) (p : Nat) : PairSt := look d.pair p {}
def pairPut (d : Dev) (p : Nat) (x : PairSt) : Dev := { d with pair := put d.pair p x }

/-! The status word (R404). -/

def stPriv : Fld := ⟨15, 14⟩
def stLevel : Fld := ⟨11, 8⟩
def stIe : Fld := ⟨7, 7⟩
def stFault : Fld := ⟨6, 6⟩
def stBlk : Fld := ⟨5, 5⟩
def stAfl : Fld := ⟨28, 16⟩

def priv (d : Dev) (c : Nat) : Nat := gf d (CORE.STATUS c) stPriv
def level (d : Dev) (c : Nat) : Nat := gf d (CORE.STATUS c) stLevel
def inFault (d : Dev) (c : Nat) : Bool := gf d (CORE.STATUS c) stFault = 1
/-- The live status with `AFLAGS` in it. -/
def statusNow (d : Dev) (c : Nat) : Word := fset stAfl (rd d (CORE.STATUS c)) (rd d (CORE.AFLAGS c)).toNat

/-- The flags of `AFLAGS` that exist. -/
def aflMask : Word := 0x1F13

/-- A status word becomes live, its flags with it (R377). -/
def statusPut (d : Dev) (c : Nat) (w : Word) : Dev :=
  wr (wr d (CORE.AFLAGS c) (BitVec.ofNat 32 (fget stAfl w) &&& aflMask)) (CORE.STATUS c) (w &&& 0x0000CFE0)

/-! Pairs. -/

def pairOf (c : Nat) : Nat := c / 2
def paired (d : Dev) (p : Nat) : Bool := gf d (PAIRC.PSTAT p) PAIRC.PSTAT_MODE = 1
def isLeader (d : Dev) (c : Nat) : Bool := paired d (c / 2) && c % 2 = 0
def isFollower (d : Dev) (c : Nat) : Bool := paired d (c / 2) && c % 2 = 1

/-! Memory protection (R420 to R422). -/

/-- The attributes of the enabled region of highest number that contains a byte. -/
def mpuAttr (d : Dev) (c a : Nat) : Option Word :=
  (List.range 16).foldl (fun r i =>
    let at' := rd d (CORE.MPUATTR c i)
    let lo := (rd d (CORE.MPUBASE c i)).toNat / 32
    let hi := (rd d (CORE.MPULIM c i)).toNat / 32
    if at'.getLsbD 8 && decide (lo ≤ a / 32) && decide (a / 32 ≤ hi) then some at' else r) none

/-- Whether a byte may be read (0), written (1) or executed (2) at a privilege. -/
def mpuByte (d : Dev) (c pv kind a : Nat) : Bool :=
  match mpuAttr d c a with
  | some w =>
    match pv with
    | 0 => gf d (CORE.MPUCTL c) CORE.MPUCTL_MCHK = 0 || w.getLsbD (3 + kind)
    | 1 => w.getLsbD (3 + kind)
    | _ => w.getLsbD kind
  | none =>
    match pv with
    | 0 => true
    | 1 => gf d (CORE.MPUCTL c) CORE.MPUCTL_SDEF = 1
    | _ => false

/-- Core block, control block and the core-local part of DEBUG: exempt from regions where R375 and R422 say so. -/
def inCoreBlock (a : Nat) : Bool := 0x40410000 ≤ a && a < 0x40411000
def inControlBlock (a : Nat) : Bool := 0x40411000 ≤ a && a < 0x40412000

/-- The first refused byte of an access of `n` bytes. DEDUCED: log entry 65. -/
def mpuBad (d : Dev) (c pv kind a n : Nat) : Option Nat :=
  if inCoreBlock a || inControlBlock a then none
  else ((List.range n).map (fun i => (a + i) % 2 ^ 32)).find? (fun b => !mpuByte d c pv kind b)

/-- Whether a byte is cacheable (R391, R421). -/
def mpuCacheable (d : Dev) (c a : Nat) : Bool :=
  match mpuAttr d c a with | some w => w.getLsbD 7 | none => false

/-! The signature and its windows (R435, R436). -/

/-- One shift of the MISR x^64 + x^4 + x^3 + x + 1 with an item of 36 bits. DEDUCED: log entry 26. -/
def misr (s : BitVec 64) (item : Nat) : BitVec 64 :=
  ((s <<< 1) ^^^ (if s.getLsbD 63 then 0x1B else 0)) ^^^ BitVec.ofNat 64 item
def sigFold (d : Dev) (c : Nat) (item : Nat) : Dev :=
  if paired d (c / 2) then
    let x := coreGet d c
    corePut d c { x with sig := misr x.sig item }
  else d
def sigWord (d : Dev) (c : Nat) (t : TWord) : Dev := sigFold d c (t.w.toNat + 2 ^ 32 * tagCode t.tag)
def sigAddr (d : Dev) (c a : Nat) : Dev := sigFold d c a

/-- A window closes on a core. DEDUCED: log entry 72. -/
def winClose (d : Dev) (c : Nat) : Dev :=
  if paired d (c / 2) then
    let x := coreGet d c
    let p := pairGet d (c / 2)
    let p := if c % 2 = 0 then { p with lw := p.lw ++ [x.sig], num := p.num + 1 } else { p with fw := p.fw ++ [x.sig] }
    pairPut (corePut d c { x with sig := 0xFFFFFFFFFFFFFFFF, since := 0 }) (c / 2) p
  else d

/-- An instruction retires; the window closes at `ILIM` instructions. DEDUCED: log entry 63. -/
def retire (d : Dev) (c : Nat) : Dev :=
  if paired d (c / 2) then
    let x := coreGet d c
    let d := corePut d c { x with since := x.since + 1, ret := x.ret + 1 }
    if gf d (PAIRC.PWIN (c / 2)) PAIRC.PWIN_ILIM ≤ x.since + 1 then winClose d c else d
  else d

/-! The load log (R432, R434). -/

def logPush (d : Dev) (p : Nat) (it : LogIt) : Dev := pairPut d p { pairGet d p with log := (pairGet d p).log ++ [it] }

/-- Why an instruction goes no further: an exception with its cause, operand number and fault address; a wait (1 for a place
in the load log, 2 for one in the output queue, else 0), after which it starts again; a read that its log entry does not name
(R434). -/
inductive Stop where
  | exc (k code opnd faddr : Nat)
  | wait (why : Nat)
  | diverge
deriving DecidableEq, Repr

/-- A step of an instruction. -/
abbrev Try (α : Type) := Except Stop α

/-- The fault address of a read that failed: of a split one, the half that faults (R396). DEDUCED: log entry 49. -/
def readFault (d : Dev) (a : Nat) : Nat :=
  if inDdr a && 12 < a % 16 then
    match (winReadPieces d [(a, 16 - a % 16)] []).2 with
    | .ok _ => a + (16 - a % 16)
    | .error _ => a
  else a

/-- What a follower takes from the log for a read; it waits at an empty log, and at the leader's entry. -/
def logTake (d : Dev) (p a : Nat) : Dev × Try TWord :=
  match (pairGet d p).log with
  | [] => (d, .error (.wait 0))
  | .entry .. :: _ => (d, .error (.wait 0))
  | .load b t :: l => if b = a then (pairPut d p { pairGet d p with log := l }, .ok t) else (d, .error .diverge)
  | .fail b k code f :: l =>
    if b = a then (pairPut d p { pairGet d p with log := l }, .error (.exc k code 0 f)) else (d, .error .diverge)
  | .release :: _ => (d, .error .diverge)

/-- The leader waits at a full log (R433). -/
def logFull (d : Dev) (c : Nat) : Bool := isLeader d c && decide (256 ≤ (pairGet d (c / 2)).log.length)

/-- A read made once: by a core of its own, by the leader with a log entry; a follower takes the entry (R432). DEDUCED: log
entry 63. -/
def onceRead (d : Dev) (c a : Nat) (f : Dev → Dev × Acc TWord) : Dev × Try TWord :=
  if isFollower d c then logTake d (c / 2) a
  else if logFull d c then (d, .error (.wait 1))
  else
    let r := f d
    match r.2 with
    | .ok t => (if isLeader d c then logPush r.1 (c / 2) (.load a t) else r.1, .ok t)
    | .error e =>
      let fa := readFault d a
      (if isLeader d c then logPush r.1 (c / 2) (.fail a e.1 e.2 fa) else r.1, .error (.exc e.1 e.2 0 fa))

/-! The frame window (R385 to R389). -/

def fp (d : Dev) (c : Nat) : Nat := (rd d (CORE.FP c)).toNat

/-- The buffered store to a word, newest first (R392). -/
def sbFind (x : CoreSt) (a : Nat) : Option TWord :=
  (x.sb.reverse.find? (fun e => e.1 = a)).map (·.2)

/-- A frame is written to its memory address, over older stores to it that still wait; only a core that is no follower
reaches memory (R438). -/
def frameSpill (c : Nat) (d : Dev) (f : Nat × List TWord) : Dev :=
  forEach f.2.zipIdx (fun d e =>
    let a := (f.1 + 4 * e.2) % 2 ^ 32
    let d := sigWord (sigAddr d c a) c e.1
    if isFollower d c then d
    else (memWrite (corePut d c { coreGet d c with sb := (coreGet d c).sb.filter (fun s => s.1 != a) }) a e.1).1) d

/-- At most four frames stay resident. -/
def frameTrim (d : Dev) (c : Nat) : Dev :=
  let x := coreGet d c
  (x.frames.drop 4).foldl (frameSpill c) (corePut d c { x with frames := x.frames.take 4 })

/-- A frame is read back from memory; an uncorrectable error raises exception 12 with code 4. -/
def frameRead (c a : Nat) : Nat → Dev → Dev × Try (List TWord)
  | 0, d => (d, .ok [])
  | n + 1, d =>
    let b := (a + 4 * (63 - n)) % 2 ^ 32
    let r := onceRead d c b (fun d => match sbFind (coreGet d c) b with | some t => (d, .ok t) | none => memRead d b)
    match r.2 with
    | .ok t =>
      let q := frameRead c a n r.1
      match q.2 with
      | .ok l => (q.1, .ok (t :: l))
      | .error e => (q.1, .error e)
    | .error (.exc 12 _ o f) => (r.1, .error (.exc 12 4 o f))
    | .error e => (r.1, .error e)

/-- The frame at `a` becomes the current one after the present one is released: frames below it go, and it is filled where it
is not resident. DEDUCED: log entry 27. -/
def frameTo (d : Dev) (c a : Nat) : Dev × Try Unit :=
  let x := coreGet d c
  let rest := if fp d c = a then x.frames else x.frames.drop 1
  if rest.any (fun f => f.1 = a) then
    (corePut (wr d (CORE.FP c) (w32 a)) c { x with frames := rest.dropWhile (fun f => f.1 != a) }, .ok ())
  else
    let r := frameRead c a 64 d
    match r.2 with
    | .ok ws =>
      let y := coreGet r.1 c
      (frameTrim (corePut (wr r.1 (CORE.FP c) (w32 a)) c { y with frames := (a, ws) :: rest }) c, .ok ())
    | .error e => (r.1, .error e)

/-- A new frame at `a` with its first words and VOID beyond (R385). -/
def framePush (d : Dev) (c a : Nat) (ws : List TWord) : Dev :=
  let x := coreGet d c
  let f := ws ++ List.replicate (64 - ws.length) tVoid
  frameTrim (corePut (wr d (CORE.FP c) (w32 a)) c { x with frames := (a, f) :: x.frames.filter (fun g => g.1 != a) }) c

/-- A write to `FP` spills every resident frame and fills the new one (R389). -/
def frameJump (d : Dev) (c a : Nat) : Dev × Try Unit :=
  let x := coreGet d c
  let d := x.frames.foldl (frameSpill c) d
  let r := frameRead c a 64 d
  match r.2 with
  | .ok ws => (corePut (wr r.1 (CORE.FP c) (w32 a)) c { coreGet r.1 c with frames := [(a, ws)] }, .ok ())
  | .error e => (r.1, .error e)

/-- The word of a resident frame at an address, and its write (R387). -/
def frameFind (x : CoreSt) (a : Nat) : Option TWord :=
  (x.frames.find? (fun f => decide (f.1 ≤ a) && decide (a < f.1 + 256) && decide ((a - f.1) % 4 = 0))).map
    (fun f => f.2.getD ((a - f.1) / 4) tVoid)
def frameStore (x : CoreSt) (a : Nat) (t : TWord) : CoreSt :=
  { x with frames := x.frames.map (fun f =>
      if f.1 ≤ a && a < f.1 + 256 && (a - f.1) % 4 = 0 then (f.1, f.2.set ((a - f.1) / 4) t) else f) }

/-- The L1 is emptied. -/
def l1Empty (d : Dev) (c : Nat) : Dev := corePut d c { coreGet d c with l1 := [] }

/-! The reset of a pair (R410, R482, R683). -/

/-- Registers of a core's two blocks and its DEBUG part return to their reset values. -/
def coreClear (d : Dev) (c : Nat) : Dev := clearRegs d (0x40410000 + coreOff c) (0x40412000 + coreOff c)

/-- Services recorded for a core end; their pending bits stay (R482). -/
def servicesEnd (d : Dev) (c : Nat) : Dev :=
  forEach ((List.range 15).map (· + 1)) (fun d l =>
    if gf d (ICU.IACTL c l) ICU.IACTL_V = 1 then
      let s := gf d (ICU.IACTL c l) ICU.IACTL_SRC
      wr (setBit d (ICU.IACT (s / 32)) (s % 32) false) (ICU.IACTL c l) 0
    else d) d

/-- A core starts at its image's entry, or stays in reset: Monitor level, `IE` 0. -/
def coreStart (d : Dev) (c : Nat) (entry : Option Word) : Dev :=
  let d := coreClear (servicesEnd d c) c
  corePut d c { pc := entry.getD 0, rst := entry.isNone, halt := (coreGet d c).halt }

/-- The registers of a pair return to their reset values. -/
def pairClear (d : Dev) (p : Nat) : Dev := clearRegs d (0x40070000 + 0x40 * p) (0x40070040 + 0x40 * p)

/-- A pair reset with its cause: 1 watchdog, 2 double fault. -/
def pairReset (d : Dev) (p cause : Nat) : Dev :=
  let e := (pairGet d p).entry
  let d := pairPut (pairClear d p) p { entry := e }
  let d := coreStart (coreStart d (2 * p) e) (2 * p + 1) e
  bump (sf d SYSCFG.RSTPAIR ⟨2 * p + 1, 2 * p⟩ cause) SYSCFG.RSTCNT SYSCFG.RSTCNT_PAIRS

/-! Taking an exception and an interrupt (R406 to R410). -/

/-- The stack register of the handler, and the new frame's place, for a handler privilege. -/
def entryFp (d : Dev) (c h : Nat) : Nat :=
  if priv d c = h then (fp d c + 2 ^ 32 - 256) % 2 ^ 32 else ((rd d (CORE.SP c h)).toNat + 2 ^ 32 - 256) % 2 ^ 32

/-- A save set takes the state (R407 step 1). -/
def saveSet (d : Dev) (c s h : Nat) (pc : Word) : Dev :=
  let d := wr (wr d (CORE.SSPC c s) pc) (CORE.SSST c s) (statusNow d c)
  let d := wr (wr d (CORE.SSFP c s) (rd d (CORE.FP c))) (CORE.SSSP c s) (rd d (CORE.SP c h))
  wr (wr d (CORE.SSPRG c s) (w32 (coreGet d c).prog)) (CORE.SSCP c s) (w32 (priv d c))

/-- The frame, the stack register and the privilege of a handler (R407 steps 2 to 4). -/
def enterAt (d : Dev) (c h : Nat) (vec : Word) : Dev :=
  let a := entryFp d c h
  let d := if priv d c = h then d else wr d (CORE.SP c h) (w32 a)
  let d := framePush d c a []
  let d := sf (sf d (CORE.STATUS c) stPriv h) (CORE.STATUS c) stBlk 0
  let d := sigAddr d c vec.toNat
  let x := coreGet d c
  corePut d c { x with pc := vec, prog := 0, blk := none, ent := none, nest := if x.wft then x.nest + 1 else 0 }

/-- `FVECk` reads VOID until it is written. -/
def vecVoid (d : Dev) (r : Reg) : Bool := !look d.tags r.addr false

/-- Taking exception `k`: PC to be saved, cause, operand number, fault address (R407, R410, R414, R416). -/
def takeExc (d : Dev) (c k code opnd faddr : Nat) (pc : Word) : Dev :=
  let h := gf d (CORE.HPRIV c) CORE.HPRIV_FPRIV
  if inFault d c || vecVoid d (CORE.FVEC c k) || (mpuBad d c h 1 (entryFp d c h) 256).isSome then pairReset d (c / 2) 2
  else
    let d := saveSet d c 0 h pc
    let d := wr (wr d (CORE.FCAUSE c) (w32 (k * 2 ^ 24 + code % 256 * 2 ^ 16 + opnd % 256 * 2 ^ 8))) (CORE.FADDR c) (w32 faddr)
    let d := sf (enterAt d c h (rd d (CORE.FVEC c k))) (CORE.STATUS c) stFault 1
    emitTrace d DBG.DBGCTL_TREXC 4 c (leBytes 4 (rd d (CORE.FCAUSE c)).toNat ++ leBytes 4 pc.toNat)

/-- The entry of an interrupt of level `l` (R406, R407). DEDUCED: log entry 27. -/
def takeIrq (d : Dev) (c l : Nat) (vec : Word) : Dev :=
  let h := gf d (CORE.HPRIV c) CORE.HPRIV_IPRIV
  match mpuBad d c h 1 (entryFp d c h) 256 with
  | some a => takeExc (corePut d c { coreGet d c with ent := none }) c 3 2 0 a (coreGet d c).pc
  | none =>
    let d := saveSet d c l h (coreGet d c).pc
    sf (enterAt d c h vec) (CORE.STATUS c) stLevel l

/-! Divergence (R430, R445, R446). -/

/-- Registers with addresses in a core's window are copied to another core. -/
def regsCopy (d : Dev) (lo hi delta : Nat) : Dev :=
  let d := clearRegs d (lo + delta) (hi + delta)
  let inside (a : Nat) : Bool := decide (lo ≤ a) && decide (a < hi)
  let d := forEach (d.regs.filter (fun e => inside e.1)) (fun d e => { d with regs := put d.regs (e.1 + delta) e.2 }) d
  forEach (d.tags.filter (fun e => inside e.1)) (fun d e => { d with tags := put d.tags (e.1 + delta) e.2 }) d

/-- The follower takes the leader's state (R430). -/
def followerCopy (d : Dev) (p : Nat) : Dev :=
  let c := 2 * p
  let d := regsCopy d (0x40410000 + coreOff c) (0x40412000 + coreOff c) (coreOff (c + 1) - coreOff c)
  corePut d (c + 1) { coreGet d c with l1 := [], sig := 0xFFFFFFFFFFFFFFFF, since := 0, sb := [] }

/-- The event of R582 for a takeover, a yield or an entry to FAILED. -/
def twinPost (d : Dev) : Dev :=
  postEvent d { typ := 0x87, body := [rd d PAIRC.TWSTAT, rd d PAIRC.TWLAST, rd d PAIRC.TWTNO] }

/-- The member is no longer ACTIVE: `TWINACT` is deasserted and the legs are held (R452). -/
def twinLeave (d : Dev) (st : Nat) : Dev :=
  twinLegsOff (sf (sf { d with twin := { d.twin with out := [], image := [] } } PAIRC.TWSTAT PAIRC.TWSTAT_STATE st) PAIRC.TWSTAT PAIRC.TWSTAT_ACT 0)

/-- Deassertion of `TWINACT` and entry to FAILED by a diverged active member (R462). -/
def twinDiverged (d : Dev) (p : Nat) : Dev :=
  if gf d PAIRC.TWSTAT PAIRC.TWSTAT_STATE = 4 && (rd d PAIRC.TWCFG).getLsbD (24 + p)
      && gf d PAIRC.TWSTAT PAIRC.TWSTAT_PEERRDY = 1 then
    twinPost (twinLeave (mirQueue d (.notice (BitVec.ofNat 2 p).toFin)) 5)
  else d

/-- A flag of `PSTAT` (R468). -/
def pairFlag (d : Dev) (p b : Nat) : Dev := setFlag d (PAIRC.PSTAT p) b (gf d (PAIRC.PSEL p) PAIRC.PSEL_IE) (8 + p)

/-- A divergence with its cause and the two signatures (R445). -/
def diverge (d : Dev) (p cause : Nat) (ls fs : BitVec 64) : Dev :=
  let x := pairGet d p
  let d := pairPut d p { x with oq := [], log := [], lw := [], fw := [] }
  let d := sf (sf d (PAIRC.PSTAT p) PAIRC.PSTAT_DCAUSE cause) (PAIRC.PSTAT p) PAIRC.PSTAT_OQFILL 0
  let d := wr (wr d (PAIRC.PDLSLO p) (ls.setWidth 32)) (PAIRC.PDLSHI p) ((ls >>> 32).setWidth 32)
  let d := wr (wr d (PAIRC.PDFSLO p) (fs.setWidth 32)) (PAIRC.PDFSHI p) ((fs >>> 32).setWidth 32)
  let y := coreGet d (2 * p)
  let d := corePut d (2 * p) { y with sig := 0xFFFFFFFFFFFFFFFF, since := 0 }
  let d := followerCopy d p
  let d := bump (pairFlag d p 0) (PAIRC.PERR p) PAIRC.PERR_DIV
  let d := twinDiverged { d with twin := { d.twin with own := fset ⟨p, p⟩ d.twin.own 1 } } p
  if inFault d (2 * p) then pairReset d p 2
  else
    let d := takeExc d (2 * p) 14 0 0 0 y.pc
    if inFault d (2 * p) then takeExc d (2 * p + 1) 14 0 0 0 y.pc else d

/-- The read address of a follower differs from its log entry (R434). -/
def divergeLoad (d : Dev) (c : Nat) : Dev :=
  diverge d (c / 2) 2 (coreGet d (c / 2 * 2)).sig (coreGet d (c / 2 * 2 + 1)).sig

end Sys2Proof.Machine
end

