-- ==== Sys2Proof/Machine/Icu.lean ====
section
/-! DEFINITION. The interrupt controller: rises, arbitration, presentation, takeover, hold-off and the end of service (R469
to R488). -/

namespace Sys2Proof.Machine

open Sys2Proof

def icuFlag (d : Dev) (b : Nat) : Dev := setFlag d ICU.ISTAT b (gf d ICU.ISEL ICU.ISEL_IE) 13

def srcPending (d : Dev) (s : Nat) : Bool := bitOf d (ICU.IPEND (s / 32)) (s % 32)
def srcActive (d : Dev) (s : Nat) : Bool := bitOf d (ICU.IACT (s / 32)) (s % 32)
def srcLevel (d : Dev) (s : Nat) : Nat := gf d (ICU.ISRC s) ICU.ISRC_LEVEL

/-- A hardware source's input goes from 0 to 1; a software source has none (R470). -/
def sourceRise (d : Dev) (s : Nat) : Dev := if 512 ≤ s then d else raise d s

def execIcuSourceRise (s : Fin 1024) (st : State) : Out := clocked st (fun d => sourceRise d s)

/-- A write to `ISETw`: each 1 is a rise (R470). -/
def writeIset (d : Dev) (w : Nat) (v : Word) : Dev :=
  forEach ((List.range 32).filter (fun i => v.getLsbD i)) (fun d i => raise d (32 * w + i)) d

def execIset (w : Fin 32) (v : Word) (s : State) : Out := clocked s (fun d => writeIset d w v)

/-- A write to `IVECs` (R472). -/
def writeIvec (d : Dev) (s : Nat) (v : Word) : Dev :=
  if v.getLsbD 0 then icuFlag d 0
  else { wr d (ICU.IVEC s) v with tags := put d.tags (ICU.IVEC s).addr true }

def execIvecWrite (s : Fin 1024) (v : Word) (st : State) : Out := clocked st (fun d => writeIvec d s v)

/-- A source that takes part in arbitration but for its vector (R474, R475). -/
def srcOffered (d : Dev) (s : Nat) : Bool :=
  srcPending d s && !srcActive d s && !bitOf d (ICU.IMASK (s / 32)) (s % 32) && decide (srcLevel d s ≠ 0)
    && gf d (ICU.IGSEL (s / 16)) ICU.IGSEL_HACT = 0

/-- Order of R477: level, highest first, then source number. -/
def srcBefore (d : Dev) (a b : Nat) : Bool :=
  srcLevel d b < srcLevel d a || (srcLevel d a = srcLevel d b && decide (a ≤ b))
def srcOrder (d : Dev) : List Nat := sortBy (srcBefore d) ((List.range 1024).filter (srcOffered d))

/-- Priority of a processor (R476). -/
def procPrio (d : Dev) (c : Nat) : Nat :=
  match (coreGet d c).ent with | some e => e.lvl | none => level d c

/-- A processor is eligible for a level and a source's targets (R473, R476). -/
def procFits (d : Dev) (s c : Nat) : Bool :=
  let x := coreGet d c
  !isFollower d c && (gf d (ICU.ISRC s) ICU.ISRC_TARGET).testBit c && gf d (CORE.STATUS c) stIe = 1 && !inFault d c
    && decide (procPrio d c < srcLevel d s) && !x.rst && !x.halt

/-- The eligible processor of lowest priority, the lowest number on a tie, among those not yet given a source. -/
def procPick (d : Dev) (s : Nat) (taken : List Nat) : Option Nat :=
  let fits := (List.range 8).filter (fun c => procFits d s c && !taken.contains c)
  (sortBy (fun a b => decide (procPrio d a < procPrio d b) || (decide (procPrio d a = procPrio d b) && decide (a ≤ b))) fits).head?

/-- A request of a higher level takes over the entry under way (R484). -/
def takeover (d : Dev) (c : Nat) : Dev :=
  match (coreGet d c).ent with
  | none => d
  | some e =>
    let d := setBit (setBit d (ICU.IACT (e.src / 32)) (e.src % 32) false) (ICU.IPEND (e.src / 32)) (e.src % 32) true
    bump (wr d (ICU.IACTL c e.lvl) 0) ICU.ITKCNT ICU.ITKCNT_CNT

/-- A source is presented to a processor (R479, R480). -/
def present (d : Dev) (s c : Nat) : Dev :=
  let l := srcLevel d s
  let d := takeover d c
  let d := setBit (setBit d (ICU.IPEND (s / 32)) (s % 32) false) (ICU.IACT (s / 32)) (s % 32) true
  let d := wr d (ICU.IACTL c l) (w32 (2 ^ 31 + s))
  let d := sf d (ICU.ICORE c) ICU.ICORE_SRC s
  let g := s / 16
  let h := gf d (ICU.IHOLD g) ICU.IHOLD_HOLD
  let d := if h = 0 then d else
    { sf d (ICU.IGSEL g) ICU.IGSEL_HACT 1 with hold := put d.hold g (d.now + h * 64 * fabDiv d) }
  let d := corePut d c { coreGet d c with ent := some ⟨l, s, rd d (ICU.IVEC s)⟩ }
  emitTrace d DBG.DBGCTL_TRPRES 2 c (leBytes 2 s ++ leBytes 6 l)

/-- One arbitration: the sources in order, each to its processor (R477). -/
def arbitrate : List Nat → List Nat → Dev → Dev
  | [], _, d => d
  | s :: l, taken, d =>
    if srcOffered d s && !vecVoid d (ICU.IVEC s) then
      match procPick d s taken with
      | some c => arbitrate l (c :: taken) (present d s c)
      | none => arbitrate l taken d
    else arbitrate l taken d

/-- An arbitration, with the report of a source skipped for its vector (R475). -/
def arbitration (d : Dev) : Dev :=
  let order := srcOrder d
  let d := match order.find? (fun s => vecVoid d (ICU.IVEC s)) with
    | some s => icuFlag (wr d ICU.IVERR (w32 s)) 1
    | none => d
  arbitrate order [] d

def execInterruptPresentation (s : State) : Out := clocked s arbitration

/-- A group's hold-off ends (R480). -/
def holdoffEnd (d : Dev) (g : Nat) : Dev :=
  match find d.hold g with
  | none => d
  | some t => sf { advanceTo d t with hold := del d.hold g } (ICU.IGSEL g) ICU.IGSEL_HACT 0

def execHoldoffEnd (g : Fin 64) (s : State) : Out := clocked s (fun d => holdoffEnd d g)

/-- The entry of a presented request; the leader of a PAIRED pair logs it, the follower follows the log after the same count
of retired instructions (R408, R436, R442). DEDUCED: log entry 27. -/
def interruptEntry (d : Dev) (c : Nat) : Dev :=
  if isFollower d c then
    match (pairGet d (c / 2)).log with
    | .entry n l vec prog :: log =>
      if n = (coreGet d c).ret && prog = (coreGet d c).prog then
        let d := pairPut d (c / 2) { pairGet d (c / 2) with log := log }
        winClose (takeIrq d c l vec) c
      else d
    | _ => d
  else
    match (coreGet d c).ent with
    | none => d
    | some e =>
      let d := if isLeader d c then logPush d (c / 2) (.entry (coreGet d c).ret e.lvl e.vec (coreGet d c).prog) else d
      winClose (takeIrq (corePut d c { coreGet d c with ent := none }) c e.lvl e.vec) c

def execInterruptEntry (c : Fin 8) (s : State) : Out := clocked s (fun d => interruptEntry d c)

/-- Service of level `l` on a processor ends (R482). -/
def serviceEnd (d : Dev) (c l : Nat) : Dev :=
  if gf d (ICU.IACTL c l) ICU.IACTL_V = 1 then
    let s := gf d (ICU.IACTL c l) ICU.IACTL_SRC
    wr (setBit d (ICU.IACT (s / 32)) (s % 32) false) (ICU.IACTL c l) 0
  else d

/-- What `ICOREc` reads. -/
def icoreNow (d : Dev) (c : Nat) : Word :=
  let w := sf' (rd d (ICU.ICORE c))
  let w := fset ICU.ICORE_PAIRED w (if isFollower d c then 1 else 0)
  let w := fset ICU.ICORE_PRIO w (procPrio d c)
  fset ICU.ICORE_ENT w (if (coreGet d c).ent.isSome then 1 else 0)
where
  /-- Only the source is held as a register. -/
  sf' (w : Word) : Word := w &&& 0x03FF0000

/-- The commit of a group's ticked registers whose group is `g` (R471). -/
def icuCommit (d : Dev) (grps : Nat → Bool) : Dev :=
  let mine (a : Nat) : Option Reg :=
    if 0x40032000 ≤ a && a < 0x40033000 then some (ICU.ISRC ((a - 0x40032000) / 4))
    else if 0x40030300 ≤ a && a < 0x40030400 then some (ICU.IHOLD ((a - 0x40030300) / 4)) else none
  forEach (d.pend.map (·.1)) (fun d a =>
    match mine a with
    | none => d
    | some r =>
      let g := if 0x40032000 ≤ a then (a - 0x40032000) / 64 else (a - 0x40030300) / 4
      if grps (gf d (ICU.IGSEL g) ICU.IGSEL_CGRP) then commitReg d r else d) d

end Sys2Proof.Machine
end

