-- ==== Sys2Proof/Machine/Pair.lean ====
section
/-! DEFINITION. Pairs: slip timeout, watchdogs, configuration writes, and what a tick does to a pair (R428 to R449, R466,
R467). -/

namespace Sys2Proof.Machine

open Sys2Proof

/-- The slip stays at `MAXSLIP` with no retirement by the follower (R444, cause 3). -/
def slipTimeout (d : Dev) (p : Nat) : Dev :=
  if paired d p then diverge d p 3 (coreGet d (2 * p)).sig (coreGet d (2 * p + 1)).sig else d

def execSlipTimeout (p : Fin 4) (s : State) : Out := clocked s (fun d => slipTimeout d p)

/-! The watchdog (R447 to R449). -/

/-- The count takes `LIMIT` again. DEDUCED: log entry 32. -/
def wdReload (d : Dev) (p : Nat) : Dev :=
  pairPut (wr d (PAIRC.PWDCNT p) (w32 (gf d (PAIRC.PWDCFG p) PAIRC.PWDCFG_LIMIT))) p { pairGet d p with done := [] }

/-- A core completes a service (R448). DEDUCED: log entry 32. -/
def wdServed (d : Dev) (p c : Nat) : Dev :=
  if gf d (PAIRC.PWDCFG p) PAIRC.PWDCFG_BOTH = 1 && !paired d p then
    let done := if (pairGet d p).done.contains c then (pairGet d p).done else c :: (pairGet d p).done
    let d := pairPut d p { pairGet d p with done := done }
    if done.contains (2 * p) && done.contains (2 * p + 1) then wdReload d p else d
  else wdReload d p

/-- A write to `PWDSVC` by a core or by another initiator (R448). -/
def writePwdsvc (d : Dev) (who : Option Nat) (p : Nat) (v : Word) : Dev :=
  let key := v.toNat % 65536
  let d := wr d (PAIRC.PWDSVC p) (w32 key)
  let x := pairGet d p
  match who with
  | none => pairPut d p { x with key := none }
  | some c =>
    if key = 0xC35A then pairPut d p { x with key := some c }
    else
      let d := pairPut d p { x with key := none }
      if key = 0x5AC3 && x.key = some c then wdServed d p c else d

def execWatchdogService (c : Fin 8) (p : Fin 4) (key : BitVec 16) (s : State) : Out :=
  clocked s (fun d => writePwdsvc d (some c.val) p (key.setWidth 32))

/-- A write to `PWDCFG`: it starts the watchdog with a full count, and is ignored but for `WARN` once it runs (R449). -/
def writePwdcfg (d : Dev) (p : Nat) (v : Word) : Dev :=
  if (pairGet d p).run then sf d (PAIRC.PWDCFG p) PAIRC.PWDCFG_WARN (fget PAIRC.PWDCFG_WARN v)
  else
    let d := wr d (PAIRC.PWDCFG p) (v &&& 0xC0FFFFFF)
    if fget PAIRC.PWDCFG_EN v = 1 then pairPut (wdReload d p) p { pairGet d p with run := true, done := [] } else d

def execWatchdogStart (p : Fin 4) (v : Word) (s : State) : Out := clocked s (fun d => writePwdcfg d p v)

/-- A full-rate tick of a watchdog; with `WDSTOP` it stands still while its pair is halted (R447, R674). DEDUCED: log entry
32. -/
def wdTick (d : Dev) (p : Nat) : Dev :=
  let left := gf d (PAIRC.PWDCNT p) PAIRC.PWDCNT_LEFT
  let halted := gf d DBG.DBGCTL DBG.DBGCTL_WDSTOP = 1 && ((coreGet d (2 * p)).halt || (coreGet d (2 * p + 1)).halt)
  if (pairGet d p).run && !halted && left ≠ 0 then
    let d := wr d (PAIRC.PWDCNT p) (w32 (left - 1))
    if left - 1 = gf d (PAIRC.PWDCFG p) PAIRC.PWDCFG_WARN then pairFlag d p 4 else d
  else d

/-! Configuration (R428, R429, R467). -/

/-- The ticked register of PAIRC at an offset: register, writable bits, refused, pair. -/
def pairTicked (o : Nat) (v : Word) : Option (Reg × Word × Bool × Option Nat) :=
  if o < 0x100 then
    let p := o / 0x40
    match o % 0x40 with
    | 0x00 =>
      let lo := fget PAIRC.PCTL_MINSLIP v
      let hi := fget PAIRC.PCTL_MAXSLIP v
      some (PAIRC.PCTL p, 0x1FF3FE01, lo < 8 || 256 < lo || hi < 8 || 256 < hi || hi < lo, some p)
    | 0x04 => some (PAIRC.PWIN p, 0x1FFFF, fget PAIRC.PWIN_ILIM v = 0 || decide (65536 < fget PAIRC.PWIN_ILIM v), some p)
    | 0x08 => some (PAIRC.POCWIN p, 0xFFFF, false, some p)
    | _ => none
  else if o = 0x400 then some (PAIRC.TWCFG, 0xEFFF00FF, false, none)
  else if o = 0x404 then
    some (PAIRC.TWMIR, 0xFFFFF3FF, decide (768 < fget PAIRC.TWMIR_LEN v) || !inSram (4096 * fget PAIRC.TWMIR_BASE v), none)
  else none

def writePaircTicked (d : Dev) (addr : Nat) (v : Word) : Dev :=
  let o := addr - 0x40070000
  let o := if 0x800 ≤ o then o - 0x800 else o
  if 0x40070000 ≤ addr then
    match pairTicked o v with
    | none => d
    | some (r, m, bad, who) =>
      if bad then (match who with | some p => pairFlag d p 3 | none => twinFlag d 7) else wrPend d r (v &&& m)
  else d

def execPaircConfigWrite (addr : Nat) (v : Word) (s : State) : Out := clocked s (fun d => writePaircTicked d addr v)

/-- The commit of a pair's registers: a mode that differs from the one in force waits (R429). -/
def pairCommit (d : Dev) (p : Nat) : Dev :=
  let d := forEach [PAIRC.PCTL p, PAIRC.PWIN p, PAIRC.POCWIN p] commitReg d
  let differs := gf d (PAIRC.PCTL p) PAIRC.PCTL_MODE ≠ gf d (PAIRC.PSTAT p) PAIRC.PSTAT_MODE
  sf d (PAIRC.PSTAT p) PAIRC.PSTAT_MPEND (if differs then 1 else 0)

/-- A core waits in WFT, and not in a handler that interrupted the wait. -/
def waitsWft (d : Dev) (c : Nat) : Bool := (coreGet d c).wft && (coreGet d c).nest = 0

/-- A level of the core is active (R483). -/
def levelActive (d : Dev) (c : Nat) : Bool := (List.range 15).any (fun l => gf d (ICU.IACTL c (l + 1)) ICU.IACTL_V = 1)

/-- The core waits in WFT and has no active level. -/
def waitsFree (d : Dev) (c : Nat) : Bool := waitsWft d c && !levelActive d c

/-- The mode changes where both cores wait in WFT; the tick then releases them (R429, R430, R483). -/
def pairMode (d : Dev) (p : Nat) : Dev :=
  if gf d (PAIRC.PSTAT p) PAIRC.PSTAT_MPEND = 1 && waitsFree d (2 * p) && waitsFree d (2 * p + 1) then
    let m := gf d (PAIRC.PCTL p) PAIRC.PCTL_MODE
    let d := sf (sf d (PAIRC.PSTAT p) PAIRC.PSTAT_MODE m) (PAIRC.PSTAT p) PAIRC.PSTAT_MPEND 0
    if m = 1 then
      let d := corePut d (2 * p) { coreGet d (2 * p) with sig := 0xFFFFFFFFFFFFFFFF, since := 0, ret := 0 }
      followerCopy (pairPut d p { pairGet d p with log := [], lw := [], fw := [], oq := [], num := 0 }) p
    else d
  else d

/-- What cycle 0 of a full-rate tick does to a pair. -/
def pairTick (d : Dev) (p : Nat) : Dev := wdTick (pairMode d p) p

end Sys2Proof.Machine
end

