-- ==== Sys2Proof/Machine/Rows.lean ====
section
/-! DEFINITION. The rows of the register map put to use: the row of an address, and the ticked registers. -/

namespace Sys2Proof.Machine

open Sys2Proof

/-- Every row of the peripheral blocks, the core-local ones last. -/
def allRows : List RegRow :=
  tickRows ++ gptRows ++ adcRows ++ refRows ++ fbRows ++ triadRows ++ rindRows ++ leRows ++ pressRows ++ ctxRows ++ poutRows
    ++ paircRows ++ icuRows ++ flashcRows ++ ddrcRows ++ cvuRows ++ hostRows ++ cxlcRows ++ chainRows ++ dbgRows
    ++ syscfgRows ++ huskRows ++ pinmuxRows ++ coreRows

/-- An address is one of a row's registers. -/
def rowHas (r : RegRow) (a : Nat) : Bool :=
  let o := a - r.base
  let i := if r.n1 ≤ 1 then 0 else o / r.s1
  let q := o - r.s1 * i
  let j := if r.n2 ≤ 1 then 0 else q / r.s2
  decide (r.base ≤ a) && decide (i < r.n1) && decide (j < r.n2) && decide (o = r.s1 * i + r.s2 * j)

/-- The row of a register's key: the keys of a core's own registers lie above its bus address (`coreOff`). -/
def rowAt (a : Nat) : Option RegRow :=
  let b := if a < 0xB0000000000 then a % 2 ^ 32 else a
  allRows.find? (fun r => rowHas r b)

/-- The registers of a row. -/
def rowRegs (r : RegRow) : List Reg :=
  (List.range r.n1).flatMap (fun i => (List.range r.n2).map (fun j => ⟨r.base + r.s1 * i + r.s2 * j, r.rst⟩))

/-- Every ticked register of the unit. -/
def tickedRegs : List Reg := (allRows.filter (fun r => r.rwt != 0)).flatMap rowRegs

/-- The ticked register at an address. -/
def tickedAt (a : Nat) : Option Reg :=
  match rowAt a with
  | some r => if r.rwt = 0 then none else some ⟨a, r.rst⟩
  | none => none

end Sys2Proof.Machine
end

