-- ==== Sys2Proof/Machine/Timebase.lean ====
section
/-! DEFINITION. The time base, the arming of commit groups and the time-base compares (R26 to R58); the tick itself is in
Machine/Tick.lean. -/

namespace Sys2Proof.Machine

open Sys2Proof

/-- `TBCTL.SNAP`: all 64 bits of the time base are copied at once (R30). -/
def tbSnap (d : Dev) : Dev :=
  wr (wr d TICK.TBSLO ((tbShown d).setWidth 32)) TICK.TBSHI ((tbShown d >>> 32).setWidth 32)

def execSnap (s : State) : Out := clocked s tbSnap

/-- A period outside 1,200 to 6,000,000 is ignored and sets `PERR` (R34). DEDUCED: log entry 16. -/
def writeTickper (d : Dev) (v : Word) : Dev :=
  let per := fget TICK.TICKPER_PER v
  if 1200 ≤ per && per ≤ 6000000 then wrPend d TICK.TICKPER (BitVec.ofNat 32 per)
  else setBit d TICK.TSTAT 0 true

def execTickperWrite (v : Word) (s : State) : Out := clocked s (fun d => writeTickper d v)

/-- One group is armed for a target: the device after it, and whether the arming was late (R41 to R45). -/
def armGroup (d : Dev) (g : Nat) (tgt : Word) : Dev × Bool :=
  let take (d : Dev) : Dev := setBit (wr d (TICK.CGTGT g) tgt) (TICK.CGCTL g) 0 true
  if atOrPast (tnoLow d) tgt then
    let d := bump (setBit d TICK.LATESTAT g true) TICK.LATECNT TICK.LATECNT_CNT
    (if gf d (TICK.CGCTL g) TICK.CGCTL_LATEMODE = 0 then take d else d, true)
  else (take d, false)

/-- Armings of the groups listed: the device and the groups whose arming was late. -/
def armEach : List Nat → Word → Dev → Dev × List Nat
  | [], _, d => (d, [])
  | g :: l, tgt, d =>
    let r := armGroup d g tgt
    let q := armEach l tgt r.1
    (q.1, if r.2 then g :: q.2 else q.2)

/-- One arming operation: LATEARM rises once for the whole of it, and an event reports it (R45, R582). -/
def armOp (d : Dev) (groups : List Nat) (tgt : Word) : Dev × List Nat :=
  let r := armEach groups tgt d
  let r := (mirror r.1 (.arm (BitVec.ofNat 32 (groups.foldl (fun a g => a + 2 ^ g) 0)) tgt false), r.2)
  if r.2.isEmpty then r
  else
    let m := r.2.foldl (fun a g => a + 2 ^ g) 0
    (postEvent (raise r.1 3) { typ := 0x83, body := [BitVec.ofNat 32 m, tgt, tnoLow d] }, r.2)

/-- The groups 1 to 15 of a mask; bit 0 is ignored. -/
def maskGroups (mask : Nat) : List Nat := ((List.range 16).filter (fun g => g != 0)).filter (fun g => mask.testBit g)

/-- A write of a mask to `CMARM` (R41). -/
def writeCmarm (d : Dev) (mask : Word) : Dev := (armOp d (maskGroups mask.toNat) (rd d TICK.CMTGT)).1

def execCmarm (mask : Word) (s : State) : Out := clocked s (fun d => writeCmarm d mask)

/-- A write to `CGTGT`: a load, or for an armed group an arming (R43); group 0 has no target. -/
def writeCgtgt (d : Dev) (g : Nat) (v : Word) : Dev :=
  if g = 0 then d
  else if bitOf d (TICK.CGCTL g) 0 then (armOp d [g] v).1
  else wr d (TICK.CGTGT g) v

def execCgtgtWrite (g : Fin 16) (v : Word) (s : State) : Out := clocked s (fun d => writeCgtgt d g v)

/-- A write to `CGCTL`: it sets `LATEMODE`, disarms, or arms a group that reads unarmed (R43); group 0 stays armed. -/
def writeCgctl (d : Dev) (g : Nat) (v : Word) : Dev :=
  let was := bitOf d (TICK.CGCTL g) 0
  let d := sf d (TICK.CGCTL g) TICK.CGCTL_LATEMODE (fget TICK.CGCTL_LATEMODE v)
  if g = 0 then d
  else if v.getLsbD 0 then
    if was then d else (armOp d [g] (rd d (TICK.CGTGT g))).1
  else setBit d (TICK.CGCTL g) 0 false

def execCgctlWrite (g : Fin 16) (v : Word) (s : State) : Out := clocked s (fun d => writeCgctl d g v)

/-- A write to `TBCMPk` arms compare k (R57). -/
def writeTbcmp (d : Dev) (k : Nat) (v : Word) : Dev :=
  { wr d (TICK.TBCMP k) v with tbArm := store d.tbArm k (some d.now) none }

def execTbcmpWrite (k : Fin 4) (v : Word) (s : State) : Out := clocked s (fun d => writeTbcmp d k v)

/-- The first FABRIC edge after the arming instant `a` at which a compare is at-or-past (R27, R54, R55). -/
def compareAt (d : Dev) (a : Nat) (c : Word) : Nat :=
  let e := edgeAt d (fabDiv d) (a + 1)
  let k : Word := BitVec.ofNat 32 (tbAt d e)
  if atOrPast k c then e else edgeAt d (fabDiv d) (e + (c - k).toNat)

/-- An armed compare fires there: the flag is set, its source rises, and it is disarmed (R57). -/
def fireTbcmp (d : Dev) (k : Nat) : Dev :=
  match look d.tbArm k none with
  | some a =>
    let d := advance d d.tbHold
    let d := advanceTo d (compareAt d a (rd d (TICK.TBCMP k)))
    raise { setBit d TICK.TBCSTAT k true with tbArm := store d.tbArm k none none } (4 + k)
  | none => d

def execTbcmpFire (k : Fin 4) (s : State) : Out := clocked s (fun d => fireTbcmp d k)

end Sys2Proof.Machine
end

