-- ==== Sys2Proof/Machine/Twin.lean ====
section
/-! DEFINITION. Twins: binding, items received, takeover, yielding and what a tick sends (R450 to R466). The resync image is
applied by the tick (Machine/Tick.lean). -/

namespace Sys2Proof.Machine

open Sys2Proof

def twState (d : Dev) : Nat := gf d PAIRC.TWSTAT PAIRC.TWSTAT_STATE
def twSet (d : Dev) (f : TwinSt → TwinSt) : Dev := { d with twin := f d.twin }

/-! The resync image (R453): both copies of every ticked register and the firmware area, with its end. -/

/-- Words of the firmware area. -/
def areaWords (d : Dev) : List Word :=
  (List.range (gf d PAIRC.TWMIR PAIRC.TWMIR_LEN)).map (fun i => rdW d (4096 * gf d PAIRC.TWMIR PAIRC.TWMIR_BASE + 4 * i))

def twinImage (d : Dev) : List MirItem :=
  tickedRegs.flatMap (fun r => [.image r.addr true (rd d r), .image r.addr false (rdPend d r)])
    ++ [.area 0 (areaWords d), .imageEnd]

/-- The image is to be sent. DEDUCED: log entry 30. -/
def imageStart (d : Dev) : Dev :=
  let l := twinImage d
  wr (twSet d (fun x => { x with image := l })) PAIRC.TWRSZ (w32 (l.map mirSize).sum)

/-! Binding (R450, R451). -/

/-- The member becomes ACTIVE: `TWINACT` is asserted. -/
def twinActive (d : Dev) : Dev := sf (sf d PAIRC.TWSTAT PAIRC.TWSTAT_STATE 4) PAIRC.TWSTAT PAIRC.TWSTAT_ACT 1

/-- A bound member takes its role; no heartbeat is missed before the tick that follows. -/
def twinRole (d : Dev) : Dev :=
  if twState d = 1 && d.twin.bound then
    let mine := gf d PAIRC.TWCFG PAIRC.TWCFG_PREF = 1
    let active := !d.twin.pact && (if mine = d.twin.ppref then ownPip d % 2 = 0 else mine)
    let d := twSet d (fun x => { x with hb := some (tnoLow d), miss := 0, div := false, sigT := false, sw := false, sigs := [] })
    if active then imageStart (twinActive d) else twinLeave d 2
  else d

/-- A bind request: byte 0 holds `PREF` in bit 0 and ACTIVE in bit 1. An ACTIVE member sends a new partner the image. DESIGN
CHOICE: log entry 29. -/
def bindReceive (d : Dev) (payload : List Byte) : Dev :=
  let b := (payload.headD 0).toNat
  let d := twSet d (fun x => { x with bound := true, ppref := b.testBit 0, pact := b.testBit 1 })
  if twState d = 4 then (if d.twin.image.isEmpty then imageStart d else d) else twinRole d

def bindSend (d : Dev) : Dev :=
  toPartner d 4 6 (leBytes 4 (gf d PAIRC.TWCFG PAIRC.TWCFG_PREF + if twState d = 4 then 2 else 0))

/-- The commit of the twin registers (R450): `EN` = 1 enters BINDING, `EN` = 0 leaves the twin. -/
def twinCommit (d : Dev) : Dev :=
  let d := forEach [PAIRC.TWCFG, PAIRC.TWMIR] commitReg d
  let en := gf d PAIRC.TWCFG PAIRC.TWCFG_EN = 1
  if en && twState d = 0 then sf (sf d PAIRC.TWSTAT PAIRC.TWSTAT_STATE 1) PAIRC.TWSTAT PAIRC.TWSTAT_ACT 0
  else if !en && twState d ≠ 0 then
    let held := twinHold d
    let d := sf (sf { d with twin := {} } PAIRC.TWSTAT PAIRC.TWSTAT_STATE 0) PAIRC.TWSTAT PAIRC.TWSTAT_ACT 1
    let d := sf d PAIRC.TWSTAT PAIRC.TWSTAT_PEERRDY 0
    if held then twinLegsOn d else d
  else d

/-! Items received (R454 to R459). -/

/-- A heartbeat (R457): the partner's `TWINACT` follows its state. DEDUCED: log entry 31. -/
def heartbeat (d : Dev) (tno : Word) (st : Nat) (rline : Byte) (div : Nat) : Dev :=
  let d := twSet d (fun x => { x with hb := some tno, rline := rline.setWidth 32, div := x.div || div ≠ 0 })
  let d := sf d PAIRC.TWSTAT PAIRC.TWSTAT_PEERRDY (if st = 3 || st = 4 then 1 else 0)
  let d := sf d PAIRC.TWSTAT PAIRC.TWSTAT_PEER (if st = 4 then 1 else 0)
  if st = 4 && twState d = 1 then twinRole (twSet d (fun x => { x with bound := true, pact := true })) else d

/-- A late item (R456). -/
def mirLate (d : Dev) (late : Bool) : Dev :=
  if late then bump (twinFlag d 5) PAIRC.TWCNTB PAIRC.TWCNTB_MIRLATE else d

/-- An item of the active member, or of either (R454, R457, R461). DEDUCED: log entry 40. -/
def mirReceive (d : Dev) (it : MirItem) : Dev :=
  let st := twState d
  let standby := st = 2 || st = 3
  match it with
  | .heartbeat tno s rl dv _ => if st = 0 then d else heartbeat d tno s.toNat rl dv.toNat
  | .notice _ => twSet d (fun x => { x with div := true })
  | .switchover => if st = 3 then twSet d (fun x => { x with sw := true }) else d
  | .write a v late =>
    if standby then
      match tickedAt a with
      | some r => mirLate (setPend d r v) late
      | none => d
    else d
  | .arm m tgt late => if standby then mirLate (armOp d (maskGroups m.toNat) tgt).1 late else d
  | .curd c r sig => if st = 3 then sigArrive d false c.toNat r.toNat sig else d
  | .loop n x q => if standby then wr (wr d (LE.LINTD n.val) x) (LE.LINTQ n.val) q else d
  | .area o ws =>
    if standby then
      forEach ws.zipIdx (fun d e =>
        let a := 4096 * gf d PAIRC.TWMIR PAIRC.TWMIR_BASE + 4 * (o.toNat + e.2)
        if inSram a then sramWrite d a (tBits e.1) else d) d
    else d
  | .image a act v =>
    let d := if st = 5 then sf d PAIRC.TWSTAT PAIRC.TWSTAT_STATE 2 else d
    if twState d = 2 then twSet d (fun x => { x with got := x.got ++ [.image a act v] }) else d
  | .imageEnd => if st = 2 then twSet d (fun x => { x with last := true }) else d

def execMirrorReceive (it : MirItem) (s : State) : Out := clocked s (fun d => mirReceive d it)

/-! Commands and the partner's `TWINACT` (R461, R463). -/

/-- `TWPEER` asserted for 64 PERIPH cycles: a member ACTIVE since before this tick yields (R463). DEDUCED: log entry 31. -/
def twinYield (d : Dev) : Dev :=
  let d := sf d PAIRC.TWSTAT PAIRC.TWSTAT_PEER 1
  if twState d = 4 && !d.twin.fresh then twinPost (twinFlag (twinLeave d 2) 1) else d

def execYield (s : State) : Out := clocked s twinYield

/-- `TWCMD.SWITCH` (R461): an ACTIVE member passes the request on. DEDUCED: log entry 40. -/
def twinSwitch (d : Dev) : Dev :=
  match twState d with
  | 3 => twSet d (fun x => { x with sw := true })
  | 4 => mirQueue d .switchover
  | _ => d

def execSwitch (s : State) : Out := clocked s twinSwitch

/-- `TWCMD.REBIND`: an ACTIVE member sends a partner in RESYNC or FAILED the image. -/
def twinRebind (d : Dev) : Dev :=
  if twState d = 4 && gf d PAIRC.TWSTAT PAIRC.TWSTAT_PEERRDY = 0 then imageStart d else d

def execRebind (s : State) : Out := clocked s twinRebind

/-! The tick (R453 to R463). -/

/-- The heartbeat of the tick before is missed (R457). DEDUCED: log entry 31. -/
def hbCheck (d : Dev) : Dev :=
  if d.twin.hb = some (tnoLow d - 1) then twSet d (fun x => { x with miss := 0 })
  else twSet (bump (twinFlag d 3) PAIRC.TWCNTA PAIRC.TWCNTA_HBMISS) (fun x => { x with miss := x.miss + 1 })

/-- The lowest cause of takeover that holds (R461); a trip line of the active member counts where its heartbeat came. -/
def toCause (d : Dev) : Option Nat :=
  let x := d.twin
  if 2 ≤ x.miss then some 1
  else if x.div then some 2
  else if x.miss = 0 && (gf d PAIRC.TWCFG PAIRC.TWCFG_RFLT &&& x.rline.toNat &&& (255 - x.line)) ≠ 0 then some 3
  else if x.sigT && gf d PAIRC.TWCFG PAIRC.TWCFG_SIGTO = 1 then some 4
  else if x.sw then some 5
  else none

def twinTakeover (d : Dev) (cause : Nat) : Dev :=
  let d := twinActive d
  let d := wr (sf d PAIRC.TWLAST PAIRC.TWLAST_CAUSE cause) PAIRC.TWTNO (tnoLow d)
  let d := twinLegsOn (twinFlag d 2)
  twinPost (twSet d (fun x => { x with fresh := true, peerT := some (tnoLow d), sigs := [] }))

/-- `TWPEER` asserted through the whole tick after the own takeover (R463). -/
def peerCheck (d : Dev) : Dev :=
  match d.twin.peerT with
  | some t =>
    if t = tnoLow d then d
    else
      let d := twSet d (fun x => { x with peerT := none })
      if twState d = 4 && gf d PAIRC.TWSTAT PAIRC.TWSTAT_PEER = 1 then twinFlag d 0 else d
  | none => d

/-- Signatures that wait too long count as missing (R459). -/
def sigExpire (d : Dev) : Dev :=
  let old (e : SigSt) : Bool := decide (gf d PAIRC.TWCFG PAIRC.TWCFG_SDL ≤ d.tickno.toNat - e.tick)
  let n := (d.twin.sigs.filter old).length
  if n = 0 then d
  else
    let d := bump (twinFlag d 4) PAIRC.TWCNTA PAIRC.TWCNTA_SIGF n
    twSet d (fun x => { x with sigs := x.sigs.filter (fun e => !old e), sigT := true })

/-- The image goes out with what is left of the budget (R453). DEDUCED: log entry 30. -/
def imageSend : List MirItem → Dev → Dev
  | [], d => twSet d (fun x => { x with image := [] })
  | it :: l, d =>
    if d.twin.sent + mirSize it ≤ mirMax d then
      imageSend l (toPartner (twSet d (fun x => { x with sent := x.sent + mirSize it })) 2 (mirRank it) (mirBytes it))
    else twSet d (fun x => { x with image := it :: l })

/-- The tick's items: the heartbeat of either member, then of the active one loop states and the firmware area (R454). -/
def mirTick (d : Dev) : Dev :=
  let d := if twState d = 4 then imageSend d.twin.image d else d
  let overflow := twState d = 4 && !d.twin.out.isEmpty
  let d := if overflow then bump (twinFlag d 6) PAIRC.TWCNTB PAIRC.TWCNTB_MIROVF else d
  let last := d.twin.sent
  let d := sf d PAIRC.TWMBYTES PAIRC.TWMBYTES_LAST last
  let own := d.twin.own.toNat &&& gf d PAIRC.TWCFG PAIRC.TWCFG_PMASK
  let line := tripLines d
  let d := twSet d (fun x => { x with sent := 0, own := 0, line := line })
  let d := mirQueue d (.heartbeat (tnoLow d) (BitVec.ofNat 3 (twState d)) (BitVec.ofNat 8 line) (BitVec.ofNat 4 own) (BitVec.ofNat 16 last))
  if twState d = 4 then
    let d := forEach ((List.range 16).filter (fun n =>
        gf d (LE.LSTAT n) LE.LSTAT_STATE = 2 && gf d (LE.LCTL n) LE.LCTL_DRIVE = 1)) (fun d n =>
      mirQueue d (.loop (Fin.ofNat 16 n) (rd d (LE.LINTD n)) (rd d (LE.LINTQ n)))) d
    if gf d PAIRC.TWMIR PAIRC.TWMIR_LEN = 0 then d else mirQueue d (.area 0 (areaWords d))
  else d

/-- Cycle 0 of a full-rate tick for the twin, after the image is applied. -/
def twinTick (d : Dev) : Dev :=
  match twState d with
  | 0 => d
  | 1 => bindSend d
  | _ =>
    let d := hbCheck (twSet d (fun x => { x with fresh := false }))
    let d := if twState d = 3 then (match toCause d with | some k => twinTakeover d k | none => d) else d
    let d := twSet d (fun x => { x with sigT := false, sw := false, div := false })
    let d := sigExpire (peerCheck d)
    mirTick d

end Sys2Proof.Machine
end

