-- ==== Sys2Proof/Machine/Chain.lean ====
section
/-! DEFINITION. The Filian chain: links and time, frames, the shelf, enumeration and topology (R596 to R638). -/

namespace Sys2Proof.Machine

open Sys2Proof

def chFlag (d : Dev) (b : Nat) : Dev := setFlag d CHAIN.CHSTAT b (gf d CHAIN.CHSEL CHAIN.CHSEL_IE) 208
def chSet (d : Dev) (f : ChainSt → ChainSt) : Dev := { d with chain := f d.chain }
def portSt (d : Dev) (p : Nat) : Nat := gf d (CHAIN.CHPSTAT p) CHAIN.CHPSTAT_STATE
def parentPort (d : Dev) : Option Nat :=
  let k := gf d CHAIN.CHPOS CHAIN.CHPOS_PARENT
  if k = 0 then none else some (k - 1)
def isHead (d : Dev) : Bool := gf d CHAIN.CHSTAT CHAIN.CHSTAT_HEAD = 1
def slewing (d : Dev) : Bool := gf d CHAIN.CHSTAT CHAIN.CHSTAT_SLEW = 1

/-- A port changes its state: LINKF (R638). -/
def portState (d : Dev) (p st : Nat) : Dev :=
  if portSt d p = st then d else chFlag (sf d (CHAIN.CHPSTAT p) CHAIN.CHPSTAT_STATE st) 0

/-! Alignment (R608, R611). -/

/-- `ALN` ends, where it was 1 with its flag and its count. -/
def alnLose (d : Dev) : Dev :=
  if gf d CHAIN.CHSTAT CHAIN.CHSTAT_ALN = 1 then
    bump (chFlag (sf d CHAIN.CHSTAT CHAIN.CHSTAT_ALN 0) 1) CHAIN.CHTERR CHAIN.CHTERR_ALNL
  else d
def alnGain (d : Dev) : Dev := chSet (sf d CHAIN.CHSTAT CHAIN.CHSTAT_ALN 1) (fun x => { x with aligned := true })

/-! Training (R605, R606, R609). -/

/-- The partner leaves electrical idle. DEDUCED: log entry 51. -/
def linkWake (d : Dev) (p : Nat) : Dev :=
  if portSt d p = 0 && (gf d CHAIN.CHCFG CHAIN.CHCFG_PORTEN).testBit p && gateOpen d 17 then
    portState { d with port := put d.port p {} } p 1
  else d

def execPartnerLeavesElectricalIdle (p : Fin 3) (s : State) : Out := clocked s (fun d => linkWake d p)

/-- The wiring check (R598). -/
def wiringGood (p : Nat) (x : Peer) : Bool :=
  !x.joined && (match p with | 0 => x.kind = 2 | 1 => x.kind = 1 | _ => x.kind = 3)

/-- A time base, phase and tick number of the HEAD unit are loaded (R609). -/
def timeLoad (d : Dev) (x : Peer) : Dev :=
  { d with tb := d.tb + BitVec.ofInt 64 x.off, tphase := x.tphase, tickno := x.tickno }

/-- Time is settled at the end of training (R609); for a HEAD unit at a cold start `x.off` is the largest time base reported
less its own. DEDUCED: log entry 35. -/
def timeSettle (d : Dev) (x : Peer) : Dev :=
  if isHead d then
    if gf d CHAIN.CHSTAT CHAIN.CHSTAT_ENUM < 2 && decide (0 < x.off) then timeLoad d x else d
  else if !x.parent then d
  else if !d.chain.aligned && decide (0 ≤ x.off) then timeLoad d x
  else
    let d := chSet d (fun y => { y with off := 32 * x.off })
    if x.off.natAbs ≤ 16384 then
      if x.off = 0 then d
      else
        let d := sf d CHAIN.CHSTAT CHAIN.CHSTAT_SLEW 1
        chSet d (fun y => { y with slewAt := d.now + 32 * fabDiv d })
    else chSet (chFlag d 4) (fun y => { y with far := true })

/-- The delay shown, from its finer value. -/
def delayShow (d : Dev) (p : Nat) : Dev :=
  wr d (CHAIN.CHPDLY p) (w32 (((look d.port p {}).d + 32768) / 65536 % 65536).toNat)

/-- A link completes training (R605): it is refused, or it is FULL and time is settled. -/
def linkTrained (d : Dev) (p : Nat) (x : Peer) : Dev :=
  if portSt d p = 1 then
    let d := sf d (CHAIN.CHPSTAT p) CHAIN.CHPSTAT_PKIND x.kind.toNat
    let d := sf d (CHAIN.CHPSTAT p) CHAIN.CHPSTAT_PPIP (match x.pip with | some q => q.toNat | none => 0)
    if !wiringGood p x then chFlag (portState d p 4) 7
    else
      let d := if x.parent && !isHead d then
          let y := look d.port p {}
          let d := { d with port := put d.port p { y with d := if y.n = 0 then y.d else y.acc * 32768 / (y.n : Int) } }
          let d := delayShow (sf d CHAIN.CHPOS CHAIN.CHPOS_PARENT (p + 1)) p
          chSet (sf d SYSCFG.SCSTAT SYSCFG.SCSTAT_REFSRC (p + 1)) (fun y => { y with eps := [], stepAt := none, lost := false })
        else if (parentPort d).isNone || d.chain.lost then sf d SYSCFG.SCSTAT SYSCFG.SCSTAT_REFSRC 0 else d
      portState (timeSettle d x) p 2
  else d

def execLinkTrained (p : Fin 3) (x : Peer) (s : State) : Out := clocked s (fun d => linkTrained d p x)

/-- A link-scope frame (R613). -/
def linkFrame (d : Dev) (p cls sub : Nat) (payload : List Byte) : Dev :=
  let q := newFrame d 0 3 cls sub payload
  enqueue q.2 p q.1

/-- A DREQ is answered (R606, R617): the turn-round in 52.08 ps steps is a free value. -/
def dreqReceive (d : Dev) (p : Nat) : Dev :=
  if portUp d p || portSt d p = 1 then
    let r := draw d
    let d := r.2
    linkFrame d p 1 2 (leBytes 8 (Config.freeNat r.1) ++ leBytes 8 d.tb.toNat ++ leBytes 8 (d.tickno.toNat)
      ++ leBytes 4 d.tphase ++ leBytes 4 (rd d TICK.TICKPER).toNat)
  else d

def execDreq (p : Fin 3) (s : State) : Out := clocked s (fun d => dreqReceive d p)

/-- A DRSP, `rtt` steps after its DREQ (R606): one of the training's exchanges, or a correction of d by 1/16. DEDUCED: log
entry 34. -/
def drspReceive (d : Dev) (p rtt : Nat) (f : Frame) : Dev :=
  let asym : Int := (BitVec.ofNat 16 (gf d (CHAIN.CHPASYM p) CHAIN.CHPASYM_ASYM)).toInt
  let v : Int := (rtt : Int) - (ofLeBytes (f.payload.take 8) : Int) + asym
  let y := look d.port p {}
  if portSt d p = 1 then { d with port := put d.port p { y with acc := y.acc + v, n := y.n + 1 } }
  else if portUp d p && parentPort d = some p then
    delayShow { d with port := put d.port p { y with d := y.d + (v * 32768 - y.d) / 16 } } p
  else d

def execDrsp (p : Fin 3) (rtt : Nat) (f : Frame) (s : State) : Out := clocked s (fun d => drspReceive d p rtt f)

/-! Markers, slewing and jumps (R607 to R612). -/

/-- `TJUMP` closes the offset at a marker: forward at once, or the time base stands (R610). DESIGN CHOICE: log entry 21. -/
def timeJump (d : Dev) : Dev :=
  let e := d.chain.off / 32
  let d := chSet d (fun x => { x with jump := false, far := false, off := 0 })
  if 0 ≤ e then
    let per := gf d TICK.TICKPER TICK.TICKPER_PER
    let t := d.tphase + e.toNat
    { d with tb := d.tb + BitVec.ofNat 64 e.toNat, tphase := t % per, tickno := d.tickno + BitVec.ofNat 48 (t / per),
             huskRan := true }
  else { d with tbHold := e.natAbs, huskRan := true }

/-- A marker from the parent (R607, R608, R610, R612). DEDUCED: log entry 34. -/
def markerReceive (d : Dev) (p : Nat) (m : Marker) : Dev :=
  if parentPort d = some p && portSt d p = 2 then
    let l := (m.eps :: d.chain.eps).take 16
    let mean := l.sum / (l.length : Int)
    let d := wr (chSet d (fun x => { x with eps := l })) CHAIN.CHOFS (ofInt ((mean + 50) / 100))
    let due := match d.chain.stepAt with | some t => decide (16 ≤ d.tickno.toNat - t) | none => true
    let d := if l.length = 16 && decide (2604 < mean.natAbs) && due then
        bump (chSet d (fun x => { x with stepAt := some d.tickno.toNat })) CHAIN.CHSTEP CHAIN.CHSTEP_CNT
      else d
    let d := if d.chain.jump then timeJump d else d
    let d := if d.chain.fix then
        { chSet d (fun x => { x with fix := false }) with tphase := m.phase, tickno := m.tickno, huskRan := true }
      else d
    if m.aln && !slewing d && !d.chain.far && decide (mean.natAbs ≤ 4500) then alnGain d else alnLose d
  else d

def execTickMarkerReceive (p : Fin 3) (m : Marker) (s : State) : Out := clocked s (fun d => markerReceive d p m)

/-- A slewing unit moves one step at each 32 FABRIC cycles (R609). DEDUCED: log entry 34. -/
def slewStep (d : Dev) : Dev :=
  if slewing d then
    let d := advanceTo d d.chain.slewAt
    let o := d.chain.off
    let o' := if 0 < o then o - 1 else if o < 0 then o + 1 else 0
    let d := chSet d (fun x => { x with off := o', slewAt := d.now + 32 * fabDiv d })
    if o' = 0 then sf d CHAIN.CHSTAT CHAIN.CHSTAT_SLEW 0 else d
  else d

def execSlewStep (s : State) : Out := clocked s slewStep

/-- A write of 1 to `CHCMD.TJUMP` (R610). -/
def writeTjump (d : Dev) : Dev :=
  if gateOpen d 17 && bitOf d CHAIN.CHSTAT 4 && d.chain.far then chSet d (fun x => { x with jump := true }) else d

def execTjump (s : State) : Out := clocked s writeTjump

/-! Links that go down (R611, R615, R616). -/

/-- A unicast MGMT frame of this unit that is no ACK waits for one (R616). -/
def ackWanted (d : Dev) (f : Frame) : Bool :=
  f.cls = 4 && f.scope = 0 && f.sub ≠ 8 && f.src.toNat = ownPip d
    && !d.chAck.any (fun a => a.frame.seq = f.seq)

def ackWait (d : Dev) (p : Nat) (f : Frame) : Dev :=
  if ackWanted d f then { d with chAck := d.chAck ++ [⟨p, f, d.now + 12000, 0⟩] } else d

/-- Every frame waiting in a port's queue is dropped (R615). -/
def queueDrop (d : Dev) (p : Nat) : Dev :=
  let l := look d.chq p []
  let d := forEach l (fun d f => ackWait d p f) { d with chq := del d.chq p }
  if l.isEmpty then d else bump d (CHAIN.CHPERR p) CHAIN.CHPERR_LOST l.length

/-- A link goes down. -/
def linkDown (d : Dev) (p : Nat) : Dev :=
  queueDrop (portState (wr d (CHAIN.CHPSTAT p) (rd d (CHAIN.CHPSTAT p) &&& 0xE0000000)) p 0) p

/-- A command of a chain port: with the root clocks stopped the Husk still runs lane 0 of each low-rate port (R632, R633; log
entry 73). -/
def onPort (s : State) (p : Nat) (f g : Dev → Dev) : Out :=
  if s.pwr.root then .next { s with dev := f s.dev }
  else if s.pwr.crystal && portSt s.dev p = 3 then .next { s with dev := g s.dev }
  else .next s

/-- The parent link is lost (R611); its frames are dropped by PORT_QUEUE_DROP. `CHPOS` keeps its value. -/
def parentLoss (d : Dev) : Dev :=
  match parentPort d with
  | some p =>
    if d.chain.lost then d
    else
      let d := portState (chSet d (fun x => { x with lost := true })) p 0
      let d := chFlag (sf d CHAIN.CHSTAT CHAIN.CHSTAT_ALN 0) 1
      bump d CHAIN.CHTERR CHAIN.CHTERR_ALNL
  | none => d

def execParentLinkLoss (s : State) : Out := clocked s parentLoss

/-- The oldest unacknowledged frame is repeated, or given up after three repeats (R616). -/
def mgmtRetry (d : Dev) : Dev :=
  match d.chAck with
  | [] => d
  | a :: l =>
    let d := advanceTo { d with chAck := l } a.due
    if a.tries < 3 then
      let d := { d with chAck := l ++ [{ a with due := d.now + 12000, tries := a.tries + 1 }] }
      if portUp d a.port then enqueue d a.port a.frame else d
    else bump d (CHAIN.CHPERR a.port) CHAIN.CHPERR_LOST

def execMgmtRetry (s : State) : Out := clocked s mgmtRetry

/-- The second copy of a broadcast MGMT frame (R616). -/
def mgmtSecond (d : Dev) : Dev :=
  match d.chTwice with
  | [] => d
  | (t, f) :: l => flood (advanceTo { d with chTwice := l } t) f none

def execMgmtSecondCopy (s : State) : Out := clocked s mgmtSecond

/-! Routes and forwarding (R615, R626). -/

/-- The child of pip `me` through which pip `q` hangs, by the parents known. -/
def routeChild (d : Dev) (me : Nat) : Nat → Nat → Option Nat
  | 0, _ => none
  | n + 1, q =>
    match find d.chain.parent q with
    | none => none
    | some u => if u = me then some q else routeChild d me n u

/-- The port of a parent towards a child, from the child's port towards its parent. -/
def childPort (pport : Nat) : Nat := match pport with | 1 => 1 | 2 => 0 | _ => 2

/-- The port towards a pip: to the child through which it hangs, else to the parent. A frame for the twin that reaches its
even member while that is not ACTIVE goes on to the odd member (R6). DEDUCED: log entry 78. -/
def routeTo (d : Dev) (q : Nat) : Option Nat :=
  if hasPip d && q = ownPip d then
    if q % 2 = 0 && (twState d = 2 || twState d = 3 || twState d = 5) then some (partnerPort d) else none
  else match routeChild d (ownPip d) 64 q with
  | some c => some (childPort (gf d (CHAIN.CHTOPO c) CHAIN.CHTOPO_PARENT))
  | none => if (find d.chain.parent q).isSome || q = 0 then parentPort d else none

/-- A unicast frame goes towards its destination; one of this unit's MGMT frames that finds its port down is repeated too
(R615, R616). DEDUCED: log entry 78. -/
def sendTo (d : Dev) (f : Frame) : Dev :=
  match routeTo d f.dst.toNat with
  | some p => ackWait (if portUp d p then enqueue d p f else d) p f
  | none => d

/-- This unit answers a unicast frame: its own pip, or as ACTIVE twin member its twin's (R6, R7). -/
def answers (d : Dev) (f : Frame) : Bool :=
  let st := twState d
  let bound := decide (2 ≤ st)
  let q := f.dst.toNat
  hasPip d && (
    (q = ownPip d && (!bound || ownPip d % 2 = 1 || st = 4 || f.src.toNat = partnerPip d))
      || (bound && st = 4 && ownPip d % 2 = 1 && q + 1 = ownPip d && f.src.toNat ≠ q))

/-- A unit in a frame's scope accepts it. -/
def inScope (d : Dev) (f : Frame) : Bool :=
  match f.scope with
  | 0 => answers d f
  | 1 => hasPip d && f.dst.toNat / 32 = ownPip d / 32
  | _ => true

def forward (d : Dev) (p : Nat) (f : Frame) : Dev :=
  match f.scope with
  | 0 => if answers d f then d else sendTo d f
  | 3 => d
  | _ => flood d f (some p)

/-! Topology (R598 to R602, R624 to R631). -/

def unitAt (l : List UnitInfo) (serial : BitVec 64) : Option UnitInfo := l.find? (fun u => u.serial = serial)
def unitParent (l : List UnitInfo) (u : UnitInfo) : Option UnitInfo := u.parent.bind (unitAt l)

/-- A unit and its ancestors. -/
def unitUp (l : List UnitInfo) : Nat → UnitInfo → List UnitInfo
  | 0, u => [u]
  | n + 1, u => u :: (match unitParent l u with | some v => unitUp l n v | none => [])

/-- Labels of the chains in the order of R624. -/
def chainOrder (l : List UnitInfo) : Nat → List Nat → List Nat → List Nat
  | 0, _, done => done
  | _, [], done => done
  | n + 1, c :: q, done =>
    let entries := l.filter (fun u => u.pport = 3 && (unitParent l u).any (fun v => v.chain = c)
      && !(c :: q ++ done).contains u.chain)
    let at' (u : UnitInfo) : Nat := match unitParent l u with | some v => v.phys | none => 0
    let new := ((sortBy (fun a b => decide (at' a ≤ at' b)) entries).map UnitInfo.chain).eraseDups
    chainOrder l n (q ++ new) (done ++ [c])

/-- An entry of the saved map: serial number and pip (R625). -/
def savedMap (d : Dev) : List (Nat × Nat) :=
  (List.range (gf d CHAIN.CHMAPLEN CHAIN.CHMAPLEN_N)).map (fun i =>
    let a := 16 * gf d CHAIN.CHMAPADR CHAIN.CHMAPADR_ADDR + 16 * i
    (ofLeBytes (rdBytes d a 8), ofLeBytes (rdBytes d (a + 8) 2) % 512))

def lowestFree (used : List Nat) (cand : List Nat) : Option Nat := cand.find? (fun q => !used.contains q)

/-- Chain numbers of the chains in order: by the map, else the lowest free; the spine is chain 0 (R3, R624, R625). -/
def chainNumbers (l : List UnitInfo) (map : List (Nat × Nat)) : List Nat → Bool → List (Nat × Nat) → List (Nat × Nat)
  | [], _, acc => acc
  | c :: q, first, acc =>
    let us := sortBy (fun (a b : UnitInfo) => decide (a.phys ≤ b.phys)) (l.filter (fun u => u.chain = c))
    let pick := (us.filterMap (fun u => (map.find? (fun e => e.1 = u.serial.toNat)).map (fun e => e.2 / 32))).head?
    let used := acc.map (·.2)
    let n := if first then some 0
      else match pick with
        | some k => if used.contains k then lowestFree used (List.range 16) else some k
        | none => lowestFree used (List.range 16)
    chainNumbers l map q false (match n with | some k => acc ++ [(c, k)] | none => acc)

/-- The pip of each unit of a cold start: with no map its physical index, with one the map's pip, else the lowest free
position of its chain. -/
def coldPips (l : List UnitInfo) (map : List (Nat × Nat)) (nums : List (Nat × Nat)) : List (Nat × UnitInfo) :=
  let base (u : UnitInfo) : Option Nat := (nums.find? (fun e => e.1 = u.chain)).map (fun e => 32 * e.2)
  if map.isEmpty then
    l.filterMap (fun u => match base u with | some b => if u.phys < 32 then some (b + u.phys, u) else none | none => none)
  else
    let head := (l.filter (fun u => u.parent.isNone)).map (fun u => (0, u))
    let rest := l.filter (fun u => u.parent.isSome)
    let byMap := rest.foldl (fun acc u =>
      match base u, map.find? (fun e => e.1 = u.serial.toNat) with
      | some b, some e => if e.2 / 32 * 32 = b && !acc.any (fun x => x.1 = e.2) then acc ++ [(e.2, u)] else acc
      | _, _ => acc) head
    (sortBy (fun (a b : UnitInfo) => decide (a.phys ≤ b.phys)) rest).foldl (fun acc u =>
      if acc.any (fun x => x.2.serial = u.serial) then acc
      else match base u with
        | some b =>
          match lowestFree (acc.map (·.1)) ((List.range 32).map (b + ·)) with
          | some q => acc ++ [(q, u)]
          | none => acc
        | none => acc) byMap

/-- Distance of two units in the tree. -/
def unitDist (l : List UnitInfo) (a b : UnitInfo) : Nat :=
  let x := unitUp l 512 a
  let y := unitUp l 512 b
  let common := (x.filter (fun u => y.contains u)).length
  x.length + y.length - 2 * common

def longestPath (l : List UnitInfo) : Nat :=
  l.foldl (fun m a => l.foldl (fun m b => max m (unitDist l a b)) m) 0

/-- The `CHTOPO` word of a unit. -/
def topoWord (l : List UnitInfo) (u : UnitInfo) : Word :=
  w32 (2 ^ 31 + u.phys % 32 * 2 ^ 25 + u.pport.toNat * 2 ^ 23 + ((unitUp l 512 u).length - 1) % 128 * 2 ^ 16
    + u.vmaj.toNat * 2 ^ 12 + u.vmin.toNat * 2 ^ 8)

/-- The topology table of the HEAD unit takes the units with their pips. -/
def topoPut (d : Dev) (l : List UnitInfo) (pips : List (Nat × UnitInfo)) : Dev :=
  forEach pips (fun d e =>
    let d := wr d (CHAIN.CHTOPO e.1) (topoWord l e.2)
    let par := (unitParent l e.2).bind (fun v => (pips.find? (fun x => x.2.serial = v.serial)).map (·.1))
    chSet d (fun x => { x with serial := put x.serial e.1 e.2.serial.toNat,
                               parent := match par with | some q => put x.parent e.1 q | none => del x.parent e.1 })) d

/-- A MAP entry of the model: the `CHTOPO` word, the pip, and the pip of its parent or 0xFFFF. DEDUCED: log entry 33. -/
def mapEntry (d : Dev) (q : Nat) : List Byte :=
  leBytes 4 (rd d (CHAIN.CHTOPO q)).toNat ++ leBytes 2 q ++ leBytes 2 (match find d.chain.parent q with | some u => u | none => 0xFFFF)

/-- An ENUM frame of the model to a port: a word laid out as `CHPOS`. DEDUCED: log entry 33. -/
def enumSend (d : Dev) (q : Nat) : Dev :=
  let w := rd d (CHAIN.CHTOPO q)
  let p := childPort (fget CHAIN.CHTOPO_PARENT w)
  if portUp d p then
    linkFrame d p 4 0 (leBytes 4 (2 ^ 31 + fget CHAIN.CHTOPO_PHYS w * 2 ^ 20 + fget CHAIN.CHTOPO_HOPS w * 2 ^ 12 + q))
  else d

/-- ENUM to the units that hang from this one, among the pips listed. -/
def enumChildren (d : Dev) (qs : List Nat) : Dev :=
  forEach (qs.filter (fun q => find d.chain.parent q = some (ownPip d))) enumSend d

def mapChunks (d : Dev) : Nat → List Nat → Dev
  | 0, _ => d
  | _, [] => d
  | n + 1, qs => mapChunks (broadcast d 2 4 1 ((qs.take 32).flatMap (mapEntry d))) n (qs.drop 32)

/-- The pips listed in the topology table. -/
def topoPips (d : Dev) : List Nat := (List.range 512).filter (fun q => rd d (CHAIN.CHTOPO q) ≠ 0)

/-- The HEAD unit tells the topology: ENUM to its neighbours, MAP to all, and its own `ENUMF` (R626). -/
def topoTell (d : Dev) : Dev :=
  let qs := topoPips d
  chFlag (mapChunks (enumChildren d qs) 16 qs) 2

/-- The HEAD unit enumerates the units it reaches (R602, R608, R624 to R626, R630). -/
def enumerate (d : Dev) (l : List UnitInfo) (map : List (Nat × Nat)) : Dev :=
  match l.find? (fun u => u.parent.isNone) with
  | none => d
  | some h =>
    let nums := chainNumbers l map (chainOrder l (l.length + 1) [h.chain] []) true []
    let d := forEach (topoPips d) (fun d q => wr d (CHAIN.CHTOPO q) 0) d
    let d := chSet d (fun x => { x with serial := [], parent := [], wait := none })
    let d := topoPut d l (coldPips l map nums)
    let d := wr d CHAIN.CHPOS (w32 (2 ^ 31 + h.phys % 32 * 2 ^ 20))
    let far := longestPath l
    let d := sf d CHAIN.CHLONG CHAIN.CHLONG_HOPS far
    let d := if 46 < far then chFlag d 8 else d
    let minor := l.foldl (fun m u => min m u.vmin.toNat) (gf d CHAIN.CHVER CHAIN.CHVER_MIN)
    let d := broadcast (sf d CHAIN.CHVER CHAIN.CHVER_RMIN minor) 2 4 2 (leBytes 4 (1 + 256 * minor))
    alnGain (topoTell (sf d CHAIN.CHSTAT CHAIN.CHSTAT_ENUM 2))

/-- Enumeration at a cold start; with `MAPHOLD` the HEAD unit waits for `MAPGO`. -/
def enumeration (d : Dev) (l : List UnitInfo) : Dev :=
  if isHead d && gf d CHAIN.CHSTAT CHAIN.CHSTAT_ENUM < 2 then
    if gf d CHAIN.CHCFG CHAIN.CHCFG_MAPHOLD = 1 then
      chSet (sf d CHAIN.CHSTAT CHAIN.CHSTAT_ENUM 1) (fun x => { x with wait := some l })
    else enumerate d l []
  else d

def execEnumeration (units : List UnitInfo) (s : State) : Out := clocked s (fun d => enumeration d units)

/-- A write of 1 to `CHCMD.MAPGO` (R624, R636). -/
def writeMapgo (d : Dev) : Dev :=
  if gateOpen d 17 then
    match d.chain.wait with
    | some l => enumerate d l (savedMap d)
    | none => chFlag d 9
  else d

def execMapgo (s : State) : Out := clocked s writeMapgo

/-- Pips in use or held, and one's holder. -/
def pipHolder (d : Dev) (serial : BitVec 64) : Option Nat :=
  (d.chain.serial.find? (fun e => e.2 = serial.toNat)).map (·.1)

/-- The pip of a unit that joins (R623, R627, R631). -/
def joinPip (d : Dev) (l : List UnitInfo) (u : UnitInfo) : Option Nat :=
  match pipHolder d u.serial with
  | some q => some q
  | none =>
    if u.vmaj.toNat ≠ gf d CHAIN.CHVER CHAIN.CHVER_RMAJ || decide (u.vmin.toNat < gf d CHAIN.CHVER CHAIN.CHVER_RMIN) then none
    else
      let used := d.chain.serial.map (·.1)
      let mates := (l.filter (fun v => v.chain = u.chain)).filterMap (fun v => pipHolder d v.serial)
      let base := match mates.head? with
        | some q => some (q / 32)
        | none => lowestFree (used.map (· / 32)) (List.range 16)
      base.bind (fun b => lowestFree used ((List.range 32).map (32 * b + ·)))

/-- Units that have joined or gone: pips given or held, and the table told again (R627 to R629). -/
def retopo (d : Dev) (l : List UnitInfo) : Dev :=
  if isHead d && gf d CHAIN.CHSTAT CHAIN.CHSTAT_ENUM = 2 then
    let gone := d.chain.serial.filter (fun e => !l.any (fun u => u.serial.toNat = e.2))
    let d := forEach gone (fun d e =>
      if gf d (CHAIN.CHTOPO e.1) CHAIN.CHTOPO_V = 1 then
        sf (sf d (CHAIN.CHTOPO e.1) CHAIN.CHTOPO_V 0) (CHAIN.CHTOPO e.1) CHAIN.CHTOPO_HELD 1
      else d) d
    let d := forEach (sortBy (fun (a b : UnitInfo) => decide (a.phys ≤ b.phys)) l) (fun d u =>
      match joinPip d l u with
      | some q => chSet d (fun x => { x with serial := put x.serial q u.serial.toNat })
      | none => d) d
    let pips := l.filterMap (fun u => (pipHolder d u.serial).map (fun q => (q, u)))
    topoTell (topoPut d l pips)
  else d

def execUnitAttach (units : List UnitInfo) (s : State) : Out := clocked s (fun d => retopo d units)
def execUnitDeparture (units : List UnitInfo) (s : State) : Out := clocked s (fun d => retopo d units)

/-- A write of 1 to `CHCMD.RELEASE` (R628). -/
def writeRelease (d : Dev) : Dev :=
  if gateOpen d 17 then
    let q := gf d CHAIN.CHCMD CHAIN.CHCMD_PIP
    if gf d (CHAIN.CHTOPO q) CHAIN.CHTOPO_V = 1 then chFlag d 9
    else if gf d (CHAIN.CHTOPO q) CHAIN.CHTOPO_HELD = 1 then
      let d := broadcast (wr d (CHAIN.CHTOPO q) 0) 2 4 1 (leBytes 4 0 ++ leBytes 2 q ++ leBytes 2 0xFFFF)
      chSet (chFlag d 2) (fun x => { x with serial := del x.serial q, parent := del x.parent q })
    else d
  else d

def execRelease (s : State) : Out := clocked s writeRelease

/-! Frames received (R612, R615 to R617, R630). -/

/-- ENUM: the position and chain assigned, on the port of the parent. DEDUCED: log entry 33. -/
def enumReceive (d : Dev) (p : Nat) (payload : List Byte) : Dev :=
  let w := BitVec.ofNat 32 (ofLeBytes (payload.take 4))
  if isHead d then d
  else if fget CHAIN.CHPOS_V w = 1 then
    chFlag (sf (wr d CHAIN.CHPOS (fset CHAIN.CHPOS_PARENT (w &&& 0x81F7F1FF) (p + 1))) CHAIN.CHSTAT CHAIN.CHSTAT_ENUM 2) 2
  else sf (sf d CHAIN.CHPOS CHAIN.CHPOS_V 0) CHAIN.CHSTAT CHAIN.CHSTAT_ENUM 3

/-- MAP: entries of the topology table, and ENUM to the children they name. -/
def mapReceive : Nat → List Byte → Dev → Dev
  | 0, _, d => d
  | _, [], d => d
  | n + 1, b, d =>
    let q := ofLeBytes ((b.drop 4).take 2) % 512
    let u := ofLeBytes ((b.drop 6).take 2)
    let d := wr d (CHAIN.CHTOPO q) (BitVec.ofNat 32 (ofLeBytes (b.take 4)) &&& 0xFFFFFF00)
    let d := chSet d (fun x => { x with parent := if u < 512 then put x.parent q u else del x.parent q })
    mapReceive n (b.drop 8) (enumChildren d [q])

/-- VERSION: the running version; one that this unit does not support costs it its pip (R631). -/
def versionReceive (d : Dev) (payload : List Byte) : Dev :=
  let maj := (payload.getD 0 0).toNat
  let mnr := (payload.getD 1 0).toNat
  let d := sf (sf d CHAIN.CHVER CHAIN.CHVER_RMAJ maj) CHAIN.CHVER CHAIN.CHVER_RMIN mnr
  if maj = 1 && mnr ≤ 1 then d
  else chFlag (sf (sf d CHAIN.CHPOS CHAIN.CHPOS_V 0) CHAIN.CHSTAT CHAIN.CHSTAT_ENUM 3) 6

/-- TOPO: the HEAD unit takes the sender's position (R617, R629). DEDUCED: log entry 35. -/
def topoReceive (d : Dev) (src : Nat) (payload : List Byte) : Dev :=
  let w := BitVec.ofNat 32 (ofLeBytes (payload.take 4))
  if isHead d && gf d CHAIN.CHVER CHAIN.CHVER_RMIN = 1 && gf d (CHAIN.CHTOPO src) CHAIN.CHTOPO_V = 1 then
    let d := sf d (CHAIN.CHTOPO src) CHAIN.CHTOPO_PHYS (fget CHAIN.CHPOS_PHYS w)
    sf (sf d (CHAIN.CHTOPO src) CHAIN.CHTOPO_PARENT (fget CHAIN.CHPOS_PARENT w)) (CHAIN.CHTOPO src) CHAIN.CHTOPO_HOPS
      (fget CHAIN.CHPOS_HOPS w)
  else d

/-- An accepted MGMT frame by its subtype; RESET and VOTE are commands of their own. -/
def mgmtAccept (d : Dev) (p : Nat) (f : Frame) : Dev :=
  match f.sub.toNat with
  | 0 => if f.scope = 3 then enumReceive d p f.payload else d
  | 1 => chFlag (mapReceive 32 f.payload d) 2
  | 2 => versionReceive d f.payload
  | 3 => (armOp d (maskGroups (ofLeBytes (f.payload.take 2))) (BitVec.ofNat 32 (ofLeBytes ((f.payload.drop 4).take 4)))).1
  | 4 => chSet d (fun x => { x with wake := true })
  | 6 => bindReceive d f.payload
  | 8 => { d with chAck := d.chAck.filter (fun a => !(a.frame.seq.toNat = ofLeBytes (f.payload.take 2)
              && a.frame.sub.toNat = (f.payload.getD 2 0).toNat && a.frame.dst = f.src)) }
  | 9 =>
    if !portUp d p then d
    else if (f.payload.getD 0 0).toNat = 1 then portState d p 3
    else if portSt d p = 3 then portState { d with port := put d.port p {} } p 1
    else d
  | 10 => topoReceive d f.src.toNat f.payload
  | _ => d

/-- A MGMT frame in scope: a unicast one is acknowledged, and each is accepted once (R616, R617). -/
def mgmtReceive (d : Dev) (p : Nat) (f : Frame) : Dev :=
  let sub := f.sub.toNat
  if 10 < sub then d
  else
    let d := if f.scope = 0 && sub ≠ 8 then
        let q := newFrame d f.src.toNat 0 4 8 (leBytes 2 f.seq.toNat ++ leBytes 2 sub)
        sendTo q.2 q.1
      else d
    let key := (f.src.toNat + (if f.nopip then 512 else 0), f.seq.toNat)
    if d.chain.seen.contains key then d
    else mgmtAccept (chSet d (fun x => { x with seen := (key :: x.seen).take 16 })) p f

/-- A frame arrives on a port: whole, with a bad CRC, or cut short by the loss of the link, which a bad frame at a port that
is down stands for (R615). DEDUCED: log entry 78. -/
def frameReceive (d : Dev) (p : Nat) (good : Bool) (f : Frame) : Dev :=
  if portUp d p then
    if !good then bump d (CHAIN.CHPERR p) CHAIN.CHPERR_CRC
    else
      let d := forward d p f
      if f.cls = 4 && inScope d f then mgmtReceive d p f else d
  else if !good then bump d (CHAIN.CHPERR p) CHAIN.CHPERR_LOST
  else d

/-- What the Husk alone does with a frame: it passes it on, and accepts a WAKE frame (R662). DEDUCED: log entry 73. -/
def huskFrame (d : Dev) (p : Nat) (good : Bool) (f : Frame) : Dev :=
  if !good then bump d (CHAIN.CHPERR p) CHAIN.CHPERR_CRC
  else
    let d := forward d p f
    if f.cls = 4 && f.sub = 4 && inScope d f then mgmtReceive d p f else d

def execFrameReceive (p : Fin 3) (good : Bool) (f : Frame) (s : State) : Out :=
  onPort s p (frameReceive · p good f) (huskFrame · p good f)

/-- A SYNC frame against the own values (R612). -/
def syncReceive (d : Dev) (f : Frame) : Dev :=
  let tno := ofLeBytes (f.payload.take 6)
  let per := BitVec.ofNat 32 (ofLeBytes ((f.payload.drop 8).take 4))
  if tno = d.tickno.toNat && per = rd d TICK.TICKPER then d
  else
    let d := bump (chFlag d 3) CHAIN.CHTERR CHAIN.CHTERR_TK
    if gf d CHAIN.CHCFG CHAIN.CHCFG_TKFIX = 1 then
      let d := wr { d with pend := del d.pend TICK.TICKPER.addr } TICK.TICKPER (per &&& 0x7FFFFF)
      chSet d (fun x => { x with fix := true })
    else d

def execSyncReceive (f : Frame) (s : State) : Out := clocked s (fun d => syncReceive d f)

/-- The index of the class that goes first (R614). -/
def firstOf (l : List Frame) : Option Frame :=
  let best := l.foldl (fun m f => min m f.cls.toNat) 8
  l.find? (fun f => f.cls.toNat = best)

/-- A port sends its first frame; MIRROR and XDATA do not cross a low-rate link (R614, R633). -/
def frameSend (d : Dev) (p : Nat) : Dev :=
  match firstOf (look d.chq p []) with
  | none => d
  | some f =>
    if portUp d p then
      let l := (look d.chq p []).erase f
      let d := { d with chq := if l.isEmpty then del d.chq p else put d.chq p l }
      if portSt d p = 3 && (f.cls = 2 || f.cls = 3) then bump d (CHAIN.CHPERR p) CHAIN.CHPERR_LOST
      else ackWait d p f
    else d

/-! The shelf (R619 to R622). -/

def xlat (d : Dev) : Nat := gf d CHAIN.XCFG CHAIN.XCFG_XLAT

/-- A frame of the shelf: written to its slot, or counted late. DEDUCED: log entry 35. -/
def xdataReceive (d : Dev) (f : Frame) : Dev :=
  let p := f.src.toNat
  let lo := gf d CHAIN.XCFG CHAIN.XCFG_XLO
  if inScope d f && !f.nopip && gf d CHAIN.XCFG CHAIN.XCFG_SUB = 1 && lo ≤ p && p < lo + 32 && (rd d CHAIN.XSUB).getLsbD (p - lo) then
    let age := ((tnoLow d).setWidth 16 - f.seq).toNat
    if xlat d ≤ age && age < 32768 then bump (chFlag d 5) CHAIN.XERR CHAIN.XERR_LATE
    else
      let b := f.seq.toNat % 4
      let a := 32768 * gf d CHAIN.XRBASE CHAIN.XRBASE_ADDR + 8192 * b + 256 * (p - lo)
      let d := forEach (List.range (f.payload.length / 4)) (fun d i =>
        sramWrite d (a + 4 * i) (tBits (BitVec.ofNat 32 (ofLeBytes ((f.payload.drop (4 * i)).take 4))))) d
      setBit d (CHAIN.XPRES b) (p - lo) true
  else d

def execXdataReceive (f : Frame) (s : State) : Out := clocked s (fun d => xdataReceive d f)

/-- The unit publishes its block of the tick before (R619). DEDUCED: log entry 78. -/
def xPublish (d : Dev) : Dev :=
  if gf d CHAIN.XCFG CHAIN.XCFG_PUB = 1 then
    let a := 512 * gf d CHAIN.XPBASE CHAIN.XPBASE_ADDR + 256 * ((d.tickno.toNat + 1) % 2)
    let ws := (List.range (gf d CHAIN.XCFG CHAIN.XCFG_NW)).flatMap (fun i => rdBytes d (a + 4 * i) 4)
    let f : Frame := ⟨BitVec.ofNat 9 (ownPip d), if gf d CHAIN.XCFG CHAIN.XCFG_SCOPE = 1 then 1 else 2, BitVec.ofNat 9 (ownPip d),
      !hasPip d, 3, 0, (tnoLow d).setWidth 16, ws⟩
    xdataReceive (flood d f none) f
  else d

/-- Frames of the shelf that have not left in time (R622). DEDUCED: log entry 78. -/
def xDrop (d : Dev) : Dev :=
  forEach [0, 1, 2] (fun d p =>
    let l := look d.chq p []
    let late (f : Frame) : Bool :=
      f.cls = 3 && f.src.toNat = ownPip d && decide (xlat d ≤ ((tnoLow d).setWidth 16 - f.seq).toNat)
    let n := (l.filter late).length
    if n = 0 then d
    else bump { d with chq := store d.chq p (l.filter (fun f => !late f)) [] } CHAIN.XERR CHAIN.XERR_DROP n) d

/-- Cycle 0 of a full-rate tick for the chain (R606, R612, R619 to R622). -/
def chainTick (d : Dev) : Dev :=
  let d := wr d (CHAIN.XPRES (d.tickno.toNat % 4)) 0
  let d := xPublish (xDrop d)
  let d := if isHead d && gf d CHAIN.CHSTAT CHAIN.CHSTAT_ENUM = 2 && d.tickno.toNat % 256 = 0 then
      broadcast d 2 1 0 (leBytes 8 d.tickno.toNat ++ leBytes 8 (rd d TICK.TICKPER).toNat
        ++ (if gf d CHAIN.CHVER CHAIN.CHVER_RMIN = 1 then leBytes 8 d.tickts.toNat else []))
    else d
  match parentPort d with
  | some p => if portSt d p = 2 && d.tickno.toNat % 1024 = 0 then linkFrame d p 1 1 [] else d
  | none => d

/-! Low rate (R632, R634). -/

/-- Coarse markers move the HUSK edges by one crystal cycle, 25 ns, at a time; `off` is in 3.125 ns. -/
def coarseReceive (d : Dev) (p : Nat) (off : Int) : Dev :=
  if portSt d p = 3 then
    let l := off :: d.chain.coarse
    if l.length < 16 then chSet d (fun x => { x with coarse := l })
    else
      let mean := l.sum / 16
      let k : Int := if 4 < mean then -1 else if mean < -4 then 1 else 0
      chSet d (fun x => { x with coarse := [], husk := x.husk + k })
  else d

def execCoarseMarkerReceive (p : Fin 3) (off : Int) (s : State) : Out := onDev s (fun d => coarseReceive d p off)

/-- Ports that are up tell their partner and go to low rate (R632). -/
def chainLow (d : Dev) : Dev :=
  forEach (portsUp d) (fun d p => portState (linkFrame d p 4 9 (leBytes 4 1)) p 3) d

/-- At full clocks again, low-rate links train (R663). -/
def chainTrain (d : Dev) : Dev :=
  forEach [0, 1, 2] (fun d p => if portSt d p = 3 then portState { d with port := put d.port p {} } p 1 else d) d

/-! Configuration (R637). -/

def chainTicked (o : Nat) (v : Word) : Option (Reg × Word × Bool) :=
  match o with
  | 0x000 => some (CHAIN.CHCFG, 0x707, false)
  | 0x048 => some (CHAIN.CHPASYM 0, 0xFFFF, false)
  | 0x058 => some (CHAIN.CHPASYM 1, 0xFFFF, false)
  | 0x068 => some (CHAIN.CHPASYM 2, 0xFFFF, false)
  | 0x080 => some (CHAIN.XCFG, 0xFFF001FF, decide (64 < fget CHAIN.XCFG_NW v) || fget CHAIN.XCFG_XLAT v = 0
      || (fget CHAIN.XCFG_SCOPE v = 1 && fget CHAIN.XCFG_XLO v % 32 ≠ 0))
  | 0x084 =>
    let a := 512 * fget CHAIN.XPBASE_ADDR v
    some (CHAIN.XPBASE, 0xFFFFFE00, !(inSram a && inSram (a + 511)))
  | 0x088 =>
    let a := 32768 * fget CHAIN.XRBASE_ADDR v
    some (CHAIN.XRBASE, 0xFFFF8000, !(inSram a && inSram (a + 32767)))
  | 0x08C => some (CHAIN.XSUB, 0xFFFFFFFF, false)
  | _ => none

def writeChainTicked (d : Dev) (addr : Nat) (v : Word) : Dev :=
  let o := addr - 0x40080000
  let o := if 0x800 ≤ o then o - 0x800 else o
  if 0x40080000 ≤ addr && gateOpen d 17 then
    match chainTicked o v with
    | none => d
    | some (r, m, bad) => if bad then chFlag d 9 else wrPend d r (v &&& m)
  else d

def execChainConfigWrite (addr : Nat) (v : Word) (s : State) : Out := clocked s (fun d => writeChainTicked d addr v)

/-- The commit of the chain's registers: a port that is no longer enabled goes down. -/
def chainCommit (d : Dev) : Dev :=
  let d := forEach [CHAIN.CHCFG, CHAIN.CHPASYM 0, CHAIN.CHPASYM 1, CHAIN.CHPASYM 2, CHAIN.XCFG, CHAIN.XPBASE, CHAIN.XRBASE, CHAIN.XSUB]
    commitReg d
  forEach [0, 1, 2] (fun d p =>
    if !(gf d CHAIN.CHCFG CHAIN.CHCFG_PORTEN).testBit p && portSt d p ≠ 0 then linkDown d p else d) d

end Sys2Proof.Machine
end

