-- ==== Sys2Proof/Machine/PinMux.lean ====
section
/-! DEFINITION. GPIO pins: levels, edges, trip pins and their configuration (R713 to R722). -/

namespace Sys2Proof.Machine

open Sys2Proof

def pmuxFunc (d : Dev) (n : Nat) : Nat := gf d (PINMUX.PMUX n) PINMUX.PMUX_FUNC
def pmuxInv (d : Dev) (n : Nat) : Bool := gf d (PINMUX.PMUX n) PINMUX.PMUX_INV = 1

/-- A 64-bit word with one bit at `v`. -/
def bitPut (w : BitVec 64) (n : Nat) (v : Bool) : BitVec 64 :=
  if v then w ||| BitVec.ofNat 64 (2 ^ n) else w &&& ~~~BitVec.ofNat 64 (2 ^ n)

/-- The level on pin n: as driven for the outputs, else as last told from outside (R715, R720). DEDUCED: log entry 36. -/
def pinLevel (d : Dev) (n : Nat) : Bool :=
  match pmuxFunc d n with
  | 2 => bitOf d (PINMUX.GPOUT (n / 32)) (n % 32) != pmuxInv d n
  | 5 => tripLine d (n % 8) != pmuxInv d n
  | _ => d.pinLvl.getLsbD n

/-- The bit of `GPIN` (R716). DEDUCED: log entry 36. -/
def gpinShow (d : Dev) (n : Nat) : Dev :=
  setBit d (PINMUX.GPIN (n / 32)) (n % 32) (pmuxFunc d n ≠ 0 && (d.pinSyn.getLsbD n != pmuxInv d n))

/-- The synchronised level changes: the edges that `EDGE` selects are those of the level XOR `INV` (R716). -/
def pinSync (d : Dev) (n : Nat) (lvl : Bool) : Dev :=
  if d.pinSyn.getLsbD n = lvl then d
  else
    let d := gpinShow { d with pinSyn := bitPut d.pinSyn n lvl } n
    let rise := lvl != pmuxInv d n
    if (gf d (PINMUX.PMUX n) PINMUX.PMUX_EDGE).testBit (if rise then 0 else 1) then raise d (272 + n) else d

/-- A pin level change reaches the synchroniser's output. DEDUCED: log entry 36. -/
def gpioEdge (d : Dev) (n : Nat) (lvl : Bool) : Dev :=
  let d := { d with pinLvl := bitPut d.pinLvl n lvl }
  if pmuxFunc d n = 0 then d else pinSync d n (pinLevel d n)

def execGpioEdge (n : Fin 64) (lvl : Bool) (s : State) : Out := clocked s (fun d => gpioEdge d n lvl)

/-- A TRIPIN pin that is active (R719). -/
def tripPinOn (d : Dev) (n : Nat) : Bool := pmuxFunc d n = 4 && (d.pinLvl.getLsbD n != pmuxInv d n)

/-- The latch bits that TRIPIN pins hold. -/
def tripPins (d : Dev) : Nat :=
  (List.range 64).foldl (fun m n => if tripPinOn d n then m ||| 2 ^ (n % 8) else m) 0

def tripPinLatch (d : Dev) (n : Nat) : Dev := if tripPinOn d n then setBit d RIND.RILAT (8 + n % 8) true else d

/-- A pin takes a level: with TRIPIN an active one sets its latch without a clock. -/
def tripPin (d : Dev) (n : Nat) (lvl : Bool) : Dev := tripPinLatch { d with pinLvl := bitPut d.pinLvl n lvl } n

def execTripin (n : Fin 64) (lvl : Bool) (s : State) : Out := onDev s (fun d => tripPin d n lvl)

/-- A write of `RILAT`: a software latch that a TRIPIN pin holds stays (R190, R719). -/
def writeRilat (d : Dev) (v : Word) : Dev :=
  if gateOpen d 10 then
    tripRefresh (wr d RIND.RILAT (rd d RIND.RILAT &&& ~~~(v &&& 0xFFFF &&& ~~~BitVec.ofNat 32 (256 * tripPins d))))
  else d

/-- A write at 0x018 to 0x02C of PINMUX (R717): output, set or clear. -/
def writeGpout (d : Dev) (off : Nat) (v : Word) : Dev :=
  let h := off / 4 % 2
  let r := PINMUX.GPOUT h
  if off % 4 ≠ 0 then d
  else if 0x18 ≤ off && off < 0x20 then wr d r v
  else if 0x20 ≤ off && off < 0x28 then wr d r (rd d r ||| v)
  else if 0x28 ≤ off && off < 0x30 then wr d r (rd d r &&& ~~~v)
  else d

def execGpoutWrite (off : Nat) (v : Word) (s : State) : Out := clocked s (fun d => writeGpout d off v)

/-- A ticked write; a reserved function is refused (R721). -/
def writePmux (d : Dev) (addr : Nat) (v : Word) : Dev :=
  let o := addr - 0x40300000
  let o := if 0x800 ≤ o then o - 0x800 else o
  if 0x40300000 ≤ addr && 0x100 ≤ o && o < 0x200 && o % 4 = 0 then
    if 6 ≤ fget PINMUX.PMUX_FUNC v then setBit d PINMUX.PXSTAT 0 true
    else wrPend d (PINMUX.PMUX ((o - 0x100) / 4)) (v &&& 0x1FC7)
  else d

def execPinmuxConfigWrite (addr : Nat) (v : Word) (s : State) : Out := clocked s (fun d => writePmux d addr v)

/-- The claims of a function (R715). -/
def pinWant (n f : Nat) : List (Nat × Bool) :=
  match f with
  | 0 => []
  | 3 => [(resPin (ballGpio n), true), (resTrigger (n % 32), true)]
  | 4 => [(resPin (ballGpio n), true), (resTrip (n % 8), true)]
  | 5 => [(resPin (ballGpio n), true), (resTrip (n % 8), true)]
  | _ => [(resPin (ballGpio n), true)]

/-- The commit of `PMUXn`: a new function takes its claims; the synchroniser starts at the present level (R715, R716). -/
def pinCommit (d : Dev) (n : Nat) : Dev :=
  let f0 := pmuxFunc d n
  let f1 := fget PINMUX.PMUX_FUNC (rdPend d (PINMUX.PMUX n))
  let claim :=
    if f1 = 0 then (releaseClaims d (ownPin n), true)
    else if f1 = f0 then (d, true)
    else takeClaims d (ownPin n) (pinWant n f1)
  if claim.2 then
    let d := commitReg claim.1 (PINMUX.PMUX n)
    let lvl := f1 ≠ 0 && (if f0 = 0 then pinLevel d n else d.pinSyn.getLsbD n)
    tripPinLatch (gpinShow { d with pinSyn := bitPut d.pinSyn n lvl } n) n
  else claim.1

end Sys2Proof.Machine
end

