-- ==== Sys2Proof/Machine/Timers.lean ====
section
/-! DEFINITION. The 32 general timer channels (R59 to R67, R735, R741). A channel's counter is kept as the value it had
where its prescaler last restarted, and its count is worked out from the time passed. -/

namespace Sys2Proof.Machine

open Sys2Proof

def gptMode (d : Dev) (n : Nat) : Nat := gf d (GPT.GCFG n) GPT.GCFG_MODE
def gptRld (d : Dev) (n : Nat) : Nat := (rd d (GPT.GRLD n)).toNat
/-- Counts of the time base per count of the channel: two per PERIPH cycle, times the prescaler. -/
def gptStep (d : Dev) (n : Nat) : Nat := 2 * (gf d (GPT.GCFG n) GPT.GCFG_PRESC + 1)

/-- How often the channel has counted since its prescaler restarted. -/
def gptTicks (d : Dev) (n : Nat) : Nat := (d.now - (look d.gpt n {}).t0) / gptStep d n

/-- The count after `k` counts from `base` (R61, R64). -/
def gptAfter (mode rld base k : Nat) (run : Bool) : Nat :=
  match mode with
  | 1 => (base + k) % 2 ^ 32
  | 2 => if k = 0 then base else if rld < base then (k - 1) % (rld + 1) else (base + k) % (rld + 1)
  | 3 => if run then (base + k) % 2 ^ 32 else base
  | _ => base

/-- The channel's counter now; before the PERIPH edge of a load it is still the old one. -/
def gptCount (d : Dev) (n : Nat) : Nat :=
  let g := look d.gpt n {}
  if d.now < g.t0 then g.prev else gptAfter (gptMode d n) (gptRld d n) g.base (gptTicks d n) g.run

def setGpt (d : Dev) (n : Nat) (g : GptSt) : Dev := { d with gpt := store d.gpt n g {} }

/-- The count the channel held just before the PERIPH edge at or after now (R66). -/
def gptBefore (d : Dev) (n : Nat) : Nat :=
  let e := edgeAt d 2 d.now
  if e ≤ (look d.gpt n {}).t0 then (look d.gpt n {}).prev else gptCount { d with now := e - 1 } n

/-- The channel counts on from `base` at the instant `t0`. -/
def gptRebase (d : Dev) (n : Nat) (base t0 : Nat) : Dev :=
  setGpt d n { look d.gpt n {} with base := base, t0 := t0, prev := gptBefore d n }

/-- The counter set to `v` other than by counting: the prescaler restarts at the PERIPH edge (R741). -/
def gptLoad (d : Dev) (n : Nat) (v : Nat) : Dev :=
  let e := edgeAt d 2 d.now
  let d := gptRebase d n v e
  setGpt d n { look d.gpt n {} with ev := e }

/-- A flag of `GSTAT` is set; the channel's source rises where it is enabled (R67). -/
def gptFlag (d : Dev) (n : Nat) (b : Nat) : Dev :=
  setFlag d (GPT.GSTAT n) b (gf d (GPT.GSEL n) GPT.GSEL_IE) (16 + n)

/-- Codes of `CAPSEL` that name no capture source (R735). -/
def capselReserved (v : Word) : Bool :=
  let c := fget GPT.GCFG_CAPSEL v
  0x02 ≤ c && c ≤ 0x1F

/-- A write to `GCFG`: its pending copy, unless the capture source is reserved (R735). -/
def writeGcfg (d : Dev) (n : Nat) (v : Word) : Dev :=
  if gateOpen d 0 then
    if capselReserved v then gptFlag d n 4 else wrPend d (GPT.GCFG n) (v &&& 0xFFFF03)
  else d

def execGcfgWrite (n : Fin 32) (v : Word) (s : State) : Out := clocked s (fun d => writeGcfg d n v)

/-- A write to `GCNT` loads the counter (R65). -/
def writeGcnt (d : Dev) (n : Nat) (v : Word) : Dev := if gateOpen d 0 then gptLoad d n v.toNat else d

def execGcntWrite (n : Fin 32) (v : Word) (s : State) : Out := clocked s (fun d => writeGcnt d n v)

/-- A write to `GCMP` arms the compare, and starts a ONESHOT counter from 0 (R61). -/
def writeGcmp (d : Dev) (n : Nat) (v : Word) : Dev :=
  if gateOpen d 0 then
    let d := wr d (GPT.GCMP n) v
    let d := setGpt d n { look d.gpt n {} with armed := true, ev := d.now }
    if gptMode d n = 3 then
      let d := gptLoad d n 0
      setGpt d n { look d.gpt n {} with run := true }
    else d
  else d

def execGcmpWrite (n : Fin 32) (v : Word) (s : State) : Out := clocked s (fun d => writeGcmp d n v)

/-- The channel counts: a running mode, and in ONESHOT a counter that has not stopped. -/
def gptCounting (d : Dev) (n : Nat) : Bool :=
  gptMode d n = 1 || gptMode d n = 2 || (gptMode d n = 3 && (look d.gpt n {}).run)

/-- The instant of the channel's `i`-th count since `t0`. -/
def gptDue (d : Dev) (n : Nat) (i : Nat) : Nat := (look d.gpt n {}).t0 + i * gptStep d n

/-- The number since `t0` of the count at which the compare fires: the first one evaluated after its arming that is at or
past the value (R54, R55); in PERIODIC mode none where the period ends first. -/
def gptToCompare (d : Dev) (n : Nat) : Option Nat :=
  let g := look d.gpt n {}
  let i := if g.ev < g.t0 then 0 else (g.ev - g.t0) / gptStep d n + 1
  let k : Word := BitVec.ofNat 32 (g.base + i)
  let cmp := rd d (GPT.GCMP n)
  let i := if atOrPast k cmp then i else i + (cmp - k).toNat
  if gptMode d n = 2 then if g.base + i ≤ gptRld d n then some i else none
  else some i

/-- The armed compare of a counting channel fires: `CMPF` is set, the trigger event GPT n is made, a ONESHOT counter
stops, and the compare stays disarmed until its mode re-arms it (R54, R61). -/
def fireGpt (d : Dev) (n : Nat) : Dev :=
  if (look d.gpt n {}).armed && gptCounting d n && gateOpen d 0 then
    match gptToCompare d n with
    | none => d
    | some i =>
      let d := gptFlag (advanceTo d (gptDue d n i)) n 0
      if gptMode d n = 3 then
        let d := gptRebase d n (((look d.gpt n {}).base + i) % 2 ^ 32) d.now
        setGpt d n { look d.gpt n {} with run := false, armed := false }
      else setGpt d n { look d.gpt n {} with armed := false }
  else d

def execGptCompareFire (n : Fin 32) (s : State) : Out := clocked s (fun d => fireGpt d n)

/-- A FREE counter wraps to 0 and sets `WRAPF` (R61); the prescaler runs on (R741). -/
def wrapGpt (d : Dev) (n : Nat) : Dev :=
  if gptMode d n = 1 && gateOpen d 0 then
    let t := gptDue d n (2 ^ 32 - (look d.gpt n {}).base)
    gptFlag (gptRebase (advanceTo d t) n 0 t) n 3
  else d

def execGptWrap (n : Fin 32) (s : State) : Out := clocked s (fun d => wrapGpt d n)

/-- The number since `t0` of the count at which a PERIODIC counter returns to 0 (R61, R64). -/
def gptToReturn (d : Dev) (n : Nat) : Nat :=
  if gptRld d n < (look d.gpt n {}).base then 1 else gptRld d n + 1 - (look d.gpt n {}).base

/-- A PERIODIC counter returns to 0 and its compare is re-armed (R61). -/
def endGptPeriod (d : Dev) (n : Nat) : Dev :=
  if gptMode d n = 2 && gateOpen d 0 then
    let t := gptDue d n (gptToReturn d n)
    let d := gptRebase (advanceTo d t) n 0 t
    setGpt d n { look d.gpt n {} with armed := true, ev := t }
  else d

def execGptPeriodEnd (n : Fin 32) (s : State) : Out := clocked s (fun d => endGptPeriod d n)

/-- The capture source's edge, `dt` counts on, copies the counter as it was before that PERIPH edge (R66). -/
def captureGpt (d : Dev) (n : Nat) (dt : Nat) : Dev :=
  let d := advance d dt
  if gf d (GPT.GCFG n) GPT.GCFG_CAPSEL ≠ 0 && gateOpen d 0 then
    let had := bitOf d (GPT.GSTAT n) 1
    let d := wr d (GPT.GCAP n) (BitVec.ofNat 32 (gptBefore d n))
    if had then gptFlag d n 2 else gptFlag d n 1
  else d

def execGptCapture (n : Fin 32) (dt : Nat) (s : State) : Out := clocked s (fun d => captureGpt d n dt)

/-- A committed `GCFG` of a channel (R60, R63, R741): a change of mode or prescaler restarts the prescaler with the count
kept, and a change to ONESHOT starts the counter from 0 with its compare re-armed. -/
def commitGcfg (d : Dev) (n : Nat) (v : Word) : Dev :=
  let old := rd d (GPT.GCFG n)
  let c := gptCount d n
  let m := fget GPT.GCFG_MODE v
  let chg := fget GPT.GCFG_MODE old ≠ m || fget GPT.GCFG_PRESC old ≠ fget GPT.GCFG_PRESC v
  let d := wr (if chg then gptLoad d n c else d) (GPT.GCFG n) v
  if fget GPT.GCFG_MODE old ≠ m then
    if m = 3 then setGpt (gptLoad d n 0) n { look (gptLoad d n 0).gpt n {} with run := true, armed := true }
    else setGpt d n { look d.gpt n {} with run := false }
  else d

/-- A committed `GRLD`: the count goes on from where it is (R60, R64). -/
def commitGrld (d : Dev) (n : Nat) (v : Word) : Dev :=
  let t := (look d.gpt n {}).t0
  let d := if d.now < t then d else gptRebase d n (gptCount d n) (d.now - (d.now - t) % gptStep d n)
  wr d (GPT.GRLD n) v

/-- `TICKRST`: at a full-rate tick the counter returns to 0 and the compare is re-armed; a stopped ONESHOT counter starts
again (R62). -/
def gptTickReset (d : Dev) (n : Nat) : Dev :=
  if gptMode d n ≠ 0 && gf d (GPT.GCFG n) GPT.GCFG_TICKRST = 1 && gateOpen d 0 then
    let d := gptLoad d n 0
    setGpt d n { look d.gpt n {} with armed := true, run := gptMode d n = 3 }
  else d

/-- `GFLAGS`: bit n is 1 where channel n has a flag set. -/
def gflags (d : Dev) : Word :=
  BitVec.ofNat 32 ((List.range 32).foldl (fun a n => if (rd d (GPT.GSTAT n)) = 0 then a else a + 2 ^ n) 0)

end Sys2Proof.Machine
end

