-- ==== Sys2Proof/Machine/SysCtl.lean ====
section
/-! DEFINITION. System control: crystal and PLL, divisors and voltage, clock gates, pin claims, sleep and wake, debug freeze,
halting and stepping, the test access port and the trace port (R639 to R680). -/

namespace Sys2Proof.Machine

open Sys2Proof

/-! Crystal and PLL (R639, R641, R663, R666). -/

/-- The crystal counts as stable: at start-up only. DEDUCED: log entry 1. -/
def execCrystalStable (s : State) : Out :=
  .next (if s.pwr.crystal || s.dev.off then s else { s with pwr := ⟨true, false, false, false, false⟩ })

/-! Divisors and voltage (R643 to R646). -/

/-- A combination of `SCLK` that exists (R643). -/
def sclkValid (v : Word) : Bool :=
  let f := fget SYSCFG.SCLK_FDIV v
  f < 3 && (fget SYSCFG.SCLK_VLOW v = 0 || (fget SYSCFG.SCLK_CDIV v = 1 && f ≠ 0))

/-- The divisors of a word are applied; the Press follows the FABRIC clock (R282, R646). DEDUCED: log entry 37. -/
def sclkApply (d : Dev) (v : Word) : Dev := pressFit (wr d SYSCFG.SCLK v)

/-- The commit of `SCLK` (R643, R645): one that raises the voltage applies its divisors later. DEDUCED: log entry 37. -/
def sclkCommit (d : Dev) : Dev :=
  let v := rdPend d SYSCFG.SCLK
  let v0 := rd d SYSCFG.SCLK
  if v = v0 then d
  else if !sclkValid v
      || gf d FLASHC.FLCTL FLASHC.FLCTL_WS < minWs (fget SYSCFG.SCLK_FDIV v) (fget SYSCFG.SCLK_VLOW v = 1) then scFlag d 0
  else
    let d := { d with pend := del d.pend SYSCFG.SCLK.addr }
    if fget SYSCFG.SCLK_VLOW v0 = 1 && fget SYSCFG.SCLK_VLOW v = 0 then
      let d := sf (sf d SYSCFG.SCLK SYSCFG.SCLK_VLOW 0) SYSCFG.SCSTAT SYSCFG.SCSTAT_VPEND 1
      { d with vset := some (v, d.now + 600 * gf d SYSCFG.SVSET SYSCFG.SVSET_US), vsetDone := false }
    else sclkApply { d with vset := none, vsetDone := false } v

/-- The settling time has passed; the next full-rate tick applies the divisors. DEDUCED: log entry 37. -/
def voltageSettled (d : Dev) : Dev :=
  match d.vset with
  | some (_, t) => { advanceTo d t with vsetDone := true }
  | none => d

def execVoltageSettled (s : State) : Out := clocked s voltageSettled

/-- Cycle 0 of a full-rate tick (R645). -/
def sclkTick (d : Dev) : Dev :=
  match d.vset with
  | some (v, t) =>
    if d.vsetDone || t ≤ d.now then
      sclkApply (sf { d with vset := none, vsetDone := false } SYSCFG.SCSTAT SYSCFG.SCSTAT_VPEND 0) v
    else d
  | none => d

/-! Clock gates (R647 to R649). -/

/-- The block of a gate bit is off, as the gate table says. DEDUCED: log entry 69. -/
def blockOff (d : Dev) (b : Nat) : Bool :=
  match b with
  | 0 => (List.range 32).all (fun n => gptMode d n = 0)
  | 9 => (List.range 4).all (fun k => refState d k = 0)
  | 10 => (List.range 48).all (fun w => winState d w = 0)
  | 11 => (List.range 16).all (fun t => triState d t = 0)
  | 12 => (List.range 24).all (fun f => fbState d f = 0)
  | 13 => (List.range 16).all (fun n => leState d n = 0)
  | 14 => (List.range 1024).all (fun c => ctxState d c = 0) && d.oq.isEmpty
  | 15 => (List.range 8).all (fun u => gf d (CVU.CVSTAT u) CVU.CVSTAT_STATE = 0)
  | 16 => gf d DDRC.DSTAT DDRC.DSTAT_STATE = 0
  | 17 => gf d CHAIN.CHCFG CHAIN.CHCFG_PORTEN = 0 && [0, 1, 2].all (fun p => portSt d p = 0)
  | 18 => gf d CXLC.CXCFG CXLC.CXCFG_EN = 0 && gf d CXLC.CXSTAT CXLC.CXSTAT_LSTATE = 0
  | b => adcState d (b - 1) = 0

def gateOn (d : Dev) (b : Nat) : Bool := bitOf d SYSCFG.SGATE b
def gateOpening (d : Dev) (b : Nat) : Bool := bitOf d SYSCFG.SGSTART b
def gateClosing (d : Dev) (b : Nat) : Bool := bitOf d SYSCFG.SGPEND b

/-- The opening of a gate begins. -/
def gateStart (d : Dev) (b : Nat) : Dev :=
  { setBit d SYSCFG.SGSTART b true with gateDue := put d.gateDue b (d.now + 32 * fabDiv d) }

/-- A write of 0 to a bit of `SGATE`. -/
def sgateClose (d : Dev) (b : Nat) : Dev :=
  if b < 19 && gateOn d b then
    let d := setBit d SYSCFG.SGATE b false
    if gateOpening d b then d else setBit d SYSCFG.SGPEND b true
  else d

def execSgateClose (b : Fin 19) (s : State) : Out := clocked s (fun d => sgateClose d b)

/-- A write of 1 to a bit of `SGATE`. -/
def sgateOpen (d : Dev) (b : Nat) : Dev :=
  if b < 19 && !gateOn d b then
    let d := setBit d SYSCFG.SGATE b true
    if gateOpening d b || gateClosing d b then d else gateStart d b
  else d

def execSgateOpen (b : Fin 19) (s : State) : Out := clocked s (fun d => sgateOpen d b)

/-- A write to `SGATE`: the bits that change. -/
def writeSgate (d : Dev) (v : Word) : Dev :=
  forEach (List.range 19) (fun d b => if v.getLsbD b then sgateOpen d b else sgateClose d b) d

/-- The gate closes where its block is off, and opens again where a 1 was written meanwhile. -/
def gateClosed (d : Dev) (b : Nat) : Dev :=
  if gateClosing d b && blockOff d b then
    let d := { setBit d SYSCFG.SGPEND b false with gshut := fset ⟨b, b⟩ d.gshut 1 }
    if gateOn d b then gateStart d b else d
  else d

def execGateClosed (b : Fin 19) (s : State) : Out := clocked s (fun d => gateClosed d b)

/-- The block is accessible; a 0 written meanwhile closes the gate again. -/
def gateOpened (d : Dev) (b : Nat) : Dev :=
  if gateOpening d b then
    let d := advanceTo d (look d.gateDue b 0)
    let d := { setBit d SYSCFG.SGSTART b false with gshut := fset ⟨b, b⟩ d.gshut 0, gateDue := del d.gateDue b }
    if gateOn d b then d else setBit d SYSCFG.SGPEND b true
  else d

def execGateOpened (b : Fin 19) (s : State) : Out := clocked s (fun d => gateOpened d b)

/-! Pin claims (R655). -/

/-- The owner of a code is off. -/
def ownerOff (d : Dev) (o : Nat) : Bool :=
  let n := o % 4096
  match o / 4096 with
  | 1 => triState d n = 0
  | 2 => leState d n = 0
  | 3 => fbState d n = 0
  | 4 => ctxState d n = 0
  | 5 => gptMode d n = 0
  | 6 => pmuxFunc d n = 0
  | _ => false

def sclRelease (d : Dev) (o : Nat) : Dev := if ownerOff d o then dropClaims d o else d

/-- A write of `SCLREL` with `GO` = 1 and the owner's code. -/
def execSclrel (owner : BitVec 16) (s : State) : Out :=
  clocked s (fun d => sclRelease (wr d SYSCFG.SCLREL (owner.setWidth 32)) owner.toNat)

/-! Sleep and wake (R659 to R663). -/

def huskFlag (d : Dev) (b : Nat) : Dev := setFlag d HUSK.HSTAT b (gf d HUSK.HSEL HUSK.HSEL_IE) 240
def huskMode (d : Dev) : Nat := gf d HUSK.HSTAT HUSK.HSTAT_MODE
def frz (d : Dev) : Nat := gf d DBG.DBGSTAT DBG.DBGSTAT_FRZ

/-- The cause for which sleep is refused (R659). -/
def sleepRefuse (d : Dev) : Option Nat :=
  let link := gf d CXLC.CXSTAT CXLC.CXSTAT_LSTATE
  if !(((List.range 16).all (fun b => b = 14 || blockOff d b)) && (List.range 1024).all (fun c => ctxState d c = 0)) then some 1
  else if link = 1 || link = 2 then some 2
  else if d.fl.op ≠ 0 || d.flSusp.isSome || gf d DDRC.DSTAT DDRC.DSTAT_STATE = 1 then some 3
  else if frz d ≠ 0 then some 4
  else none

def refuse (d : Dev) (code : Nat) : Dev := huskFlag (sf d HUSK.HSTAT HUSK.HSTAT_REFUSE code) 0

/-- A write of 1 to `HCTL.SLEEP`: a WAKE frame accepted before wakes no more. DEDUCED: log entry 51. -/
def writeSleep (d : Dev) : Dev :=
  if huskMode d ≠ 0 then d
  else match sleepRefuse d with
    | some code => refuse d code
    | none => sf (chSet d (fun x => { x with wake := false })) HUSK.HSTAT HUSK.HSTAT_MODE 1

def execSleep (s : State) : Out := clocked s writeSleep

/-- The check of R660 at the first full-rate tick of ENTERING. The answer says whether cores are released. DEDUCED: log entry
51. -/
def sleepTick (d : Dev) : Dev × Bool :=
  if huskMode d = 1 && !d.entering then
    let quiet := (List.range 8).all (fun c => waitsWft d c || (coreGet d c).rst)
      && (List.range 8).all (fun c => (List.range 16).all (fun l => l = 0 || gf d (ICU.IACTL c l) ICU.IACTL_V = 0))
    if quiet then ({ d with entering := true }, false)
    else (sf (refuse d 5) HUSK.HSTAT HUSK.HSTAT_MODE 0, true)
  else (d, huskMode d ≠ 1)

/-- Before the root clocks stop: ports to low rate, self-refresh, the reference back to the crystal (R632, R642, R661). -/
def clocksPrepare (d : Dev) : Dev := sf (ddrSleep (chainLow d)) SYSCFG.SCSTAT SYSCFG.SCSTAT_REFSRC 0

/-- The HUSK edges fall at multiples of 15,360 counts. -/
def huskEdge (d : Dev) : Dev := advanceTo d (edgeAt d 15360 d.now)

/-- The entry to SLEEP (R661). -/
def execSleepEntry (s : State) : Out :=
  .next (if s.pwr.root && s.dev.entering then
    let d := huskEdge (clocksPrepare s.dev)
    let d := huskFlag (sf { d with entering := false } HUSK.HSTAT HUSK.HSTAT_MODE 2) 1
    { s with pwr := { s.pwr with pll := false, root := false, asleep := true, frozen := false }, dev := d }
  else s)

/-- A wake source holds (R662). -/
def wakeHolds (d : Dev) (src : Nat) : Bool :=
  1 ≤ src && src ≤ 4 && (gf d HUSK.HWEN HUSK.HWEN_EN).testBit (src - 1) &&
    (match src with
      | 1 => d.chain.wake
      | 2 => atOrPast (tnoLow d) (rd d HUSK.HWAKET)
      | _ => true)

/-- The unit wakes, or abandons its entry (R662, R663, R679). -/
def execWake (src : Fin 5) (s : State) : Out :=
  .next (if (huskMode s.dev = 2 && s.pwr.asleep || huskMode s.dev = 1) && wakeHolds s.dev src.val then
    let d := { chSet s.dev (fun x => { x with wake := false }) with entering := false }
    let d := huskFlag (sf (sf d HUSK.HSTAT HUSK.HSTAT_WSRC src.val) HUSK.HSTAT HUSK.HSTAT_MODE 3) 2
    { s with pwr := { s.pwr with asleep := false }, dev := d }
  else s)

/-- The first full-rate tick after a wake or a freeze (R663, R671): the freeze is no cause of a safe state any more (R178).
DEDUCED: log entry 76. -/
def runTick (d : Dev) : Dev :=
  let d := if huskMode d = 3 then sf d HUSK.HSTAT HUSK.HSTAT_MODE 0 else d
  if frz d = 3 then
    let d := scFlag (sf d DBG.DBGSTAT DBG.DBGSTAT_FRZ 0) 3
    forEach (List.range 16) (fun d t => forEach legs (legCauseEnd 7 t) d) d
  else d

/-! Debug freeze (R664 to R666, R671, R679). -/

def rdpLevel (d : Dev) : Nat := gf d FLASHC.FLRDP FLASHC.FLRDP_LEVEL

/-- The steps of a freeze before the clocks stop (R177, R664). DEDUCED: log entry 76. -/
def freezeStart (d : Dev) : Dev :=
  let d := forEach (List.range 16) (fun d t => if triState d t = 2 then triSafe 7 d t else d) d
  sf (clocksPrepare d) DBG.DBGSTAT DBG.DBGSTAT_FRZ 1

/-- A debugger write of `FRZREQ` = 1; outside RUN it is held. -/
def freezeReq (d : Dev) : Dev :=
  if rdpLevel d = 0 then
    let d := sf d DBG.DBGCTL DBG.DBGCTL_FRZREQ 1
    if huskMode d = 0 && frz d = 0 then freezeStart d else d
  else d

def execFreeze (s : State) : Out := clocked s freezeReq

/-- A request held until `MODE` is RUN. -/
def freezeTick (d : Dev) : Dev :=
  if gf d DBG.DBGCTL DBG.DBGCTL_FRZREQ = 1 && rdpLevel d = 0 && huskMode d = 0 && frz d = 0 then freezeStart d else d

/-- The low sides of LOWON legs turn on, and two PERIPH cycles pass (R177). DEDUCED: log entry 76. -/
def freezeSettle (d : Dev) : Dev :=
  advance (forEach (List.range 16) (fun d t => forEach legs (fun d j => lowonTurnOn d t j) d) d) 4

/-- The root clocks stop: results in the converters' pipelines will come VOID (R665). -/
def execFrozen (s : State) : Out :=
  .next (if s.pwr.root && frz s.dev = 1 then
    let d := huskEdge (freezeSettle s.dev)
    let d := { d with adc := d.adc.map (fun e => (e.1, { e.2 with fl := e.2.fl.map (fun x => { x with void := true }) })) }
    { s with pwr := { s.pwr with pll := false, root := false, asleep := false, frozen := true },
             dev := sf d DBG.DBGSTAT DBG.DBGSTAT_FRZ 2 }
  else s)

/-- A debugger write of `FRZREQ` = 0 while FROZEN. -/
def execFreezeRelease (s : State) : Out :=
  .next (if s.pwr.frozen && frz s.dev = 2 then
    { s with pwr := { s.pwr with frozen := false },
             dev := sf (sf s.dev DBG.DBGCTL DBG.DBGCTL_FRZREQ 0) DBG.DBGSTAT DBG.DBGSTAT_FRZ 3 }
  else s)

/-! Halting and stepping (R674, R675). -/

def dbgFlag (d : Dev) (b : Nat) : Dev := setFlag d DBG.DBGSTAT b (gf d DBG.DBGSEL DBG.DBGSEL_IE) 256

/-- A core stops, or resumes. DEDUCED: log entry 61. -/
def haltCore (d : Dev) (c : Nat) (on : Bool) : Dev :=
  let x := coreGet d c
  if x.halt = on then d
  else
    let d := setBit (corePut d c { x with halt := on, one := false }) DBG.DBGSTAT (16 + c) on
    wr d (DBG.DBGPC c) (if on then x.pc else 0)

/-- A write of the `HALT` bits; the leader's bit stands for both cores of a PAIRED pair. -/
def writeHalt (d : Dev) (v : Nat) : Dev :=
  if rdpLevel d = 0 then
    forEach (List.range 8) (fun d c => haltCore d c (v.testBit (if isFollower d c then c - 1 else c)))
      (sf d DBG.DBGCTL DBG.DBGCTL_HALT v)
  else d

def execHalt (v : BitVec 8) (s : State) : Out := clocked s (fun d => writeHalt d v.toNat)

/-- A halted processor is to retire one instruction; a follower does with its leader. DEDUCED: log entry 38. -/
def stepCore (d : Dev) (c : Nat) : Dev :=
  if rdpLevel d = 0 && (coreGet d c).halt && !isFollower d c then
    let d := corePut d c { coreGet d c with one := true }
    if isLeader d c then corePut d (c + 1) { coreGet d (c + 1) with one := true } else d
  else d

def execStep (c : Fin 8) (s : State) : Out := clocked s (fun d => stepCore d c)

/-! The test access port (R667, R668). The data register holds what the selected instruction captures. -/

def execExtest (cells : BitVec 753) (s : State) : Out := onDev s (fun d => { d with jtagIr := 0, bsr := cells })
def execSamplePreload (cells : BitVec 753) (s : State) : Out := onDev s (fun d => { d with jtagIr := 1, bsr := cells })
def execIdcode (s : State) : Out := onDev s (fun d => { d with jtagIr := 2, tdr := (rd d DBG.DBGID).setWidth 43 })
def execBypass (s : State) : Out := onDev s (fun d => { d with jtagIr := 31, tdr := 0 })

/-- `DBGCMD.TBSNAP` (R672): while FROZEN at the next HUSK edge. -/
def dbgSnap (d : Dev) : Dev :=
  let d := if frz d = 2 then huskEdge d else d
  wr (wr d DBG.DBGTBLO ((tbShown d).setWidth 32)) DBG.DBGTBHI ((tbShown d >>> 32).setWidth 32)

def execTbsnap (s : State) : Out := onDev s dbgSnap

/-! The trace port (R676, R677). -/

/-- A slot sends an item; with room again a LOST item follows. -/
def traceSlot (d : Dev) : Dev :=
  if gf d DBG.DBGCTL DBG.DBGCTL_TRCEN = 1 && rdpLevel d = 0 && frz d ≠ 2 then
    let d := { d with trace := d.trace.drop 1 }
    if d.trLost ≠ 0 && d.trace.length < 64 then
      { d with trace := d.trace ++ [⟨5, 0, d.tb.toNat % 2 ^ 48, leBytes 4 d.trLost⟩], trLost := 0 }
    else d
  else d

def execTraceSlot (s : State) : Out := clocked s traceSlot

/-- An item that met a full buffer is counted. DEDUCED: log entry 18. -/
def traceLost (d : Dev) : Dev :=
  if d.trMissed = 0 then d
  else bump (dbgFlag { d with trMissed := d.trMissed - 1, trLost := d.trLost + 1 } 1) DBG.DBGTRLOST DBG.DBGTRLOST_CNT

def execTraceItemLost (s : State) : Out := clocked s traceLost

/-- A core write to `DBGMARK`, ignored unless `TRCEN` and `TRMARK` are 1; a follower emits nothing. DEDUCED: log entry 38. -/
def writeDbgmark (d : Dev) (c : Nat) (v : Word) : Dev :=
  if gf d DBG.DBGCTL DBG.DBGCTL_TRCEN = 1 && gf d DBG.DBGCTL DBG.DBGCTL_TRMARK = 1 then
    let d := wr d (DBG.DBGMARK c) v
    if isFollower d c then d else emitTrace d DBG.DBGCTL_TRMARK 1 c (leBytes 4 v.toNat)
  else d

def execDbgmark (c : Fin 8) (v : Word) (s : State) : Out := clocked s (fun d => writeDbgmark d c v)

/-- A debugger write to `DBGMSG` (R678). -/
def writeDbgmsg (d : Dev) (v : Word) : Dev := dbgFlag (wr d DBG.DBGMSG v) 0

def execDbgmsg (v : Word) (s : State) : Out := clocked s (fun d => writeDbgmsg d v)

end Sys2Proof.Machine
end

