-- ==== Sys2Proof/Machine/Host.lean ====
section
/-! DEFINITION. The CXL port and the host rings but for the commands that use the bus (R548 to R595). -/

namespace Sys2Proof.Machine

open Sys2Proof

def cxFlag (d : Dev) (b : Nat) : Dev := setFlag d CXLC.CXSTAT b (gf d CXLC.CXSEL CXLC.CXSEL_IE) 224
def hSet (d : Dev) (f : HostSt → HostSt) : Dev := { d with hostSt := f d.hostSt }
def ringGet (d : Dev) (r : Nat) : RingSt := look d.hostSt.ring r {}
def ringPut (d : Dev) (r : Nat) (x : RingSt) : Dev := hSet d (fun h => { h with ring := put h.ring r x })
def statDirty (d : Dev) : Dev := hSet d (fun h => { h with dirty := true })
def linkState (d : Dev) : Nat := gf d CXLC.CXSTAT CXLC.CXSTAT_LSTATE

/-- The unit serves the rings while the link is up (R569). DEDUCED: log entry 39. -/
def hostUp (d : Dev) : Bool := linkState d = 2 || linkState d = 3
/-- Firmware runs, or the recovery loader (R688). -/
def served (d : Dev) : Bool := hostUp d && (gf d FLASHC.FLBOOT FLASHC.FLBOOT_ROM = 0 || d.boot.stage = 9)
def recovery (d : Dev) : Bool := d.boot.stage = 9
def setErr (d : Dev) : Dev := setBit d HOST.HSTAT 1 true

def ringOn (d : Dev) (r : Nat) : Bool :=
  gf d (HOST.RCFG r) HOST.RCFG_EN = 1 && !bitOf d HOST.HSTAT (16 + r)
def ringN (d : Dev) (r : Nat) : Nat := 2 ^ gf d (HOST.RCFG r) HOST.RCFG_LOG
def ringIdx (d : Dev) (r : Nat) : Word := rd d (HOST.RIDX r)
def ringHost (d : Dev) (r : Nat) : Word := rd d (HOST.RHIDX r)
def ringBase (d : Dev) (r : Nat) : Nat :=
  4096 * gf d (HOST.RBASELO r) HOST.RBASELO_ADDR + 2 ^ 32 * (rd d (HOST.RBASEHI r)).toNat

/-- A running ring stops with an error (R593). -/
def ringStop (d : Dev) (r err : Nat) : Dev :=
  cxFlag (setBit (wr d (HOST.RSTAT r) (w32 err)) HOST.HSTAT (16 + r) true) 3

/-! Entries to the host (R567, R568, R573, R585). -/

/-- Entries that fit before the host's index is reached. -/
def ringRoom (d : Dev) (r : Nat) : Nat := ringN d r - ((ringGet d r).next - ringHost d r).toNat

/-- An entry counts for a vector. -/
def vecCount (d : Dev) (v : Nat) : Dev :=
  hSet d (fun h =>
    let x := look h.vec v {}
    { h with vec := put h.vec v { x with p := x.p + 1, t0 := if x.p = 0 then d.now else x.t0 } })

/-- Entries of `size` bytes each leave for a ring. -/
def ringWrite (d : Dev) (r size : Nat) (es : List (List Byte)) (f : RingFly) : Dev :=
  let x := ringGet d r
  let a := ringBase d r + size * (x.next.toNat % ringN d r)
  let n := x.next + w32 es.length
  let d := ringPut d r { x with next := n, fly := x.fly ++ [{ f with upto := n, addr := a, bytes := es.flatten }] }
  forEach es (fun d _ => vecCount d (gf d (HOST.RCFG r) HOST.RCFG_VEC)) d

/-- The phase of an index (R574). -/
def phaseOf (d : Dev) (r : Nat) (i : Word) : Nat := (i.toNat / ringN d r + 1) % 2

/-- A 64-byte descriptor of the unit: bytes from 0x00, zeros to 0x3E, the owner byte. -/
def descBytes (d : Dev) (r : Nat) (l : List Byte) : List Byte :=
  (l ++ List.replicate (63 - l.length) 0).take 63 ++ [BitVec.ofNat 8 (phaseOf d r (ringGet d r).next)]

def ringVer (d : Dev) : Byte := BitVec.ofNat 8 (16 * gf d HOST.HFMT HOST.HFMT_RMAJ + gf d HOST.HFMT HOST.HFMT_RMIN)

/-! Events (R582, R583, R590). -/

/-- Body of a COMMIT's completion: the last commit of its lowest group. -/
def commitBody (d : Dev) (m : Nat) : List Word :=
  [rd d (TICK.CGLAST (((List.range 16).find? (fun g => g != 0 && m.testBit g)).getD 0))]

def eventBytes (d : Dev) (e : HostEv) : List Byte :=
  let body := match e.cmask with | some m => commitBody d m | none => e.body
  [BitVec.ofNat 8 e.typ, ringVer d] ++ leBytes 2 e.tag ++ [BitVec.ofNat 8 e.status, if d.evDrop then 1 else 0]
    ++ leBytes 2 e.detail ++ leBytes 6 d.tickno.toNat ++ [BitVec.ofNat 8 e.ring, 0] ++ body.flatMap (fun w => leBytes 4 w.toNat)

/-- RESET_DONE, the first event after a host-side reset. -/
def resetDone (d : Dev) (x : Nat × Nat × Nat) : HostEv :=
  { typ := 0x82, body := [w32 x.1, w32 x.2.1, w32 (d.hostSt.tag0 + 65536 * d.hostSt.tag1),
      w32 (d.spill.map SpillRes.n).sum, w32 x.2.2, w32 (x.2.2 / 2 ^ 32)] }

/-- The oldest waiting event is written once the event ring has room. -/
def eventPost (d : Dev) : Dev :=
  if served d && ringOn d 2 && decide (0 < ringRoom d 2) then
    let go (d : Dev) (e : HostEv) : Dev :=
      let d := ringWrite { d with evDrop := false } 2 64 [descBytes d 2 (eventBytes d e)] { upto := 0, addr := 0, bytes := [], ev := some e }
      if e.typ = 0x81 && gf d (HOST.RCFG e.ring) HOST.RCFG_VEC ≠ gf d (HOST.RCFG 2) HOST.RCFG_VEC then
        vecCount d (gf d (HOST.RCFG e.ring) HOST.RCFG_VEC)
      else d
    match d.hostSt.rstDone, d.evHold with
    | some x, _ => go (hSet d (fun h => { h with rstDone := none })) (resetDone d x)
    | none, e :: l => go { d with evHold := l } e
    | none, [] => d
  else d

def execEventPost (s : State) : Out := clocked s eventPost

/-- `MBXCMD.POST` (R582). -/
def fwMsg (d : Dev) : Dev := postEvent d { typ := 0x85, body := (List.range 11).map (fun k => rd d (CXLC.MBXOUT k)) }

def execFwMsg (s : State) : Out := clocked s fwMsg

/-- QUEUE_LOSS at the first tick after records were removed. -/
def lossTick (d : Dev) : Dev :=
  if d.loss.isEmpty then d
  else postEvent { d with loss := [] } { typ := 0x84, body := (List.range 9).map (fun r => w32 (look d.loss r 0)) }

/-! Completions (R578, R579). -/

/-- Some completion of a ring has not had its GO. -/
def compOpen (d : Dev) (r : Nat) : Bool :=
  d.evHold.any (fun e => e.typ = 0x81 && e.ring = r)
    || (ringGet d 2).fly.any (fun f => match f.ev with | some e => e.typ = 0x81 && e.ring = r | none => false)

/-- Word `i` of the descriptor being executed, its byte, and its TAG. -/
def dWord (x : Desc) (i : Nat) : Word := x.words.getD i 0
def dByte (x : Desc) (i : Nat) : Nat := (dWord x (i / 4)).toNat / 256 ^ (i % 4) % 256
def dHalf (x : Desc) (i : Nat) : Nat := dByte x i + 256 * dByte x (i + 1)

/-- The descriptor of a ring completes: the consumer index advances and a completion waits unless it is suppressed; one that
a host-side reset overtook has had its completion discarded (R578, R589). -/
def complete (d : Dev) (r : Nat) (x : Desc) (status detail : Nat) (body : List Word) (cmask : Option Nat := none) : Dev :=
  let n := ringIdx d r + 1
  let y := ringGet d r
  let d := ringPut d r { y with desc := none, wrong := 0, orphan := false }
  let d := hSet d (fun h => if r = 0 then { h with tag0 := dHalf x 2 } else { h with tag1 := dHalf x 2 })
  let d := if y.orphan then d else wr d (HOST.RIDX r) n
  if y.orphan then d
  else if (dByte x 0x3E).testBit 0 && status < 2 then
    if compOpen d r then d else statDirty (ringPut d r { ringGet d r with shown := n })
  else { d with evHold := d.evHold ++ [{ typ := 0x81, tag := dHalf x 2, status := status, detail := detail, ring := r,
                                          body := body, cmask := cmask, idx := n }] }

/-! GO, status line and messages (R568, R569, R585, R586). -/

/-- What was on its way goes back: results and snapshots to their queues (R331, R589). -/
def flyRest (d : Dev) (f : RingFly) : Dev :=
  let d := match f.res with | some x => oqShow { d with oq := x :: d.oq } | none => d
  let d := match f.sp with | some x => sf { d with spill := x :: d.spill } POUT.SPFILL POUT.SPFILL_FILL ((x :: d.spill).map SpillRes.n).sum | none => d
  match f.snap with
  | some x => { d with snReady := x :: d.snReady, snHeld := d.snHeld.filter (fun e => e.2 != x) }
  | none => d
/-- At a host-side reset completions are discarded, other events wait again. DEDUCED: log entry 41. -/
def flyBack (d : Dev) (f : RingFly) : Dev :=
  let d := flyRest d f
  match f.ev with
  | some e => if e.typ = 0x81 || e.typ = 0x82 then d else { d with evHold := e :: d.evHold }
  | none => d
/-- At a bad GO every event waits again. DEDUCED: log entry 41. -/
def flyKeep (d : Dev) (f : RingFly) : Dev :=
  let d := flyRest d f
  match f.ev with
  | some e => { d with evHold := e :: d.evHold }
  | none => d

/-- The oldest entries of a ring have their GO: the index that covers them is written; a bad one stops the ring. DEDUCED: log
entry 39. -/
def ringGo (d : Dev) (r : Nat) (good : Bool) : Dev :=
  let x := ringGet d r
  match x.fly with
  | [] => d
  | f :: l =>
    if !good then ringStop (x.fly.foldr (fun f d => flyKeep d f) (ringPut d r { x with fly := [] })) r 4
    else
      let d := ringPut d r { x with fly := l, shown := f.upto }
      let d := statDirty (wr d (HOST.RIDX r) f.upto)
      match f.ev with
      | some e =>
        if e.typ = 0x81 then
          ringPut d e.ring { ringGet d e.ring with shown := if compOpen d e.ring then e.idx else ringIdx d e.ring }
        else d
      | none => d

def execItomwrGo (r : Fin 12) (good : Bool) (s : State) : Out := clocked s (fun d => ringGo d r good)

/-- The words of the status line. -/
def statWords (d : Dev) (n : Nat) : List Word :=
  (List.range 12).map (fun r => (ringGet d r).shown) ++ [tnoLow d, if hostUp d then 1 else 0, w32 d.hostSt.evTotal, w32 n]

def statusLineWrite (d : Dev) : Dev :=
  if d.hostSt.dirty && served d && (rd d HOST.HSTLO ≠ 0 || rd d HOST.HSTHI ≠ 0) then
    let n := d.hostSt.statN + 1
    let l := statWords d n
    hSet d (fun h => { h with dirty := false, statN := n, stat := l,
                              vec := h.vec.map (fun e => (e.1, { e.2 with cov := e.2.p })) })
  else d

def execStatusLineWrite (s : State) : Out := clocked s statusLineWrite

/-- The MSI-X vector is masked: bit 0 of its vector control word, 1 after reset. -/
def vecMasked (d : Dev) (v : Nat) : Bool := (look d.hostSt.bar (0x20000 + 16 * v + 12) 1).getLsbD 0

/-- A message is sent, or becomes pending. -/
def vecSend (d : Dev) (v : Nat) : Dev :=
  if vecMasked d v then hSet d (fun h => { h with pba := fset ⟨v, v⟩ h.pba 1 })
  else hSet d (fun h => { h with pba := fset ⟨v, v⟩ h.pba 0, vec := put h.vec v { look h.vec v {} with sent := (look h.vec v {}).sent + 1 } })

/-- A vector fires on its count or its timer, after the status line covers its entries. -/
def msixFire (d : Dev) (v : Nat) : Dev :=
  let x := look d.hostSt.vec v {}
  let cnt := max 1 (gf d (HOST.VMOD v) HOST.VMOD_CNT)
  let tim := gf d (HOST.VMOD v) HOST.VMOD_TIM
  if x.p ≠ 0 && x.cov = x.p && (cnt ≤ x.p || tim ≠ 0) then
    let d := if cnt ≤ x.p then d else advanceTo d (x.t0 + 600 * tim)
    vecSend (hSet d (fun h => { h with vec := put h.vec v { x with p := 0, cov := 0 } })) v
  else d

def execMsixFire (v : Fin 32) (s : State) : Out := clocked s (fun d => msixFire d v)

/-! Doorbells (R566, R567, R570 to R572). -/

/-- A snoop of a doorbell line: `inv` for SnpInv. -/
def doorbellSnoop (d : Dev) (line : Nat) (inv : Bool) : Dev :=
  match look d.hostSt.line line 0 with
  | 2 => hSet d (fun h => if inv then { h with line := put h.line line 1, snp := 1 } else { h with snp := 2 })
  | 4 => hSet d (fun h => if inv then { h with line := put h.line line 3, snp := 1 } else { h with snp := 2 })
  | 1 => hSet d (fun h => { h with line := if inv then put h.line line 3 else h.line, snp := 0 })
  | _ => hSet d (fun h => { h with snp := 0 })

def execDoorbellSnoop (line : Fin 64) (inv : Bool) (s : State) : Out := clocked s (fun d => doorbellSnoop d line inv)

/-- A word of a line against the ring that names it. -/
def doorbellIndex (d : Dev) (r : Nat) (p : Word) : Dev :=
  let old := ringHost d r
  if r < 2 then
    if !atOrPast p old || decide (ringN d r < (p - ringIdx d r).toNat) then ringStop d r 1 else wr d (HOST.RHIDX r) p
  else if !atOrPast p old || !atOrPast (ringIdx d r) p then ringStop d r 5
  else
    let d := wr d (HOST.RHIDX r) p
    if r = 3 then { d with snHeld := d.snHeld.filter (fun e => !atOrPast p (w32 (e.1 + 1))) } else d

/-- The re-read of a line returns. -/
def doorbellRead (d : Dev) (line : Nat) (data : List Word) : Dev :=
  match look d.hostSt.line line 0 with
  | 0 => d
  | 3 => hSet d (fun h => { h with line := put h.line line 1 })
  | _ =>
    let d := hSet d (fun h => { h with line := put h.line line 2 })
    forEach (List.range 12) (fun d r =>
      if ringOn d r && gf d (HOST.RCFG r) HOST.RCFG_DBLINE = line then
        doorbellIndex d r (data.getD (gf d (HOST.RCFG r) HOST.RCFG_DBWORD) 0)
      else d) d

def execDoorbellRead (line : Fin 64) (data : List Word) (s : State) : Out := clocked s (fun d => doorbellRead d line data)

/-- Every held line is read again (R572). -/
def doorbellPoll (d : Dev) : Dev :=
  if gf d HOST.DBPOLL HOST.DBPOLL_US = 0 then d
  else hSet d (fun h => { h with line := h.line.map (fun e => (e.1, if e.2 = 2 then 4 else e.2)) })

def execDoorbellPoll (s : State) : Out := clocked s doorbellPoll

/-! Descriptors (R573 to R576). -/

/-- A type that a ring accepts. -/
def typeGood (r t : Nat) : Bool := if r = 0 then 1 ≤ t && t ≤ 6 else t = 0x10

/-- What the recovery loader accepts of it: NOP, an IMAGE_BLOCK, a WRITE to `SRESET` only (R702). DEDUCED: log entry 47. -/
def recoveryGood (x : Desc) : Bool :=
  dByte x 0 = 1 || dByte x 0 = 0x10 ||
    (dByte x 0 = 3 && decide (1 ≤ dByte x 4) && decide (dByte x 4 ≤ 6)
      && (List.range (dByte x 4)).all (fun i => dWord x (2 + 2 * i) = 0x4000010C))

/-- A fetched descriptor: phase, version and type. DEDUCED: log entry 39. -/
def descCheck (d : Dev) (r : Nat) (good : Bool) (x : Desc) : Dev :=
  let y := ringGet d r
  if !good then ringStop d r 4
  else if dByte x 0x3F % 2 ≠ phaseOf d r (ringIdx d r) then
    let d := ringPut d r { y with wrong := y.wrong + 1 }
    if 4 ≤ y.wrong + 1 then ringStop d r 2 else d
  else if dByte x 1 / 16 ≠ gf d HOST.HFMT HOST.HFMT_RMAJ then ringStop d r 3
  else if typeGood r (dByte x 0) && (!recovery d || recoveryGood x) then ringPut d r { y with wrong := 0, desc := some x }
  else complete d r x 2 0 []

/-- The ring has an entry to be fetched, and nothing being executed. -/
def fetchable (d : Dev) (r : Nat) : Bool :=
  r < 2 && served d && ringOn d r && ringIdx d r ≠ ringHost d r && (ringGet d r).desc.isNone && decide (d.evHold.length < 32)

def descFetch (d : Dev) (r : Nat) (good : Bool) (x : Desc) : Dev :=
  if fetchable d r && (ringGet d r).wrong = 0 then descCheck d r good x else d

def execDescriptorFetch (r : Fin 12) (good : Bool) (d : Desc) (s : State) : Out := clocked s (fun v => descFetch v r good d)

/-- The read after 1 µs of an entry whose phase differed. -/
def descReread (d : Dev) (r : Nat) (good : Bool) (x : Desc) : Dev :=
  if fetchable d r && (ringGet d r).wrong ≠ 0 then descCheck (advance d 600) r good x else d

def execDescriptorReread (r : Fin 12) (good : Bool) (d : Desc) (s : State) : Out := clocked s (fun v => descReread v r good d)

/-- The descriptor of a ring, where it is of a type, is executed. -/
def onDesc (d : Dev) (r t : Nat) (f : Dev → Desc → Dev) : Dev :=
  match (ringGet d r).desc with
  | some x => if dByte x 0 = t && (hostUp d || (ringGet d r).orphan) then f d x else d
  | none => d

/-! Commands that need no bus (R576, R580, R581). -/

def hostNop (d : Dev) (r : Nat) : Dev := onDesc d r 1 (fun d x => complete d r x 0 0 [])

def execNop (r : Fin 12) (s : State) : Out := clocked s (fun d => hostNop d r)

/-- COMMIT: the arming, a frame to others, and the status of a late arming. -/
def hostCommit (d : Dev) (r : Nat) : Dev :=
  onDesc d r 2 (fun d x =>
    let fwd := dByte x 0x10
    let mask := dHalf x 8
    if 2 < fwd then complete d r x 4 0 []
    else
      let tgt := dWord x 3
      let q := armOp d (maskGroups mask) tgt
      let payload := leBytes 2 mask ++ leBytes 2 0 ++ leBytes 4 tgt.toNat
      let d := match fwd with
        | 1 => let f := newFrame q.1 (dHalf x 0x12 % 512) 0 4 3 payload
               sendTo f.2 f.1
        | 2 => broadcast q.1 2 4 3 payload
        | _ => q.1
      if q.2.isEmpty then complete d r x 0 0 [] (some mask)
      else complete d r x 1 (gf d (TICK.CGCTL (leastOf q.2 15)) TICK.CGCTL_LATEMODE) [] (some mask))

def execCommit (r : Fin 12) (s : State) : Out := clocked s (fun d => hostCommit d r)

/-- SNAPSHOT: a definition is triggered at an instant, or now. -/
def hostSnapshot (d : Dev) (r : Nat) : Dev :=
  onDesc d r 5 (fun d x =>
    let s := dByte x 4
    if 15 < s then complete d r x 4 0 []
    else
      let t := (dWord x 2).toNat + 2 ^ 32 * (dWord x 3).toNat
      complete (snTrigger d s 2 (if t = 0 then d.tb.toNat else t) 0xFFFF 0) r x 0 0 [])

def execSnapshot (r : Fin 12) (s : State) : Out := clocked s (fun d => hostSnapshot d r)

/-- MBOX: eleven words, unless the last are unread. -/
def hostMbox (d : Dev) (r : Nat) : Dev :=
  onDesc d r 6 (fun d x =>
    if gf d CXLC.MBXINST CXLC.MBXINST_FULL = 1 then complete d r x 5 0 []
    else
      let d := forEach (List.range 11) (fun d k => wr d (CXLC.MBXIN k) (dWord x (2 + k))) d
      complete (cxFlag (wr d CXLC.MBXINST (w32 (2 ^ 31 + dHalf x 2))) 4) r x 0 0 [])

def execMbox (r : Fin 12) (s : State) : Out := clocked s (fun d => hostMbox d r)

/-- Word k of an image buffer with its tag (R580). -/
def imageWord (buf : List Byte) (len k : Nat) : TWord :=
  let tb := (buf.getD (len + k / 2) 0).toNat
  ⟨tagOf (if k % 2 = 0 then tb % 16 else tb / 16), BitVec.ofNat 32 (ofLeBytes ((buf.drop (4 * k)).take 4))⟩

/-- Staging sectors are erased, with their journal records; the answer is a refusal's code. -/
def imageErase : List Nat → Dev → Dev × Option Nat
  | [], d => (d, none)
  | a :: l, d =>
    if flBusy d 2 a then (flRefuse d 1, some 1)
    else if flForbidden d a then (flRefuse d 3, some 3)
    else
      let sec := flSec d a
      imageErase l (flFlag (jEnd (flWipe (jBegin d sec) sec) sec) 0)

/-- Lines are programmed in ascending order up to the first that is refused. -/
def imageLines (buf : List Byte) (len : Nat) : List (Nat × Nat) → Dev → Dev × Option Nat
  | [], d => (d, none)
  | (i, a) :: l, d =>
    if flBusy d 1 a then (flRefuse d 1, some 1)
    else if flForbidden d a then (flRefuse d 3, some 3)
    else if flLineSet d (flBank d a) (flOff a) then (flRefuse d 4, some 4)
    else imageLines buf len l (flFlag (flPutLine d (flBank d a) (flOff a) ((List.range 8).map (fun j => imageWord buf len (8 * i + j)))) 0)

/-- IMAGE_BLOCK: the buffer is programmed into the staging bank. -/
def hostImage (d : Dev) (r : Nat) (good : Bool) (buf : List Byte) : Dev :=
  onDesc d r 0x10 (fun d x =>
    let off := (dWord x 1).toNat
    let len := (dWord x 2).toNat
    if off % 32 ≠ 0 || len % 32 ≠ 0 || len < 32 || 65536 < len || 2 ^ 24 < off + len then complete d r x 4 0 []
    else if 0xFE0000 < off + len then complete (flRefuse d 3) r x 6 3 []
    else if 0xF80000 < off + len then complete d r x 4 0 []
    else if !good then complete d r x 7 0 []
    else
      let sectors := (List.range ((off + len - 1) / 65536 + 1 - off / 65536)).map (fun i => 2 ^ 24 + 65536 * (off / 65536 + i))
      let q := if (dByte x 0x0C).testBit 0 then imageErase sectors d else (d, none)
      let q := match q.2 with
        | some e => (q.1, some e)
        | none => imageLines buf len ((List.range (len / 32)).map (fun i => (i, 2 ^ 24 + off + 32 * i))) q.1
      match q.2 with
      | some e => complete q.1 r x 6 e []
      | none => complete q.1 r x 0 0 [])

def execImageBlock (r : Fin 12) (good : Bool) (buf : List Byte) (s : State) : Out :=
  clocked s (fun d => hostImage d r good buf)

/-! Curd records and snapshots (R309, R311, R313, R460, R584). -/

/-- A bound twin member that is not ACTIVE writes nothing to these rings. DEDUCED: log entry 47. -/
def hostWrites (d : Dev) : Bool := served d && !recovery d && !twinHold d

/-- The oldest result of a curd ring is written once the ring has room for all its records, spilled ones first. -/
def curdWrite (d : Dev) (k : Nat) : Dev :=
  let r := 4 + k
  if hostWrites d && ringOn d r then
    match d.spill.find? (fun x => x.ring = k) with
    | some x =>
      if x.n ≤ ringRoom d r then
        let recs := (List.range x.n).map (fun i => rdBytes d (spillKey d (x.slot + i)) 256)
        let d := { d with spill := d.spill.erase x }
        let d := sf d POUT.SPFILL POUT.SPFILL_FILL (d.spill.map SpillRes.n).sum
        ringWrite d r 256 recs { upto := 0, addr := 0, bytes := [], sp := some x }
      else d
    | none =>
      match d.oq.find? (fun x => x.ring = k) with
      | some x =>
        if x.recs.length ≤ ringRoom d r then
          ringWrite (oqShow { d with oq := d.oq.erase x }) r 256 x.recs { upto := 0, addr := 0, bytes := [], res := some x }
        else d
      | none => d
  else d

def execCurdRecordWrite (r : Fin 8) (s : State) : Out := clocked s (fun d => curdWrite d r)

/-- While the host side is down, the oldest result of the queue moves into the spill region. -/
def spillWrite (d : Dev) : Dev :=
  if !hostUp d && gf d POUT.SPLEN POUT.SPLEN_LEN ≠ 0 && ddrRunning d then spillOne d else d

def execSpillWrite (s : State) : Out := clocked s spillWrite

/-- Host physical address of a DDR5 address through a decoder of one way. -/
def hdmHost (d : Dev) (a : Nat) : Nat :=
  match d.hostSt.hdm.find? (fun e => e.2.ways = 1 && decide (e.2.dpa ≤ a) && decide (a < e.2.dpa + e.2.size)) with
  | some e => e.2.base + (a - e.2.dpa)
  | none => 0

/-- The oldest snapshot descriptor is written on the snapshot ring. -/
def snapReady (d : Dev) : Dev :=
  match d.snReady with
  | [] => d
  | x :: l =>
    if hostWrites d && ringOn d 3 && decide (0 < ringRoom d 3) then
      let a := snAddr d x
      let host := if gf d HOST.HFMT HOST.HFMT_RMIN = 0 then 0 else hdmHost d a
      let b := [0x90, ringVer d, 0, 0, BitVec.ofNat 8 x.sdef, BitVec.ofNat 8 x.src, 0, 0] ++ leBytes 8 a ++ leBytes 4 x.size
        ++ leBytes 4 x.seq ++ leBytes 8 x.t ++ leBytes 8 host
      let i := (ringGet d 3).next.toNat
      ringWrite { d with snReady := l, snHeld := d.snHeld ++ [(i, x)] } 3 64 [descBytes d 3 b] { upto := 0, addr := 0, bytes := [], snap := some x }
    else d

def execSnapReady (s : State) : Out := clocked s snapReady

/-! Ring set-up (R587, R593, R594). -/

/-- The record format selected appears in `OFMT` (R305, R587). -/
def fmtShow (d : Dev) : Dev :=
  sf (sf d POUT.OFMT POUT.OFMT_MAJOR (gf d HOST.HFMT HOST.HFMT_CMAJ)) POUT.OFMT POUT.OFMT_MINOR (gf d HOST.HFMT HOST.HFMT_CMIN)

def ringsOff (d : Dev) : Bool := (List.range 12).all (fun r => gf d (HOST.RCFG r) HOST.RCFG_EN = 0)

def writeHfmt (d : Dev) (v : Word) : Dev :=
  if ringsOff d && fget HOST.HFMT_RMAJ v = 1 && fget HOST.HFMT_RMIN v ≤ 1 && fget HOST.HFMT_CMAJ v = 1 && fget HOST.HFMT_CMIN v ≤ 1
      && !(recovery d && (fget HOST.HFMT_RMIN v = 1 || fget HOST.HFMT_CMIN v = 1)) then
    fmtShow (wr d HOST.HFMT v)
  else setBit d HOST.HSTAT 0 true

def execHfmtWrite (v : Word) (s : State) : Out := clocked s (fun d => if served d then writeHfmt d v else d)

/-- A refusal at enable (R593); the recovery loader serves formats 1.0 only (R702). DEDUCED: log entry 47. -/
def ringRefused (d : Dev) (v : Word) : Bool :=
  let log := fget HOST.RCFG_LOG v
  let line := fget HOST.RCFG_DBLINE v
  log < 4 || decide (16 < log) || (rd d (HOST.DBLO line) = 0 && rd d (HOST.DBHI line) = 0)
    || (rd d HOST.HSTLO = 0 && rd d HOST.HSTHI = 0)
    || (recovery d && (gf d HOST.HFMT HOST.HFMT_RMIN = 1 || gf d HOST.HFMT HOST.HFMT_CMIN = 1))

/-- A write of `RCFG`: with `EN` = 1 the ring starts from index 0, or is refused; what was on its way is written first
(R592). -/
def writeRcfg (d : Dev) (r : Nat) (v : Word) : Dev :=
  let v := v &&& 0x81FFFFE0
  if fget HOST.RCFG_EN v = 0 then
    statDirty (setBit (ringPut (wr d (HOST.RCFG r) v) r { ringGet d r with wrong := 0 }) HOST.HSTAT (16 + r) false)
  else if gf d (HOST.RCFG r) HOST.RCFG_EN = 1 then wr d (HOST.RCFG r) v
  else if ringRefused d v || (recovery d && decide (2 < r)) then
    setErr (wr (wr d (HOST.RCFG r) (fset HOST.RCFG_EN v 0)) (HOST.RSTAT r) 6)
  else
    let d := (ringGet d r).fly.foldl (fun d _ => ringGo d r true) d
    let d := wr (wr (wr (wr d (HOST.RCFG r) v) (HOST.RIDX r) 0) (HOST.RHIDX r) 0) (HOST.RSTAT r) 0
    let y := ringGet d r
    let d := statDirty (ringPut (setBit d HOST.HSTAT (16 + r) false) r { desc := y.desc, orphan := y.desc.isSome })
    let line := fget HOST.RCFG_DBLINE v
    let d := if look d.hostSt.line line 0 = 0 then hSet d (fun h => { h with line := put h.line line 1 }) else d
    match r, d.hostSt.reject with
    | 2, some body =>
      let d := hSet d (fun h => { h with reject := none })
      { d with evHold := { typ := 0x86, body := body } :: d.evHold }
    | _, _ => d

def execRingEnable (r : Fin 12) (v : Word) (s : State) : Out := clocked s (fun d => if served d then writeRcfg d r v else d)

/-- A write of a doorbell line address at a BAR0 offset (R594). -/
def writeDbAddr (d : Dev) (o : Nat) (v : Word) : Dev :=
  let line := (o - 0x300) / 8
  if 0x300 ≤ o && o < 0x500 && o % 4 = 0 then
    if (List.range 12).any (fun r => gf d (HOST.RCFG r) HOST.RCFG_EN = 1 && gf d (HOST.RCFG r) HOST.RCFG_DBLINE = line) then setErr d
    else if o % 8 = 0 then wr d (HOST.DBLO line) (v &&& 0xFFFFFFC0) else wr d (HOST.DBHI line) v
  else d

def execDoorbellAddressWrite (addr : Nat) (v : Word) (s : State) : Out := clocked s (fun d => if served d then writeDbAddr d addr v else d)

/-! BAR0 (R555, R556). -/

def hostReg (o : Nat) (rst : Word) : Reg := ⟨0xB0000000000 + o, rst⟩

/-- A word of BAR0: the HOST block, component registers, the MSI-X table and its pending bits. -/
def barRead (d : Dev) (o : Nat) : Dev × Word :=
  if o < 0x1000 then
    match hostRows.find? (fun r => rowHas r (0xB0000000000 + o)) with
    | some r =>
      let w := rd d (hostReg o r.rst)
      let w := if o = 0 then fset HOST.HSTAT_UP w (if hostUp d then 1 else 0) else w
      (wr d (hostReg o r.rst) (rd d (hostReg o r.rst) &&& ~~~r.rc), w)
    | none => (d, 0)
  else if o = 0x21000 then (d, d.hostSt.pba)
  else if 0x20000 ≤ o && o < 0x20200 then (d, look d.hostSt.bar o (if o % 16 = 12 then 1 else 0))
  else if 0x10000 ≤ o && o < 0x20000 then (d, look d.hostSt.bar o 0)
  else (d, 0)

/-- A pending message follows the unmask of its vector (R592). -/
def vecUnmask (d : Dev) (v : Nat) : Dev := if d.hostSt.pba.getLsbD v && !vecMasked d v then vecSend d v else d

def barWrite (d : Dev) (o : Nat) (v : Word) : Dev :=
  if o < 0x1000 then
    if o = 0 then wr d HOST.HSTAT (rd d HOST.HSTAT &&& ~~~(v &&& 3))
    else if o = 4 then writeHfmt d v
    else if 0x100 ≤ o && o < 0x280 && o % 32 = 8 then writeRcfg d ((o - 0x100) / 32) v
    else if 0x300 ≤ o && o < 0x500 then writeDbAddr d o v
    else
      match hostRows.find? (fun r => rowHas r (0xB0000000000 + o)) with
      | some r =>
        let x := hostReg o r.rst
        let d := wr d x ((rd d x &&& ~~~r.rw) ||| (v &&& r.rw))
        if o = 8 || o = 12 then statDirty d else d
      | none => d
  else if 0x20000 ≤ o && o < 0x20200 then
    vecUnmask (hSet d (fun h => { h with bar := put h.bar o v })) ((o - 0x20000) / 16)
  else if 0x10000 ≤ o && o < 0x20000 then hSet d (fun h => { h with bar := put h.bar o v })
  else d

/-- A host access to BAR0; one that is no aligned dword does nothing but set `SETERR`. -/
def barAccess (d : Dev) (a size : Nat) (v : Option Word) : Dev :=
  if !served d then d
  else if size ≠ 4 || a % 4 ≠ 0 then setErr (hSet d (fun h => { h with barData := 0 }))
  else
    match v with
    | some v => barWrite d a v
    | none => let q := barRead d a
              hSet q.1 (fun h => { h with barData := q.2 })

def execBar0Access (addr size : Nat) (v : Option Word) (s : State) : Out := clocked s (fun d => barAccess d addr size v)

/-! Decoders, memory accesses and bias (R557 to R563). -/

/-- A decoder is committed, or its commit fails; decoder 1 follows decoder 0 in the DPA space. -/
def hdmCommit (d : Dev) (k base size skip ways gran : Nat) : Dev :=
  let start := match k, find d.hostSt.hdm 0 with
    | 0, _ => 0
    | _, some x => x.dpa + x.size / max x.ways 1
    | _, none => 0
  let dpa := start + skip
  let good := size % 2 ^ 28 = 0 && size ≠ 0 && [1, 2, 4, 8].contains ways && [256, 512, 1024, 2048, 4096, 8192, 16384].contains gran
    && decide (dpa + size / ways ≤ ddrCap d)
  hSet d (fun h => if good then { h with hdm := put h.hdm k ⟨base, size, dpa, ways, gran⟩, hdmErr := fset ⟨k, k⟩ h.hdmErr 0 }
    else { h with hdmErr := fset ⟨k, k⟩ h.hdmErr 1 })

def execHdmDecoderCommit (k : Fin 2) (base size skip ways gran : Nat) (s : State) : Out :=
  clocked s (fun d => hdmCommit d k base size skip ways gran)

def memActive (d : Dev) : Bool := ddrRunning d || d.ddrRetrain

/-- The DDR5 address of a host address through a committed decoder. -/
def hdmDpa (d : Dev) (a : Nat) : Option Nat :=
  (d.hostSt.hdm.find? (fun e => decide (e.2.base ≤ a) && decide (a < e.2.base + e.2.size))).map (fun e =>
    let o := a - e.2.base
    e.2.dpa + o / (e.2.gran * e.2.ways) * e.2.gran + o % e.2.gran)

/-- The sixteen words of a line; none where one has an uncorrectable error. -/
def lineRead (a : Nat) : Nat → Dev → Dev × Option (List Byte)
  | 0, d => (d, some [])
  | n + 1, d =>
    let r := ddrRead d (a + 4 * (15 - n)) 4
    let q := lineRead a n r.1
    match r.2, q.2 with
    | some b, some l => (q.1, some (b ++ l))
    | _, _ => (q.1, none)

/-- A CXL.mem access to a 64-byte line: served, or refused with poison or a drop. -/
def memAccess (d : Dev) (a : Nat) (w : Option (List Byte)) : Dev :=
  let a := a / 64 * 64
  match (if memActive d then hdmDpa d a else none) with
  | none => hSet (cxFlag (bump d CXLC.MEMERR CXLC.MEMERR_CNT) 5) (fun h => { h with memData := none })
  | some x =>
    match w with
    | some b =>
      let d := ddrWrite d x b
      if look d.bias (x / 2 ^ 21) 0 = 2 then bump d CXLC.BIASWR CXLC.BIASWR_CNT else d
    | none =>
      let r := lineRead x 16 d
      hSet r.1 (fun h => { h with memData := r.2 })

def execCxlMemAccess (addr : Nat) (w : Option (List Byte)) (s : State) : Out := clocked s (fun d => memAccess d addr w)

/-- Lanes whose ring lies on a granule. -/
def granuleLanes (d : Dev) (g : Nat) : List Nat := (List.range 128).filter (fun c => celOn d c && (celGranules d c).contains g)

/-- The granule is in device bias; lanes that wait write on (R560, R561). -/
def biasDone (d : Dev) (g : Nat) : Dev :=
  if look d.bias g 0 = 1 then
    let d := { d with bias := put d.bias g 2 }
    forEach (granuleLanes d g) (fun d c => celDrain c (look d.cel c {}).hold d) d
  else d

def execBiasFlipDone (g : Nat) (s : State) : Out := clocked s (fun d => biasDone d g)

/-- The Press needs a granule, the next in the order of its ring: CLFlush for each line, or none with the host side down
(R560 to R562). -/
def biasFlip (d : Dev) (g : Nat) : Dev :=
  let next (c : Nat) : Bool := ((celGranules d c).takeWhile (· != g)).all (fun x => decide (look d.bias x 0 ≠ 0))
  if look d.bias g 0 = 0 && (granuleLanes d g).any next then
    let d := { d with bias := put d.bias g 1 }
    if hostUp d then d else biasDone d g
  else d

def execBiasFlip (g : Nat) (s : State) : Out := clocked s (fun d => biasFlip d g)

/-! The link and the host-side resets (R549, R551, R588 to R590). -/

/-- A command being executed completes its effect without a completion, an IMAGE_BLOCK stops (R589). A host-side reset: 1
FLR, 2 hot reset, 3 link loss, 4 CXL Reset. DEDUCED: log entry 41. -/
def hostReset (d : Dev) (cause : Nat) : Dev :=
  let fly := (List.range 12).flatMap (fun r => (ringGet d r).fly)
  let lost := (d.evHold.filter (fun e => e.typ = 0x81)).length
    + (fly.filter (fun f => match f.ev with | some e => e.typ = 0x81 | none => false)).length
    + ([0, 1].filter (fun r => match (ringGet d r).desc with
        | some x => !(ringGet d r).orphan && !(dByte x 0x3E).testBit 0
        | none => false)).length
  let keep : Tab RingSt := [0, 1].filterMap (fun r => match (ringGet d r).desc with
    | some x => if dByte x 0 = 0x10 then none else some (r, { desc := some x, orphan := true })
    | none => none)
  let d := { d with evHold := d.evHold.filter (fun e => e.typ != 0x81) }
  let d := fly.foldr (fun f d => flyBack d f) d
  let d := clearRegs d 0xB0000000000 0xB0000001000
  let d := wr d HOST.HLOSTCMP (w32 (min lost 65535))
  let bar := if cause = 1 then d.hostSt.bar.filter (fun e => decide (e.1 < 0x20000)) else []
  let dec := if cause = 1 then d.hostSt.hdm else []
  let d := hSet d (fun h => { h with
      ring := keep, line := [], snp := 0, vec := [], pba := 0, bar := bar, hdm := dec, dirty := false, stat := [], statN := 0,
      evTotal := 0, rstDone := some (cause, lost, d.tickno.toNat) })
  let d := bump (wr d CXLC.HRCAUSE (fset CXLC.HRCAUSE_CAUSE (rd d CXLC.HRCAUSE) cause)) CXLC.HRCAUSE CXLC.HRCAUSE_CNT
  cxFlag (fmtShow d) 2

def execFlr (s : State) : Out := clocked s (fun d => if hostUp d then hostReset d 1 else d)
def execCxlReset (s : State) : Out := clocked s (fun d => if hostUp d then hostReset d 4 else d)

def linkSet (d : Dev) (st w spd : Nat) : Dev :=
  sf (sf (sf d CXLC.CXSTAT CXLC.CXSTAT_LSTATE st) CXLC.CXSTAT CXLC.CXSTAT_WIDTH w) CXLC.CXSTAT CXLC.CXSTAT_SPEED spd

/-- A hot reset: the link retrains. -/
def execHotReset (s : State) : Out := clocked s (fun d => if hostUp d then linkSet (hostReset d 2) 1 0 0 else d)

/-- The link is lost. -/
def cxlDown (d : Dev) : Dev :=
  if linkState d = 0 then d else cxFlag (linkSet (if hostUp d then hostReset d 3 else d) 0 0 0) 1

def execCxlLinkDown (s : State) : Out := clocked s cxlDown

/-- Training ends at L0 with what both partners support (R549): width exponent and speed code of the partner. -/
def cxlUp (d : Dev) (w spd : Nat) : Dev :=
  if gf d CXLC.CXCFG CXLC.CXCFG_EN = 1 && (linkState d = 0 || linkState d = 1) && spd ≠ 0 then
    let d := linkSet d 2 (2 ^ min w (gf d CXLC.CXCFG CXLC.CXCFG_MAXW)) (min spd (gf d CXLC.CXCFG CXLC.CXCFG_MAXSPD))
    statDirty (cxFlag (sf d CXLC.CXSTAT CXLC.CXSTAT_SRISA (gf d CXLC.CXCFG CXLC.CXCFG_SRIS)) 0)
  else d

def execCxlLinkUp (w : Fin 4) (spd : Fin 6) (s : State) : Out := clocked s (fun d => cxlUp d w spd)

def execL1Entry (s : State) : Out :=
  clocked s (fun d => if linkState d = 2 then sf d CXLC.CXSTAT CXLC.CXSTAT_LSTATE 3 else d)
def execL1Exit (s : State) : Out :=
  clocked s (fun d => if linkState d = 3 then sf d CXLC.CXSTAT CXLC.CXSTAT_LSTATE 2 else d)

/-! CXLC configuration (R594). -/

def cxlcTicked (o : Nat) (v : Word) : Option (Reg × Word × Bool) :=
  match o with
  | 0x008 =>
    let spd := fget CXLC.CXCFG_MAXSPD v
    some (CXLC.CXCFG, 0x8000007F, spd = 0 || decide (6 ≤ spd) || decide (4 ≤ fget CXLC.CXCFG_MAXW v))
  | 0x010 => some (CXLC.HWMASKLO, 0xFFFFFFFF, false)
  | 0x014 => some (CXLC.HWMASKHI, 0xFFFFFFFF, false)
  | 0x018 => some (CXLC.HRMASKLO, 0xFFFFFFFF, false)
  | 0x01C => some (CXLC.HRMASKHI, 0xFFFFFFFF, false)
  | _ => none

def writeCxlcTicked (d : Dev) (addr : Nat) (v : Word) : Dev :=
  let o := addr - 0x40090000
  let o := if 0x800 ≤ o then o - 0x800 else o
  if 0x40090000 ≤ addr && gateOpen d 18 then
    match cxlcTicked o v with
    | none => d
    | some (r, m, bad) => if bad then cxFlag d 6 else wrPend d r (v &&& m)
  else d

def execCxlcConfigWrite (addr : Nat) (v : Word) (s : State) : Out := clocked s (fun d => writeCxlcTicked d addr v)

/-- The commit of CXLC's registers: with `EN` = 0 the link is held in detect. -/
def cxlcCommit (d : Dev) : Dev :=
  let d := forEach [CXLC.CXCFG, CXLC.HWMASKLO, CXLC.HWMASKHI, CXLC.HRMASKLO, CXLC.HRMASKHI] commitReg d
  if gf d CXLC.CXCFG CXLC.CXCFG_EN = 0 then cxlDown d else d

end Sys2Proof.Machine
end

