-- ==== Sys2Proof/Machine/Sha.lean ====
section
/-! DEFINITION. The two functions that R691 names and other documents define: SHA-384 (FIPS 180-4) and the check of an ECDSA
P-384 signature (FIPS 186-4). -/

namespace Sys2Proof.Machine

open Sys2Proof

/-! SHA-384. -/

/-- The greatest number with `p`, above `x`, by bits from `k` down. -/
def rootBits (p : Nat → Bool) : Nat → Nat → Nat
  | 0, x => x
  | k + 1, x => rootBits p k (if p (x + 2 ^ k) then x + 2 ^ k else x)

def primeNo (n : Nat) : Bool := decide (2 ≤ n) && (List.range n).all (fun k => decide (k < 2) || decide (n % k ≠ 0))

/-- The first 80 primes. -/
def primes80 : List Nat := (List.range 410).filter primeNo

/-- Round constants: the first 64 fraction bits of the cube roots of the first 80 primes. -/
def shaK : List (BitVec 64) :=
  primes80.map (fun p => BitVec.ofNat 64 (rootBits (fun x => decide (x ^ 3 ≤ p * 2 ^ 192)) 72 0))

/-- Initial value: the first 64 fraction bits of the square roots of the ninth to sixteenth primes. -/
def shaH0 : List (BitVec 64) :=
  ((primes80.drop 8).take 8).map (fun p => BitVec.ofNat 64 (rootBits (fun x => decide (x ^ 2 ≤ p * 2 ^ 128)) 72 0))

def bigBytes (l : List Byte) : Nat := l.foldl (fun n b => 256 * n + b.toNat) 0
def toBig : Nat → Nat → List Byte
  | 0, _ => []
  | k + 1, n => BitVec.ofNat 8 (n / 256 ^ k) :: toBig k n

/-- A message with its padding. -/
def shaPad (l : List Byte) : List Byte :=
  l ++ [(0x80 : Byte)] ++ List.replicate ((239 - l.length % 128) % 128) 0 ++ toBig 16 (8 * l.length)

/-- The message schedule, newest word first. -/
def shaSched : Nat → List (BitVec 64) → List (BitVec 64)
  | 0, w => w
  | n + 1, w =>
    let a := w.getD 14 0
    let b := w.getD 1 0
    let s0 := a.rotateRight 1 ^^^ a.rotateRight 8 ^^^ (a >>> 7)
    let s1 := b.rotateRight 19 ^^^ b.rotateRight 61 ^^^ (b >>> 6)
    shaSched n ((w.getD 15 0 + s0 + w.getD 6 0 + s1) :: w)

/-- One round on the eight working variables. -/
def shaRound (v : List (BitVec 64)) (kw : BitVec 64) : List (BitVec 64) :=
  match v with
  | [a, b, c, d, e, f, g, h] =>
    let t1 := h + (e.rotateRight 14 ^^^ e.rotateRight 18 ^^^ e.rotateRight 41) + ((e &&& f) ^^^ (~~~e &&& g)) + kw
    let t2 := (a.rotateRight 28 ^^^ a.rotateRight 34 ^^^ a.rotateRight 39) + ((a &&& b) ^^^ (a &&& c) ^^^ (b &&& c))
    [t1 + t2, a, b, c, d + t1, e, f, g]
  | v => v

def shaBlock (h : List (BitVec 64)) (b : List Byte) : List (BitVec 64) :=
  let w := (List.range 16).map (fun i => BitVec.ofNat 64 (bigBytes ((b.drop (8 * i)).take 8)))
  let sched := (shaSched 64 w.reverse).reverse
  List.zipWith (· + ·) h ((List.zipWith (· + ·) shaK sched).foldl shaRound h)

/-- Blocks of 128 bytes in turn. -/
def shaBlocks : Nat → List (BitVec 64) → List Byte → List (BitVec 64)
  | 0, h, _ => h
  | n + 1, h, l => shaBlocks n (shaBlock h (l.take 128)) (l.drop 128)

def sha384 (l : List Byte) : List Byte :=
  let p := shaPad l
  ((shaBlocks (p.length / 128) shaH0 p).take 6).flatMap (fun w => toBig 8 w.toNat)

/-! ECDSA on P-384. -/

def ecP : Nat := 2 ^ 384 - 2 ^ 128 - 2 ^ 96 + 2 ^ 32 - 1
def ecN : Nat := 0xffffffffffffffffffffffffffffffffffffffffffffffffc7634d81f4372ddf581a0db248b0a77aecec196accc52973
def ecB : Nat := 0xb3312fa7e23ee7e4988e056be3f82d19181d9c6efe8141120314088f5013875ac656398d8a2ed19d2a85c8edd3ec2aef
def ecG : Nat × Nat :=
  (0xaa87ca22be8b05378eb1c71ef320ad746e1d3b628ba79b9859f741e082542a385502f25dbf55296c3a545e3872760ab7,
   0x3617de4a96262c6f5d9e98bf9292dc29f8f41dbd289a147ce9da3113b5f0b8c00a60b1ce1d7e819d7a431d7c90ea0e5f)

/-- The power of a residue, bits of the exponent from the top. -/
def powMod (a m e : Nat) : Nat → Nat
  | 0 => 1
  | k + 1 =>
    let h := powMod a m (e / 2) k
    if e = 0 then 1 else if e % 2 = 1 then h * h % m * a % m else h * h % m

/-- The inverse modulo a prime of 384 bits. -/
def invMod (a m : Nat) : Nat := powMod (a % m) m (m - 2) 384

/-- The sum of two points; `none` is the point at infinity. -/
def ecAdd : Option (Nat × Nat) → Option (Nat × Nat) → Option (Nat × Nat)
  | none, q => q
  | p, none => p
  | some (x1, y1), some (x2, y2) =>
    if x1 = x2 && (y1 + y2) % ecP = 0 then none
    else
      let l := if x1 = x2 then (3 * x1 * x1 + ecP - 3) * invMod (2 * y1) ecP % ecP
        else (y2 + ecP - y1) * invMod (x2 + ecP - x1) ecP % ecP
      let x3 := (l * l + 2 * ecP - x1 - x2) % ecP
      some (x3, (l * (x1 + ecP - x3) + ecP - y1) % ecP)

/-- A multiple of a point. -/
def ecMul (p : Option (Nat × Nat)) (k : Nat) : Nat → Option (Nat × Nat)
  | 0 => none
  | n + 1 =>
    let h := ecMul p (k / 2) n
    let h := ecAdd h h
    if k % 2 = 1 then ecAdd h p else h

/-- The signature (r, s) of the hash is valid for the key (x, y). PRESUMED: log entry 42. -/
def ecdsaValid (hash : Nat) (r s x y : Nat) : Bool :=
  if r = 0 || s = 0 || ecN ≤ r || ecN ≤ s || ecP ≤ x || ecP ≤ y
      || decide (y * y % ecP ≠ (x * x * x + ecP * x - 3 * x + ecB) % ecP) then false
  else
    let w := invMod s ecN
    match ecAdd (ecMul (some ecG) (hash * w % ecN) 384) (ecMul (some (x, y)) (r * w % ecN) 384) with
    | none => false
    | some (vx, _) => vx % ecN = r

end Sys2Proof.Machine
end

