-- ==== Sys2Proof/Machine/Reset.lean ====
section
/-! DEFINITION. Resets and their reach, the boot, images and their verification, group voting, trial and recovery (R681 to
R704, R725, R726). -/

namespace Sys2Proof.Machine

open Sys2Proof

/-! Resets (R681, R682). -/

/-- Keys of flash memory, and of retention SRAM. -/
def isFlashKey (k : Nat) : Bool := decide (2 ^ 40 ≤ k) && decide (k < 2 ^ 44)
def isRetKey (k : Nat) : Bool := decide (2 ^ 45 ≤ k)

/-- What flash tells FLASHC at a reset: counter groups, bank mapping, protection level, scrub mark (R498, R518, R519). DESIGN
CHOICE: log entry 2. -/
def flashRegs (d : Dev) : Dev :=
  let d := wr d FLASHC.FLBOOT (fset FLASHC.FLBOOT_BOOTSEL (fset FLASHC.FLBOOT_ROM (fset FLASHC.FLBOOT_SWAPS 0 d.swaps) 1) (d.swaps % 2))
  let d := setBit (wr d FLASHC.FLRDP (w32 d.rdpNext)) DDRC.DSTAT 28 d.scrubMark
  jShow d (d.swaps % 2)

/-- The last unit-wide reset (R681), and the strap as the reset value of `HXSD` (R640). -/
def resetCause (d : Dev) (cause pip : Nat) : Dev :=
  let d := wr d HUSK.HXSD (w32 (gf d HUSK.HSTRAP HUSK.HSTRAP_XSD))
  wr d SYSCFG.RSTCAUSE (fset SYSCFG.RSTCAUSE_SRCPIP (w32 cause) pip)

/-- The strap that makes a unit a chain's head is read as `CHSTAT.HEAD` after every reset (R3, R713). DEDUCED: log entry 46.
-/
def headKept (d n : Dev) : Dev := sf n CHAIN.CHSTAT CHAIN.CHSTAT_HEAD (gf d CHAIN.CHSTAT CHAIN.CHSTAT_HEAD)

/-- A power-on or a RESET_N reset: flash, option area, OTP and the pins' levels stay, and retention SRAM with `ret`. DESIGN
CHOICE: log entry 2. DEDUCED: log entry 46. -/
def coldReset (d : Dev) (cause : Nat) (ret : Bool) : Dev :=
  let stays (k : Nat) : Bool := isFlashKey k || (ret && isRetKey k)
  headKept d <| resetCause (flashRegs { ({} : Dev) with
    now := d.now, free := d.free, regs := d.regs.filter (fun e => e.1 = HUSK.HSTRAP.addr || e.1 = PINMUX.BANKV.addr),
    mem := d.mem.filter (fun c => stays c.1), mtag := d.mtag.filter (fun c => stays (4 * c.1)),
    ecc := d.ecc.filter (fun c => isFlashKey (4 * c.1)), flProg := d.flProg, suspect := d.suspect, swaps := d.swaps,
    swapCut := d.swapCut || d.fl.op = 4, rdpNext := d.rdpNext, scrubMark := d.scrubMark, otp := d.otp, otpRev := d.otpRev,
    boot := { after := d.boot.after }, pinLvl := d.pinLvl }) cause 0

def execPowerOnReset (s : State) : Out :=
  .next { s with pwr := ⟨false, false, false, false, false⟩, dev := coldReset s.dev 1 false }

def execResetN (s : State) : Out :=
  .next { s with pwr := ⟨false, false, false, false, false⟩, dev := coldReset s.dev 2 true }

/-- The rails fall: what a power-on reset loses is lost, and nothing runs until one. -/
def execPowerDown (s : State) : Out :=
  .next { s with pwr := ⟨false, false, false, false, false⟩, dev := { coldReset s.dev 1 false with off := true } }

/-- A unit reset or a chain reset: TICK, memories, the reference and what a cold reset keeps stay; the DDRC stops. DEDUCED:
log entry 46. -/
def unitReset (d : Dev) (cause pip : Nat) : Dev :=
  let stays (a : Nat) : Bool :=
    (decide (0x40010000 ≤ a) && decide (a < 0x40011000)) || a = HUSK.HSTRAP.addr || a = PINMUX.BANKV.addr
  let ddr := gf d DDRC.DSTAT DDRC.DSTAT_STATE
  let ref := gf d SYSCFG.SCSTAT SYSCFG.SCSTAT_REFSRC
  let n := flashRegs { ({} : Dev) with
    now := d.now, free := d.free, regs := d.regs.filter (fun e => stays e.1), pend := d.pend.filter (fun e => stays e.1),
    tb := d.tb, tphase := d.tphase, tickno := d.tickno, tickts := d.tickts, tbHold := d.tbHold, huskRan := d.huskRan,
    tbArm := d.tbArm, mem := d.mem, mtag := d.mtag, ecc := d.ecc, wback := d.wback, flProg := d.flProg, suspect := d.suspect,
    swaps := d.swaps, swapCut := d.swapCut || d.fl.op = 4, rdpNext := d.rdpNext, scrubMark := d.scrubMark,
    ddrUnk := d.ddrUnk, ddrOk := d.ddrOk, otp := d.otp, otpRev := d.otpRev, boot := { after := d.boot.after },
    chain := { aligned := d.chain.aligned }, jtagIr := d.jtagIr, bsr := d.bsr, tdr := d.tdr, pinLvl := d.pinLvl,
    pinSyn := d.pinSyn }
  let n := headKept d (sf (resetCause n cause pip) SYSCFG.SCSTAT SYSCFG.SCSTAT_REFSRC ref)
  if ddr = 0 then n else sf n DDRC.DSTAT DDRC.DSTAT_STATE 3

/-- A write to `SRESET` (R685). -/
def writeSreset (d : Dev) (v : Word) : Dev := if v = 0x5A7C then unitReset d 3 0 else d

def execSreset (v : Word) (s : State) : Out := clocked s (fun d => writeSreset d v)

/-- A RESET frame (R617). -/
def chainReset (d : Dev) (f : Frame) : Dev :=
  if f.cls = 4 && f.sub = 5 && f.scope = 0 && hasPip d && f.dst.toNat = ownPip d && gf d CHAIN.CHCFG CHAIN.CHCFG_RSTEN = 1 then
    unitReset d 4 f.src.toNat
  else d

def execChainReset (f : Frame) (s : State) : Out := clocked s (fun d => chainReset d f)

/-- A watchdog's pair reset, or the unit reset that `WDBOOT` makes of it (R684). -/
def wdReset (d : Dev) (p : Nat) : Dev := if d.boot.wd then unitReset d 3 0 else pairReset d p 1

/-- A pair reset by its watchdog, or by a double fault (R683). -/
def execPairReset (p : Fin 4) (wd : Bool) (s : State) : Out :=
  clocked s (fun d => if wd then wdReset d p else pairReset d p 2)

/-- The count of a running watchdog has reached 0 (R447). -/
def wdExpiry (d : Dev) (p : Nat) : Dev :=
  if (pairGet d p).run && gf d (PAIRC.PWDCNT p) PAIRC.PWDCNT_LEFT = 0 then wdReset d p else d

def execWatchdogExpiry (p : Fin 4) (s : State) : Out := clocked s (fun d => wdExpiry d p)

/-- The lowering from level 1 ends, with the unit reset that follows (R519). -/
def rdpLowered (d : Dev) : Dev :=
  if d.fl.op = 5 then
    unitReset { d with mem := d.mem.filter (fun c => decide (2 ^ 44 ≤ c.1) && !isRetKey c.1),
                       mtag := d.mtag.filter (fun c => decide (2 ^ 44 ≤ 4 * c.1) && !isRetKey (4 * c.1)),
                       ecc := d.ecc.filter (fun c => decide (2 ^ 44 ≤ 4 * c.1)), wback := [], flProg := [], suspect := [],
                       fl := {}, rdpNext := 0 } 5 0
  else d

def execRdpLowering (s : State) : Out := clocked s rdpLowered

/-! Manifests (R689 to R692). -/

def mfBytes (d : Dev) (bank o n : Nat) : List Byte := rdBytes d (keyFlash bank o) n
def mfNat (d : Dev) (bank o n : Nat) : Nat := ofLeBytes (mfBytes d bank o n)
def mfParts (d : Dev) (bank : Nat) : Nat := mfNat d bank 6 1
def mfMembers (d : Dev) (bank : Nat) : Nat := mfNat d bank 7 1
def mfLen (d : Dev) (bank : Nat) : Nat := mfNat d bank 8 4
def mfSeq (d : Dev) (bank : Nat) : Nat := mfNat d bank 0x0C 4
def mfTries (d : Dev) (bank : Nat) : Nat := mfNat d bank 0x14 1
def mfKey (d : Dev) (bank : Nat) : Nat := mfNat d bank 0x15 1 % 4
def mfGroup (d : Dev) (bank : Nat) : Nat := mfNat d bank 0x18 4
def mfWait (d : Dev) (bank : Nat) : Nat := mfNat d bank 0x1C 1
def mfFlags (d : Dev) (bank : Nat) : Nat := mfNat d bank 0x1D 1
def mfBootWd (d : Dev) (bank : Nat) : Nat := mfNat d bank 0x1E 2

/-- A part: type, pair mask, offset, length, entry, hash. -/
structure Part where
  typ : Nat
  mask : Nat
  off : Nat
  len : Nat
  addr : Nat
  hash : List Byte
deriving DecidableEq, Repr

def mfPart (d : Dev) (bank i : Nat) : Part :=
  let o := 0x40 + 64 * i
  ⟨mfNat d bank o 1, mfNat d bank (o + 1) 1 % 16, mfNat d bank (o + 4) 4, mfNat d bank (o + 8) 4, mfNat d bank (o + 12) 4,
   mfBytes d bank (o + 16) 48⟩
def partList (d : Dev) (bank : Nat) : List Part := (List.range (mfParts d bank)).map (mfPart d bank)

/-- The other members of the group: pip and the hash of their manifest. -/
def memberList (d : Dev) (bank : Nat) : List (Nat × List Byte) :=
  (List.range (mfMembers d bank)).map (fun j =>
    let o := 0x40 + 64 * (mfParts d bank + j)
    (mfNat d bank o 2 % 512, mfBytes d bank (o + 16) 48))

/-- Parts that overlap none of those after them. -/
def partsApart : List Part → Bool
  | [] => true
  | p :: l => l.all (fun q => decide (p.off + p.len ≤ q.off) || decide (q.off + q.len ≤ p.off)) && partsApart l
def masksApart : List Nat → Bool
  | [] => true
  | m :: l => l.all (fun n => m &&& n = 0) && masksApart l

/-- A manifest is well formed (R690). PRESUMED: log entry 42. -/
def wellFormed (d : Dev) (bank : Nat) : Bool :=
  let ps := partList d bank
  let cores := ps.filter (fun p => p.typ = 1)
  mfNat d bank 0 4 = 0x464D565A && mfNat d bank 5 1 = 1 && decide (4 ≤ mfParts d bank) && decide (mfParts d bank ≤ 16)
    && decide (mfMembers d bank ≤ 31) && decide (mfNat d bank 0x15 1 < 4) && mfFlags d bank / 2 % 8 = 0 && mfLen d bank = 64 * (1 + mfParts d bank + mfMembers d bank)
    && decide (mfTries d bank ≤ 15) && decide (1 ≤ mfWait d bank) && (decide (mfMembers d bank ≠ 0) || mfGroup d bank = 0)
    && ps.all (fun p => decide (1 ≤ p.typ) && decide (p.typ ≤ 6) && decide (0x10000 ≤ p.off) && decide (p.off + p.len ≤ 0xF80000)
        && (decide (p.typ ≠ 3) || decide (p.len ≤ 0x4000)) && (decide (p.typ = 1) || (p.mask = 0 && p.addr = 0)))
    && partsApart ps && [3, 4, 5].all (fun t => (ps.filter (fun p => p.typ = t)).length = 1)
    && cores.any (fun p => p.mask.testBit 0) && masksApart (cores.map (·.mask))
    && cores.all (fun p => decide (p.off ≤ p.addr) && decide (p.addr < p.off + p.len))

/-- A read of a range of a bank meets an uncorrectable error or a suspect sector (R691). -/
def mediaBad (d : Dev) (bank o n : Nat) : Bool :=
  d.ecc.any (fun e => e.2 = 2 && decide (keyFlash bank o ≤ 4 * e.1 + 3) && decide (4 * e.1 < keyFlash bank (o + n)))
    || d.suspect.any (fun s => s / 256 = bank && decide (o < 65536 * (s % 256 + 1)) && decide (65536 * (s % 256) < o + n))

/-- The first part that fails, with the reason. -/
def partsBad (d : Dev) (bank : Nat) : List (Part × Nat) → Option (Nat × Nat)
  | [] => none
  | (p, i) :: l =>
    if mediaBad d bank p.off p.len then some (6, i)
    else if sha384 (mfBytes d bank p.off p.len) ≠ p.hash then some (4, i)
    else partsBad d bank l

def ownHash (d : Dev) (bank : Nat) : List Byte := sha384 (mfBytes d bank 0 (mfLen d bank))

/-- Verification of an image: none, or the reason of R700 with the part (R691). PRESUMED: log entry 42. -/
def verify (d : Dev) (bank : Nat) : Option (Nat × Nat) :=
  let len := mfLen d bank
  let slot := mfKey d bank
  let n (o : Nat) : Nat := mfNat d bank (len + o) 48
  if mediaBad d bank 0 4096 then some (6, 0)
  else if !wellFormed d bank then some (1, 0)
  else if find d.otp slot ≠ some (sha384 (mfBytes d bank (len + 96) 96)) || d.otpRev.getLsbD slot then some (2, 0)
  else if !ecdsaValid (bigBytes (ownHash d bank)) (n 0) (n 48) (n 96) (n 144) then some (3, 0)
  else partsBad d bank (partList d bank).zipIdx

/-! Status lines (R699). -/

/-- The types of the programmed lines of a status area. -/
def statusLines (d : Dev) (bank : Nat) : List Nat :=
  ((List.range 128).filter (fun i => flLineSet d bank (0xF000 + 32 * i))).map (fun i => mfNat d bank (0xF000 + 32 * i) 1)

/-- A line of a type joins a status area that has room. -/
def statusAdd (d : Dev) (bank typ reason part pip : Nat) : Dev :=
  match (List.range 128).find? (fun i => !flLineSet d bank (0xF000 + 32 * i)) with
  | none => d
  | some i => flPutLine d bank (0xF000 + 32 * i)
      (bitsLine [0x53540000 + typ, reason * 2 ^ 24 + part * 2 ^ 16 + pip, (tnoLow d).toNat, 0, 0, 0, 0, 0])

def actBank (d : Dev) : Nat := bootSel d
def stgBank (d : Dev) : Nat := 1 - bootSel d
def seqShown (d : Dev) (bank : Nat) : Nat := if wellFormed d bank then mfSeq d bank else 0

/-! Rejection (R700, R703). -/

/-- A rejection with its reason; `rolled` after a rollback. -/
def bootReject (d : Dev) (reason part pip : Nat) (rolled : Bool) : Dev :=
  let persistent := (decide (1 ≤ reason) && decide (reason ≤ 6)) || reason = 10
  let d := wr d SYSCFG.BOOTREJ (w32 (reason * 2 ^ 24 + part * 2 ^ 16 + pip))
  let d := setBit d SYSCFG.BOOTSTAT 0 true
  let d := if persistent then statusAdd d (stgBank d) 3 reason part pip else d
  let fallback := (verify d (stgBank d)).isNone && !(statusLines d (stgBank d)).contains 3
  let flags := (if persistent then 1 else 0) + (if rolled then 2 else 0) + (if fallback then 4 else 0)
  hSet d (fun h => { h with reject := some [w32 (reason + 2 ^ 8 * part + 2 ^ 16 * pip), w32 (seqShown d (stgBank d)),
    w32 (seqShown d (actBank d)), w32 flags] })

/-! The steps of the boot (R687). -/

/-- Steps 4: the swap counter is repaired, and FLASHC is at its reset values (R498, R517). -/
def bootFlash (d : Dev) : Dev :=
  let d := { d with swaps := d.swaps + (if d.swapCut then 1 else 0), swapCut := false, fl := {}, flSusp := none }
  flashRegs (clearRegs d 0x40040000 0x40041000)

/-- A journal sector with a line that is no record is erased again. -/
def journalMend (d : Dev) (js : Nat) : Dev × Nat :=
  if (flLines d js).any (fun i => (jRecord d js i).isNone) then (flWipe d js, 1) else (d, 0)

/-- Sectors of a bank whose last ERASE_BEGIN has no later ERASE_END. -/
def journalSuspects (d : Dev) (bank : Nat) : List Nat :=
  let rs := jRecords d (256 * bank + 254) ++ jRecords d (256 * bank + 255)
  (List.range 254).filter (fun s => rs.any (fun b => b.1 = 2 && b.2.2 = s
    && !rs.any (fun e => e.1 = 3 && e.2.2 = s && decide (b.2.1 < e.2.1))))

/-- Step 5, `bad` being the sectors that fail every margin read (R513). -/
def journalScan (d : Dev) (bad : List Nat) : Dev :=
  let q := [254, 255, 510, 511].foldl (fun (x : Dev × Nat) js => let r := journalMend x.1 js; (r.1, x.2 + r.2)) (d, 0)
  let sus := (journalSuspects q.1 0) ++ (journalSuspects q.1 1).map (· + 256)
  let d := forEach sus (fun d s =>
    let again (d : Dev) : Dev := jEnd (flWipe (jBegin d s) s) s
    let d := if bad.contains s then again (again (again d)) else again d
    { d with suspect := if bad.contains s then (s :: d.suspect.filter (· != s)) else d.suspect.filter (· != s) }) q.1
  jShow (sf d FLASHC.FLJSTAT FLASHC.FLJSTAT_REP (min 15 (q.2 + sus.length))) (actBank d)

/-- An activation: a swap is counted and the unit resets (R696, R701); none where the counter is exhausted. -/
def activate (d : Dev) (after : Nat) : Option Dev :=
  if 4096 ≤ d.swaps then none
  else
    let d := unitReset { d with swaps := d.swaps + 1 } 6 0
    some { d with boot := { after := after } }

/-- The recovery loader takes the place of steps 7 to 10 (R702). -/
def bootRecovery (d : Dev) (reason : Nat) : Dev :=
  let d := bootReject d reason 0 0 false
  { sf d SYSCFG.BOOTSTAT SYSCFG.BOOTSTAT_STATE 1 with boot := { stage := 9 } }

/-- Step 10: each pair that a core image covers starts (R687). -/
def bootHand (d : Dev) : Dev :=
  let d := sf { d with boot := { wd := d.boot.wd, stage := 0 } } FLASHC.FLBOOT FLASHC.FLBOOT_ROM 0
  let d := wr (wr d SYSCFG.BOOTSEQ (w32 (mfSeq d (actBank d)))) SYSCFG.STGSEQ (w32 (seqShown d (stgBank d)))
  forEach ((partList d (actBank d)).filter (fun p => p.typ = 1)) (fun d x =>
    forEach ((List.range 4).filter (fun p => x.mask.testBit p)) (fun d p =>
      let d := pairPut d p { pairGet d p with entry := some (w32 x.addr) }
      coreStart (coreStart d (2 * p) (some (w32 x.addr))) (2 * p + 1) (some (w32 x.addr))) d) d

/-- `BOOTSTAT` and `BOOTTIME` as the boot ROM leaves them; the run time is open. DESIGN CHOICE: log entry 43. -/
def bootShow (d : Dev) (after trials : Nat) (trial confirmed : Bool) : Dev :=
  let q := draw d
  let d := q.2
  let d := sf (sf d SYSCFG.BOOTSTAT SYSCFG.BOOTSTAT_TRIAL (min 15 trials)) SYSCFG.BOOTSTAT SYSCFG.BOOTSTAT_FIRST
    (if after = 1 || (trial && decide (trials ≤ 1)) then 1 else 0)
  let d := sf (sf d SYSCFG.BOOTSTAT SYSCFG.BOOTSTAT_CONF (if trial && !confirmed then 0 else 1)) SYSCFG.BOOTSTAT
    SYSCFG.BOOTSTAT_FALLBK (if after = 2 then 1 else 0)
  let d := sf d SYSCFG.BOOTSTAT SYSCFG.BOOTSTAT_ROLLBK (if after = 3 then 1 else 0)
  wr d SYSCFG.BOOTTIME (w32 (Config.freeNat q.1 % 2 ^ 20))

/-- Step 9: trial bookkeeping and the boot watchdog, then step 10 (R696, R697). DEDUCED: log entry 44. -/
def bootTrial (d : Dev) : Dev :=
  let b := actBank d
  let after := d.boot.after
  let lines := statusLines d b
  let trials := (lines.filter (fun t => t = 1)).length
  let confirmed := lines.contains 2
  let trial := decide (mfTries d b ≠ 0) && !confirmed && (after = 1 || (after = 0 && decide (trials ≠ 0)))
  let ended := trial && decide (mfTries d b ≤ trials)
  let back := if ended && (verify d (stgBank d)).isNone then activate (statusAdd d b 4 10 0 0) 3 else none
  match back with
  | some d => d
  | none =>
    let d := if trial && !ended then statusAdd d b 1 0 0 0 else d
    let d := if mfBootWd d b = 0 then d
      else writePwdcfg d 0 (fset PAIRC.PWDCFG_LIMIT (fset PAIRC.PWDCFG_EN 0 1) (mfBootWd d b))
    let d := bootShow d after (if trial && !ended then trials + 1 else trials) trial confirmed
    let d := if ended then bootReject d 10 0 0 false else d
    let d := match after with
      | 2 => bootReject d 11 0 0 false
      | 3 => bootReject d 10 0 0 true
      | _ => d
    bootHand { d with boot := { d.boot with wd := trial && !ended && mfFlags d b % 2 = 1 } }

/-- The activation of an update, or its rejection where no swap is left (reason 9). DEDUCED: log entry 44. -/
def bootActivate (d : Dev) : Dev :=
  match activate d 1 with
  | some d => d
  | none => bootTrial (bootReject d 9 0 0 false)

/-! Group voting (R694, R695). -/

/-- Payload of a VOTE: kind (0 PASS, 1 FAIL, 2 GO), group, manifest hash. DESIGN CHOICE: log entry 45. -/
def votePayload (kind group : Nat) (hash : List Byte) : List Byte := leBytes 4 kind ++ leBytes 4 group ++ hash

def voteTo (d : Dev) (pip kind group : Nat) (hash : List Byte) : Dev :=
  let q := newFrame d pip 0 4 7 (votePayload kind group hash)
  sendTo q.2 q.1

/-- A VOTE to each member of the staging image. -/
def voteAll (d : Dev) (kind : Nat) : Dev :=
  let b := stgBank d
  forEach (memberList d b) (fun d m => voteTo d m.1 kind (mfGroup d b) (ownHash d b)) d

def voteCoordinator (d : Dev) : Nat := leastOf ((memberList d (stgBank d)).map (·.1)) (ownPip d)

/-- The activation comes once the frames that wait at the ports, the vote's last among them, have left (R694, R696). -/
def voteLeave (d : Dev) : Dev := if d.chq.all (fun e => e.2.isEmpty) then bootActivate d else { d with boot := { d.boot with stage := 10 } }

/-- A GO line, and the activation. -/
def voteGo (d : Dev) : Dev := voteLeave (statusAdd d (stgBank d) 5 0 0 (ownPip d))

def execFrameSend (p : Fin 3) (s : State) : Out :=
  onPort s p (fun d => let d := frameSend d p; if d.boot.stage = 10 then voteLeave d else d) (frameSend · p)

def execPortQueueDrop (p : Fin 3) (s : State) : Out :=
  onPort s p (fun d => let d := linkDown d p; if d.boot.stage = 10 then voteLeave d else d) (linkDown · p)

/-- The coordinator acts once every member has passed. -/
def votePassed (d : Dev) : Dev :=
  if voteCoordinator d = ownPip d && (memberList d (stgBank d)).all (fun m => d.boot.pass.contains m.1) then
    voteLeave (voteAll (statusAdd d (stgBank d) 5 0 0 (ownPip d)) 2)
  else d

/-- A VOTE while the vote runs. DESIGN CHOICE: log entry 45. -/
def voteTake (d : Dev) (kind src : Nat) (hash : List Byte) : Dev :=
  match kind with
  | 0 =>
    if (memberList d (stgBank d)).contains (src, hash) && !d.boot.pass.contains src then
      votePassed { d with boot := { d.boot with pass := src :: d.boot.pass } }
    else d
  | 1 => if ((memberList d (stgBank d)).map (·.1)).contains src then bootTrial (bootReject d 7 0 src false) else d
  | 2 => voteGo d
  | _ => d

/-- A VOTE frame (R694, R695). -/
def vote (d : Dev) (f : Frame) : Dev :=
  let kind := ofLeBytes (f.payload.take 4)
  let group := ofLeBytes ((f.payload.drop 4).take 4)
  let hash := (f.payload.drop 8).take 48
  if !(f.cls = 4 && f.sub = 7 && inScope d f) then d
  else match d.boot.stage with
    | 8 => if group = mfGroup d (stgBank d) then voteTake d kind f.src.toNat hash else d
    | 0 =>
      let b := actBank d
      if kind = 0 then
        if hash = ownHash d b && group = mfGroup d b then voteTo d f.src.toNat 2 group hash else d
      else if kind = 2 && (statusLines d (stgBank d)).isEmpty then statusAdd d (stgBank d) 5 0 0 f.src.toNat
      else d
    | _ => d

def execVote (f : Frame) (s : State) : Out := clocked s (fun d => vote d f)

/-- Every 10 ms the vote is repeated. DESIGN CHOICE: log entry 45. -/
def voteSend (d : Dev) : Dev :=
  if d.boot.stage = 8 then
    let d := advanceTo d (d.boot.sent + 6000000)
    voteAll { d with boot := { d.boot with sent := d.now } } 0
  else d

def execVoteSend (s : State) : Out := clocked s voteSend

/-- No GO came within the window. -/
def voteTimeout (d : Dev) : Dev :=
  if d.boot.stage = 8 then
    let d := advanceTo d (d.boot.t0 + 60000000 * mfWait d (stgBank d))
    let pip := match (memberList d (stgBank d)).find? (fun m => !d.boot.pass.contains m.1) with
      | some m => m.1
      | none => voteCoordinator d
    bootTrial (bootReject d 8 0 pip false)
  else d

def execVoteTimeout (s : State) : Out := clocked s voteTimeout

/-! The boot itself. -/

/-- The staging IMGSEQ is ahead of the active one (R693). -/
def seqAhead (d : Dev) : Bool :=
  let n := (mfSeq d (stgBank d) + 2 ^ 32 - mfSeq d (actBank d)) % 2 ^ 32
  decide (1 ≤ n) && decide (n < 2 ^ 31)

/-- Step 8: a pending update, or one with a GO line (R693, R695). DEDUCED: log entry 44. -/
def bootUpdate (d : Dev) : Dev :=
  let b := stgBank d
  let lines := statusLines d b
  if mfNat d b 0 4 ≠ 0x464D565A then bootTrial d
  else if lines.isEmpty then
    let group := wellFormed d b && decide (mfMembers d b ≠ 0)
    let refuse (d : Dev) (reason part : Nat) : Dev := bootTrial (bootReject (if group then voteAll d 1 else d) reason part 0 false)
    match verify d b with
    | some (reason, part) => refuse d reason part
    | none =>
      if !seqAhead d then refuse d 5 0
      else if mfMembers d b = 0 then bootActivate d
      else voteAll { d with boot := { d.boot with stage := 8, t0 := d.now, sent := d.now, pass := [] } } 0
  else if lines.contains 5 && !lines.contains 3 && (verify d b).isNone && seqAhead d then bootActivate d
  else bootTrial d

/-- Step 7: the Husk controller's firmware goes to retention SRAM. -/
def bootHusk (d : Dev) : Dev :=
  match (partList d (actBank d)).find? (fun p => p.typ = 3) with
  | some p => wrBytes d (keyRet 0) (mfBytes d (actBank d) p.off p.len)
  | none => d

/-- Steps 4 to 10, from the reset to firmware, an activation, a vote or the recovery loader (R687, R701, R702). DESIGN
CHOICE: log entry 43. -/
def boot (d : Dev) (bad : List Nat) : Dev :=
  if d.boot.stage = 1 then
    let d := journalScan (bootFlash d) bad
    match verify d (actBank d), verify d (stgBank d) with
    | none, _ => bootUpdate (bootHusk d)
    | some _, none =>
      if (statusLines d (stgBank d)).contains 3 then bootRecovery d 12
      else match activate d 2 with
        | some d => d
        | none => bootRecovery d 9
    | some _, some _ => bootRecovery d 12
  else d

def execBoot (bad : List Nat) (s : State) : Out := clocked s (fun d => boot d bad)

/-- A write to `SBCONF` (R698). -/
def writeSbconf (d : Dev) (v : Word) : Dev :=
  if v = 0x6B2D && gf d SYSCFG.BOOTSTAT SYSCFG.BOOTSTAT_CONF = 0 then
    let b := actBank d
    let keep := fset ⟨mfKey d b, mfKey d b⟩ (w32 (mfFlags d b / 16)) 0
    let d := sf (statusAdd d b 2 0 0 0) SYSCFG.BOOTSTAT SYSCFG.BOOTSTAT_CONF 1
    { d with otpRev := d.otpRev ||| keep, boot := { d.boot with wd := false } }
  else d

def execSbconf (v : Word) (s : State) : Out := clocked s (fun d => writeSbconf d v)

/-! What configuration space shows of the unit (R552 to R554): views of State, since no command reads it. DEDUCED: log entry 79. -/

/-- The words of configuration space that hold the unit's identity (R552); the offsets are PCI's. PRESUMED: log entry 79. -/
def configIdentity (o : Nat) : Option Word :=
  if o = 0 then some 0x7240F1D7 else if o = 8 then some 0x12000003 else if o = 0x2C then some 0x7240F1D7 else none

/-- Range 1 of the DVSEC for CXL devices: its size, Memory_Info_Valid and Memory_Active (R553, R557); Range 2 is empty. -/
def configRange (d : Dev) (k : Nat) : Nat × Bool × Bool := if k = 1 then (ddrCap d, true, memActive d) else (0, false, false)

/-- A word of the Zheavanto host DVSEC (R554), its offset counted from the capability header. -/
def hostDvsec (d : Dev) (o : Nat) : Word :=
  match o with
  | 0x00 => fset ⟨31, 20⟩ 0x00010023 Config.dvsecNext.toNat
  | 0x04 => 0x0401F1D7
  | 0x08 => 0x01000001
  | 0x0C => fset ⟨15, 15⟩ (fset ⟨14, 12⟩ (w32 (ownPip d)) (gf d PAIRC.TWSTAT PAIRC.TWSTAT_STATE)) (gf d CHAIN.CHSTAT CHAIN.CHSTAT_HEAD)
  | 0x10 => 0x01010100
  | 0x14 => 0x01010100
  | 0x18 => 0x0C402010
  | 0x1C => w32 (gf d DDRC.DCAP DDRC.DCAP_MIB)
  | 0x20 => w32 (mfNat d (actBank d) 0x10 4)
  | 0x24 => w32 (gf d CXLC.HRCAUSE CXLC.HRCAUSE_CAUSE)
  | _ => 0

end Sys2Proof.Machine
end

