-- ==== Sys2Proof/Machine/Bus.lean ====
section
/-! DEFINITION. Reads and writes of peripheral registers by every initiator, and the commands made of them: REGISTER_WRITE,
WRITE and READ of a host ring, the debugger's accesses (R13 to R20, R248, R489 to R491, R577, R648, R669 to R673). -/

namespace Sys2Proof.Machine

open Sys2Proof

/-! The map (R489, R490). -/

/-- Blocks by address bits [21:16] below 0x4040_0000; each takes its 64 KiB. DEDUCED: log entry 48. -/
def slotExists (a : Nat) : Bool :=
  let b := (a - 0x40000000) / 65536
  decide (0x40000000 ≤ a) && (decide (b ≤ 10) || (decide (16 ≤ b) && decide (b ≤ 20)) || b = 32 || b = 33
    || (decide (36 ≤ b) && decide (b ≤ 48)) || b = 64 || (b = 65 && decide (a < 0x40412000)))

/-- Gate bit of a block that has a gate (R647). DEDUCED: log entry 9. DEDUCED: log entry 69. -/
def gateOf (a : Nat) : Option Nat :=
  match (a - 0x40000000) / 65536 with
  | 2 => some 0
  | 5 => some 16
  | 6 => some 15
  | 8 => some 17
  | 9 => some 18
  | 16 => if a < 0x40108000 then some (1 + (a - 0x40100000) / 0x1000) else some 9
  | 17 => some 10
  | 18 => some 11
  | 19 => some 12
  | 20 => some 13
  | b => if b = 32 || b = 33 || (36 ≤ b && b ≤ 47) then some 14 else none

/-- The core-local registers of a core: core block, control block and `DBGMARK` (R375, R670). -/
def coreLocal (a : Nat) : Bool := (0x40410000 ≤ a && a < 0x40412000) || (0x40401000 ≤ a && a < 0x40402000)

/-- The ticked register whose pending copy an address names (R19, R143, R201, R224, R248, R471). -/
def pendAt (a : Nat) : Option Reg :=
  let b := (a - 0x40000000) / 65536
  if b = 36 || b = 37 || b = 38 || b = 39 then
    tickedAt (0x40280000 + 0x200 * ((a - 0x40240000) / 0x100) + (a - 0x40240000) % 0x100)
  else if b = 18 || b = 19 || b = 20 then if 0x8000 ≤ a % 65536 then tickedAt (a - 0x8000) else none
  else if 0x40034000 ≤ a && a < 0x40035000 then tickedAt (a - 0x2000)
  else if (rowAt a).isNone && 0x800 ≤ a % 4096 then tickedAt (a - 0x800)
  else none

/-! Reads. -/

/-- The tag of a read; registers without a first result or write read VOID (R94, R336, R472). -/
def rowTag (d : Dev) (r : RegRow) (a : Nat) : Tag :=
  let held := (0x40033000 ≤ a && a < 0x40034000) || (0x40411040 ≤ a % 2 ^ 32 && a % 2 ^ 32 < 0x40411080)
  if r.tag = .fix || held then (if look d.tags a false then r.tag else .void) else r.tag

/-- What the registers show that are no words of their own. -/
def liveWord (d : Dev) (a : Nat) (w : Word) : Word :=
  let o := a % 65536
  let i := o / 0x400
  match (a - 0x40000000) / 65536 with
  | 0 => if o = 0x10C || o = 0x120 then 0 else w
  | 1 =>
    match o with
    | 0x00 => (tbShown d).setWidth 32
    | 0x04 => (tbShown d >>> 32).setWidth 32
    | 0x24 => w32 d.tphase
    | 0x28 => tnoLow d
    | 0x2C => (d.tickno >>> 32).setWidth 32
    | 0x30 => d.tickts.setWidth 32
    | 0x34 => (d.tickts >>> 32).setWidth 32
    | 0x104 => w ||| 1
    | _ => w
  | 2 => if o = 0 then gflags d else if 0x100 ≤ o && o < 0x500 && o % 32 = 8 then w32 (gptCount d ((o - 0x100) / 32)) else w
  | 3 => if 0x40 ≤ o && o < 0x60 then icoreNow d ((o - 0x40) / 4) else w
  | 4 => if o = 0x0C then 0 else w
  | 6 =>
    if o < 0x200 && o % 0x40 = 0x20 then cvRes d (o / 0x40)
    else if o < 0x200 && o % 0x40 = 0x14 then fset CVU.CVSTAT_BORROW w (if d.now < look d.cvBorrow (o / 0x40) 0 then 1 else 0)
    else w
  | 7 => if o = 0x420 then fset PAIRC.TWMBYTES_MAX w (mirMax d) else w
  | 17 => if o = 0 then w32 (tripLines d) else w
  | 18 =>
    if o % 0x400 = 0x18 then w32 (triCount d i)
    else if o % 0x400 = 0x14 then fset TRIAD.TSTAT_SLOPE w (if (triGet d i).run && (triGet d i).fall then 1 else 0)
    else w
  | 19 => if o % 0x400 = 0x44 then fbSpd d i else w
  | 32 => if o = 8 then ploadNow d else if 0x300 ≤ o && o < 0x400 then pcstateNow d ((o - 0x300) / 4) else w
  | 33 => if o = 0x38 then celRateNow d else w
  | 48 => if 0x20 ≤ o && o < 0x30 then rd d (PINMUX.GPOUT (o / 4 % 2)) else w
  | _ => w

/-- The register at a key, read with its side effect (R17). -/
def rowRead (d : Dev) (a : Nat) : Dev × TWord :=
  match rowAt a with
  | none => (d, ⟨.bits, 0⟩)
  | some r =>
    let x : Reg := ⟨a, if r.base = 0x40050040 then r.rst + w32 ((a - r.base) / 4) else r.rst⟩
    let w := rd d x
    (if w &&& r.rc = 0 then d else wr d x (w &&& ~~~r.rc), ⟨rowTag d r a, liveWord d a w⟩)

/-- The present slip is a matter of timing: an open value (R431). DEDUCED: log entry 50. -/
def slipRead (d : Dev) (p : Nat) (t : TWord) : Dev × TWord :=
  if paired d p then let q := draw d; (q.2, { t with w := fset PAIRC.PSTAT_SLIP t.w (Config.freeNat q.1 % 512) }) else (d, t)

/-- A core-local register of core `c`. -/
def coreRead (d : Dev) (c a : Nat) : Dev × TWord :=
  let r := rowRead d (a + coreOff c)
  match a with
  | 0x40410000 => (r.1, ⟨.bits, rd d (CORE.FEAT0 (if paired d (c / 2) then c / 2 * 2 else c))⟩)
  | 0x40411000 => (r.1, ⟨.bits, statusNow d c⟩)
  | _ => r

/-- A read of one word of the peripheral region. DEDUCED: log entry 48. -/
def busRead (d : Dev) (ini : Initiator) (a : Nat) : Dev × Acc TWord :=
  if a % 4 ≠ 0 then (d, .error (10, 2))
  else if !slotExists a then (d, .error (10, 1))
  else if coreLocal a then
    match ini with
    | .core c => let r := coreRead d c.val a; (r.1, .ok r.2)
    | _ => (d, .error (10, 1))
  else if !((gateOf a).all (gateOpen d)) then (d, .ok ⟨.bits, 0⟩)
  else if 0x400A4000 ≤ a && a < 0x400B0000 then (d, .ok ⟨.bits, rdW d (keyRet (a - 0x400A0000))⟩)
  else match pendAt a with
    | some r => (d, .ok ⟨((rowAt r.addr).map (·.tag)).getD .bits, rdPend d r⟩)
    | none =>
      let r := rowRead d a
      if 0x40070000 ≤ a && a < 0x40070100 && a % 0x40 = 0x10 then let q := slipRead r.1 ((a - 0x40070000) / 0x40) r.2; (q.1, .ok q.2)
      else (r.1, .ok r.2)

/-! Writes. -/

/-- A write by the access types of the row alone (R17, R19). -/
def rowWrite (d : Dev) (a : Nat) (v : Word) : Dev :=
  match rowAt a with
  | none => d
  | some r =>
    let x : Reg := ⟨a, r.rst⟩
    let w := rd d x
    let d := if r.rwt = 0 then d else wrPend d x ((rdPend d x &&& ~~~r.rwt) ||| (v &&& r.rwt))
    let n := ((w &&& ~~~r.rw) ||| (v &&& r.rw)) &&& ~~~(v &&& r.w1c)
    if n = w then d else wr d x n

/-- A ticked register written at its own or its pending address. -/
def tickedWrite (d : Dev) (a : Nat) (r : Reg) (v : Word) : Dev :=
  let o := r.addr % 65536
  match (r.addr - 0x40000000) / 65536 with
  | 1 => writeTickper d v
  | 2 => if o % 32 = 0 then writeGcfg d ((o - 0x100) / 32) v else rowWrite d r.addr v
  | 5 => if o = 0 then writeDcfg d v else if 0x40 ≤ o && o < 0x80 then writeDwin d ((o - 0x40) / 4) v else rowWrite d r.addr v
  | 6 => writeCvuTicked d a v
  | 7 => writePaircTicked d a v
  | 8 => writeChainTicked d a v
  | 9 => writeCxlcTicked d a v
  | 16 => writeAdcTicked d a v
  | 17 => writeRindTicked d a v
  | 18 => writeTriTicked d a v
  | 19 => writeFbTicked d a v
  | 20 => writeLeTicked d a v
  | 33 => writePoutTicked d a v
  | 48 => writePmux d a v
  | b => if b = 32 || (36 ≤ b && b ≤ 47) then writeCtxTicked d a v else rowWrite d r.addr v

/-- `LIMF` is 1 while a bit of `LIMSTAT` is (R107); `CMPF` likewise for the fired compares (R141). -/
def limRefresh (d : Dev) (n : Nat) : Dev := if rd d (ADC.LIMSTAT n) = 0 then setBit d (ADC.ASTAT n) 4 false else d
def cmpRefresh (d : Dev) (f : Nat) : Dev :=
  if gf d (FB.FCMPSTAT f) FB.FCMPSTAT_FIRED = 0 then setBit d (FB.FSTAT f) 8 false else d

/-- The bits of a number that are 1, each acted on. -/
def onBit (v : Word) (b : Nat) (f : Dev → Dev) (d : Dev) : Dev := if v.getLsbD b then f d else d

/-- `CHCMD`: its pip, then its commands. -/
def writeChcmd (d : Dev) (v : Word) : Dev :=
  let d := wr d CHAIN.CHCMD (v &&& 0x01FF0000)
  onBit v 2 writeRelease (onBit v 1 writeMapgo (onBit v 0 writeTjump d))

/-- `ACAL`: `SKIP`, then a start. -/
def writeAcal (d : Dev) (n : Nat) (v : Word) : Dev := onBit v 0 (adcCalStart · n) (wr d (ADC.ACAL n) (v &&& 2))

/-- A register that is not ticked. -/
def plainWrite (d : Dev) (ini : Initiator) (a : Nat) (v : Word) : Dev :=
  let o := a % 65536
  let q := o % 0x400
  let i := o / 0x400
  let n := o / 0x1000
  let gen (d : Dev) : Dev := rowWrite d a v
  match (a - 0x40000000) / 65536 with
  | 0 =>
    match o with
    | 0x10 => writeSgate d v
    | 0x2C =>
      let d := wr d SYSCFG.SCLREL (v &&& 0xFFFF)
      onBit v 16 (sclRelease · (v.toNat % 65536)) d
    | 0x10C => writeSreset d v
    | 0x120 => writeSbconf d v
    | _ => gen d
  | 1 =>
    if o = 0x08 then onBit v 0 tbSnap d
    else if o = 0x44 then writeCmarm d v
    else if 0x100 ≤ o && o < 0x180 then if o % 8 = 0 then writeCgtgt d ((o - 0x100) / 8) v else writeCgctl d ((o - 0x100) / 8) v
    else if 0x300 ≤ o && o < 0x310 then writeTbcmp d ((o - 0x300) / 4) v
    else gen d
  | 2 =>
    if 0x100 ≤ o && o < 0x500 && o % 32 = 8 then writeGcnt d ((o - 0x100) / 32) v
    else if 0x100 ≤ o && o < 0x500 && o % 32 = 12 then writeGcmp d ((o - 0x100) / 32) v
    else gen d
  | 3 =>
    if 0x180 ≤ o && o < 0x200 then writeIset d ((o - 0x180) / 4) v
    else if 0x3000 ≤ o && o < 0x4000 then writeIvec d ((o - 0x3000) / 4) v
    else gen d
  | 4 => if o = 0x0C then writeFlcmd d v (ini = .debugger) else gen d
  | 6 =>
    if o < 0x200 && o % 0x40 = 0x18 then writeCvrun d (o / 0x40) v
    else if o < 0x200 && o % 0x40 = 0x24 then writeCvexp d (o / 0x40) v
    else gen d
  | 7 =>
    if o < 0x100 && o % 0x40 = 0x2C then writePwdcfg d (o / 0x40) v
    else if o < 0x100 && o % 0x40 = 0x30 then writePwdsvc d (match ini with | .core c => some c.val | _ => none) (o / 0x40) v
    else if o = 0x424 then onBit v 1 twinRebind (onBit v 0 twinSwitch d)
    else gen d
  | 8 => if o = 0x24 then writeChcmd d v else gen d
  | 9 => if o = 0xB0 then onBit v 0 fwMsg d else gen d
  | 10 => if o = 0 then onBit v 0 writeSleep d else gen d
  | 16 =>
    if n < 8 then
      match o % 0x1000 with
      | 0x24 => writeAcal d n v
      | 0x2C => onBit v 0 (aswtTrig · n) d
      | 0x240 => limRefresh (gen d) n
      | _ => gen d
    else gen d
  | 17 =>
    if o = 4 then writeRswt d v
    else if o = 8 then writeRilat d v
    else if 0x100 ≤ o && o < 0x400 && o % 16 = 8 then writeWstat d ((o - 0x100) / 16) v
    else gen d
  | 18 =>
    if q = 0x20 then onBit v 1 (tcmdSafe · i) (onBit v 0 (tcmdRelease · i) d)
    else if q = 0x40 || q = 0x50 || q = 0x60 then writeLduty d i ((q - 0x40) / 16) v
    else gen d
  | 19 =>
    match q with
    | 0x2C => leFbFault (gen d) i
    | 0x30 => writeFpos d i v
    | 0x60 => onBit v 0 (fun d => fbSwt d i (fbA d i)) (onBit v 1 (fbIarm · i) d)
    | 0xC0 => cmpRefresh (gen d) i
    | _ => if 0x80 ≤ q && q < 0xC0 && q % 16 = 4 then writeFcmp d i ((q - 0x80) / 16) v else gen d
  | 20 =>
    match q with
    | 0x30 => onBit v 1 (leIrst · i) (onBit v 0 (leResume · i) d)
    | 0xE0 => writeLhcmd d i v
    | 0xF8 => writeLswts d i v
    | _ => gen d
  | 48 => if 0x18 ≤ o && o < 0x30 then writeGpout d o v else gen d
  | 64 => if o = 0x18 || o = 0x34 then gen d else if o = 0x08 then gen d else d
  | _ => gen d

/-- `TKB` (R378). -/
def writeTkb (d : Dev) (c : Nat) (v : Word) : Dev :=
  let sz := fget CORE.TKB_SZ v
  if sz < 8 || 13 < sz || 4 < fget CORE.TKB_NLOG v then d else wr d (CORE.TKB c) (v &&& 0xFFFFFF07)

/-- `STATUS`: only `IE` (R419). -/
def writeStatus (d : Dev) (c : Nat) (v : Word) : Dev := sf d (CORE.STATUS c) stIe (fget stIe v)

/-- `CCTL`: clearing `L1EN` empties the L1 (R391); a change of `DETM` only refetches (R403). -/
def writeCctl (d : Dev) (c : Nat) (v : Word) : Dev :=
  let d := wr d (CORE.CCTL c) (v &&& 0xF)
  if fget CORE.CCTL_L1EN v = 0 then l1Empty d c else d

/-- A core writes one of its own registers; a write of `FP` may end in an exception of its fill (R389). -/
def coreWrite (d : Dev) (c a : Nat) (v : Word) : Dev × Try Unit :=
  let ok (d : Dev) : Dev × Try Unit := (d, .ok ())
  match a with
  | 0x4041001C => ok (writeTkb d c v)
  | 0x40411000 => ok (writeStatus d c v)
  | 0x40411004 => ok (writeCctl d c v)
  | 0x4041100C => frameJump d c v.toNat
  | 0x40411024 => ok (onBit v 0 (l1Empty · c) d)
  | 0x40401000 => ok (writeDbgmark d c v)
  | _ =>
    let d := rowWrite d (a + coreOff c) v
    if 0x40411040 ≤ a && a < 0x40411080 then ok { d with tags := put d.tags (a + coreOff c) true } else ok d

/-- A write of one word of the peripheral region. DEDUCED: log entry 48. -/
def busWrite (d : Dev) (ini : Initiator) (a : Nat) (v : Word) : Dev × Acc Unit :=
  if a % 4 ≠ 0 then (d, .error (10, 2))
  else if !slotExists a then (d, .error (10, 1))
  else if coreLocal a then
    match ini with
    | .core c =>
      let r := coreWrite d c.val a v
      match r.2 with
      | .ok () => (r.1, .ok ())
      | .error (.exc k code _ _) => (r.1, .error (k, code))
      | .error (.wait _) => (d, .ok ())
      | .error .diverge => (divergeLoad r.1 c.val, .ok ())
    | _ => (d, .error (10, 1))
  else if !((gateOf a).all (gateOpen d)) then (d, .ok ())
  else if 0x400A4000 ≤ a && a < 0x400B0000 then (wrW d (keyRet (a - 0x400A0000)) v, .ok ())
  else match pendAt a, tickedAt a with
    | some r, _ => (tickedWrite d a r v, .ok ())
    | none, some r => (tickedWrite d a r v, .ok ())
    | none, none => (plainWrite d ini a v, .ok ())

/-! REGISTER_WRITE (R13, R19). -/

/-- An error response goes to the initiator: a core takes its exception (R414). -/
def busAnswer (d : Dev) (ini : Initiator) (a : Nat) (r : Acc Unit) : Dev :=
  match r with
  | .ok () => { d with busErr := false }
  | .error e =>
    let d := { d with busErr := true }
    match ini with
    | .core c => takeExc d c.val e.1 e.2 0 a (coreGet d c.val).pc
    | _ => d

/-- A write to a register; one that is no aligned word is answered with an error and changes none. DEDUCED: log entry 50. -/
def registerWrite (d : Dev) (ini : Initiator) (a size : Nat) (v : Word) : Dev :=
  if size ≠ 4 then busAnswer d ini a (.error (10, 2))
  else let r := busWrite d ini a v; busAnswer r.1 ini a r.2

def execRegisterWrite (ini : Initiator) (addr size : Nat) (v : Word) (s : State) : Out :=
  clocked s (fun d => registerWrite d ini addr size v)

/-! WRITE and READ of a host ring (R577). -/

/-- An address that the masks let through: of a write with `wr`, else of a read. -/
def hostAllows (d : Dev) (write : Bool) (a : Word) : Bool :=
  let n := a.toNat
  let b := (n - 0x40000000) / 65536
  let m := if write then (if b < 32 then rd d CXLC.HWMASKLO else rd d CXLC.HWMASKHI)
    else (if b < 32 then rd d CXLC.HRMASKLO else rd d CXLC.HRMASKHI)
  decide (0x40000000 ≤ n) && decide (n < 0x40400000) && n % 4 = 0 && m.getLsbD (b % 32)

/-- Writes in order, up to the first that is answered with an error, whose index is the answer, or that resets the unit. -/
def hostWriteEach : List (Nat × Word × Word) → Dev → Dev × Option Nat
  | [], d => (d, none)
  | (j, a, v) :: l, d =>
    let r := busWrite d .host a.toNat v
    match r.2 with
    | .ok () => if r.1.boot.stage = 1 && d.boot.stage ≠ 1 then (r.1, none) else hostWriteEach l r.1
    | .error _ => (r.1, some j)

/-- Reads in order with the words they gave. -/
def hostReadEach : List (Nat × Word) → Dev → Dev × List Word × Option Nat
  | [], d => (d, [], none)
  | (j, a) :: l, d =>
    let r := busRead d .host a.toNat
    match r.2 with
    | .ok t => let q := hostReadEach l r.1; (q.1, t.w :: q.2.1, q.2.2)
    | .error _ => (r.1, [], some j)

/-- Nothing completes after a WRITE to `SRESET` (R681, R685).
The recovery loader's WRITE reaches `SRESET` whatever the masks hold (R702). -/
def hostWrite (d : Dev) (r : Nat) : Dev :=
  onDesc d r 3 (fun d x =>
    let n := dByte x 4
    let l := (List.range n).map (fun j => (j, dWord x (2 + 2 * j), dWord x (3 + 2 * j)))
    if n < 1 || 6 < n then complete d r x 4 0 []
    else match l.find? (fun e => !(recovery d || hostAllows d true e.2.1)) with
      | some e => complete d r x 3 e.1 []
      | none =>
        let q := hostWriteEach l d
        match q.2 with
        | some j => complete q.1 r x 8 j []
        | none => if q.1.boot.stage = 1 && d.boot.stage ≠ 1 then q.1 else complete q.1 r x 0 0 [])

def execWrite (r : Fin 12) (s : State) : Out := clocked s (fun d => hostWrite d r)

def hostRead (d : Dev) (r : Nat) : Dev :=
  onDesc d r 4 (fun d x =>
    let n := dByte x 4
    let l := (List.range n).map (fun j => (j, dWord x (2 + j)))
    if n < 1 || 11 < n then complete d r x 4 0 []
    else match l.find? (fun e => !hostAllows d false e.2) with
      | some e => complete d r x 3 e.1 []
      | none =>
        let q := hostReadEach l d
        match q.2.2 with
        | some j => complete q.1 r x 8 j q.2.1
        | none => complete q.1 r x 0 0 q.2.1)

def execRead (r : Fin 12) (s : State) : Out := clocked s (fun d => hostRead d r)

/-! The debugger (R669 to R673). -/

def dbgStatus (d : Dev) (st : Nat) : Dev := sf d DBG.DBGMCMD DBG.DBGMCMD_STATUS st

/-- An address the DEBUG block does not reach (R673). -/
def dbgBarred (d : Dev) (a : Nat) (write : Bool) : Bool :=
  let mem := inSram a || inFlash a || inDdr a || (0x40040000 ≤ a && a < 0x40050000)
  decide (a % 4 ≠ 0) || inCoreBlock a || inControlBlock a || (write && inFlash a)
    || (rdpLevel d ≠ 0 && mem && !(write && a = 0x4004000C))

/-- The end of a memory access: `STATUS`, and the next address with `INC`. -/
def dbgEnd (d : Dev) (good : Bool) : Dev :=
  let d := if good then dbgStatus d 2 else dbgFlag (dbgStatus d 3) 2
  if gf d DBG.DBGMCMD DBG.DBGMCMD_INC = 1 then wr d DBG.DBGMADDR (rd d DBG.DBGMADDR + 4) else d

/-- `DBGMCMD.READ`. -/
def dbgMemRead (d : Dev) : Dev :=
  let a := (rd d DBG.DBGMADDR).toNat
  if dbgBarred d a false then dbgEnd d false
  else
    let r := if inSram a || inFlash a || inDdr a then memRead d a else busRead d .debugger a
    match r.2 with
    | .ok t => dbgEnd (wr (wr r.1 DBG.DBGMDATA t.w) DBG.DBGMTAG (w32 (tagCode t.tag))) true
    | .error _ => dbgEnd r.1 false

def execDbgMemoryRead (s : State) : Out := clocked s dbgMemRead

/-- `DBGMCMD.WRITE`. -/
def dbgMemWrite (d : Dev) : Dev :=
  let a := (rd d DBG.DBGMADDR).toNat
  if dbgBarred d a true then dbgEnd d false
  else
    let t : TWord := ⟨tagOf (gf d DBG.DBGMTAG DBG.DBGMTAG_TAG), rd d DBG.DBGMDATA⟩
    let r := if inSram a || inDdr a then memWrite d a t else busWrite d .debugger a t.w
    match r.2 with
    | .ok () => dbgEnd r.1 true
    | .error _ => dbgEnd r.1 false

def execDbgMemoryWrite (s : State) : Out := clocked s dbgMemWrite

/-- A debugger write to the unit-wide part; `FRZREQ` and `HALT` only at level 0. DEDUCED: log entry 38. -/
def dbgWrite (d : Dev) (a : Nat) (v : Word) : Dev :=
  match a - 0x40400000 with
  | 0x04 =>
    let open0 := rdpLevel d = 0
    let old := rd d DBG.DBGCTL
    let keep : Word := if open0 then 0 else 0x1FF
    let d' := wr d DBG.DBGCTL ((v &&& 0xFDFF &&& ~~~keep) ||| (old &&& keep))
    let d' := if open0 then writeHalt d' (v.toNat % 256) else d'
    if open0 && v.getLsbD 8 && !old.getLsbD 8 then freezeReq d' else d'
  | 0x0C =>
    let d := forEach (List.range 8) (fun d c => onBit v (8 + c) (stepCore · c) d) d
    onBit v 0 dbgSnap d
  | 0x1C => writeDbgmsg d v
  | 0x2C =>
    let d := sf d DBG.DBGMCMD DBG.DBGMCMD_INC (fget DBG.DBGMCMD_INC v)
    onBit v 1 dbgMemWrite (onBit v 0 dbgMemRead d)
  | _ => rowWrite d a v

/-- The registers that answer while FROZEN. -/
def dbgFrozenOk (a : Nat) : Bool := a - 0x40400000 < 0x18

/-- DBGACC: the access, and what the next Capture-DR loads: [32] completed, [33] with an error; at read-out protection level
1 and 2 it acts as BYPASS (R667). DEDUCED: log entry 77. -/
def dbgacc (d : Dev) (write : Bool) (idx : Nat) (v : Word) : Dev :=
  let a := 0x40400000 + 4 * idx
  let show' (d : Dev) (w : Word) (err : Bool) : Dev :=
    { d with jtagIr := 8, tdr := w.setWidth 43 ||| BitVec.ofNat 43 (2 ^ 32 + if err then 2 ^ 33 else 0) }
  if rdpLevel d ≠ 0 then { d with jtagIr := 31, tdr := 0 }
  else if frz d = 2 && !dbgFrozenOk a then show' d 0 true
  else if write then show' (dbgWrite d a v) 0 false
  else let r := rowRead d a; show' r.1 r.2.w false

/-- With the clocks stopped other than by a freeze an access has not completed by Capture-DR and waits (R669). DEDUCED: log
entry 77. -/
def dbgaccWait (d : Dev) (write : Bool) (idx : Nat) (v : Word) : Dev :=
  if rdpLevel d ≠ 0 then { d with jtagIr := 31, tdr := 0 }
  else { d with jtagIr := 8, tdr := 0, tapWait := d.tapWait ++ [(write, idx, v)] }

/-- At Update-DR; a write of `FRZREQ` = 0 while FROZEN starts the release (R671). -/
def execDbgacc (wr : Bool) (idx : BitVec 10) (v : Word) (s : State) : Out :=
  if s.pwr.root || s.pwr.frozen then
    let t := { s with dev := dbgacc s.dev wr idx.toNat v }
    if wr && idx = 1 && !v.getLsbD 8 && rdpLevel s.dev = 0 && !s.pwr.root then execFreezeRelease t else .next t
  else if s.dev.off then .next s
  else onDev s (fun d => dbgaccWait d wr idx.toNat v)

/-- The root clocks run again, or for the first time: the low-rate links train, and debugger accesses that waited complete
with nothing reported (R663, R669). DEDUCED: log entry 77. -/
def clocksBack (d : Dev) : Dev :=
  let d := chainTrain d
  let e := forEach d.tapWait (fun d x => dbgacc d x.1 x.2.1 x.2.2) { d with tapWait := [] }
  { e with jtagIr := d.jtagIr, tdr := d.tdr }

/-- The PLL locks and every domain is aligned (R641). -/
def execPllLock (s : State) : Out :=
  .next (if s.pwr.crystal && !s.pwr.root && !s.pwr.asleep && !s.pwr.frozen then
    { s with pwr := ⟨true, true, true, false, false⟩, dev := clocksBack s.dev }
  else s)

end Sys2Proof.Machine
end

