-- ==== Sys2Proof/Machine/Alu.lean ====
section
/-! DEFINITION. What the data instructions compute from tagged words: the tag rules, the results at the edges of each
format, conversions and comparisons (R351 to R362, R365 to R368), as functions of the words alone. -/

namespace Sys2Proof.Machine

open Sys2Proof

/-- A result with the IEEE exceptions it raises (NV 1, DZ 2, OF 4, UF 8, NX 16) and whether it saturates. -/
structure Alu where
  t : TWord
  ieee : Nat := 0
  sat : Bool := false
deriving DecidableEq, Repr

/-- Why there is no result: a tag fault of cause 2, a divide fault, an overflow fault. -/
inductive AluErr where
  | tag | divide | overflow
deriving DecidableEq, Repr

abbrev AluRes := Except AluErr Alu

/-- The number a word stands for by its tag: signed for INT and FIX, unsigned otherwise. DEDUCED: log entry 70. -/
def numOf (t : TWord) : Int :=
  match t.tag with
  | .int => t.w.toInt
  | .fix => t.w.toInt
  | _ => t.w.toNat

/-- Limits of a result format. -/
def fmtLo : Tag → Int
  | .int => -(2 ^ 31)
  | .fix => -(2 ^ 31)
  | _ => 0
def fmtHi : Tag → Int
  | .int => 2 ^ 31 - 1
  | .fix => 2 ^ 31 - 1
  | _ => 2 ^ 32 - 1

/-- A result that wraps. -/
def wrapRes (t : Tag) (x : Int) : AluRes := .ok { t := ⟨t, ofInt x⟩ }

/-- The nearest limit, with SAT. -/
def satRes (t : Tag) (x : Int) : AluRes := .ok { t := ⟨t, ofInt (clampI x (fmtLo t) (fmtHi t))⟩, sat := true }

/-- An exact result in its format by the variant (R352): 0 none, 1 `.W`, 2 `.S`. -/
def fitRes (t : Tag) (v : Nat) (x : Int) : AluRes :=
  if t = .angle || t = .count || (decide (fmtLo t ≤ x) && decide (x ≤ fmtHi t)) then wrapRes t x
  else
    match t, v with
    | _, 1 => wrapRes t x
    | .fix, _ => satRes t x
    | .int, 2 => satRes t x
    | .nat, 2 => satRes t x
    | _, _ => .error .overflow

/-- A REAL result with its exceptions. -/
def realRes (r : Word × Nat) : AluRes := .ok { t := ⟨.real, r.1⟩, ieee := r.2 }

def tagErr : AluRes := .error .tag

/-- `ADD` (R351). -/
def aluAdd (v : Nat) (a b : TWord) : AluRes :=
  let s := numOf a + numOf b
  match a.tag, b.tag with
  | .int, .int => fitRes .int v s
  | .nat, .nat => fitRes .nat v s
  | .fix, .fix => fitRes .fix v s
  | .real, .real => realRes (fAdd a.w b.w)
  | .angle, .angle => wrapRes .angle s
  | .angle, .fix => wrapRes .angle s
  | .fix, .angle => wrapRes .angle s
  | .count, .int => wrapRes .count s
  | .count, .nat => wrapRes .count s
  | .int, .count => wrapRes .count s
  | .nat, .count => wrapRes .count s
  | .addr, .int => fitRes .addr v s
  | .addr, .nat => fitRes .addr v s
  | .int, .addr => fitRes .addr v s
  | .nat, .addr => fitRes .addr v s
  | .code, .int => fitRes .code v s
  | _, _ => tagErr

/-- `SUB` (R351). -/
def aluSub (v : Nat) (a b : TWord) : AluRes :=
  let s := numOf a - numOf b
  match a.tag, b.tag with
  | .int, .int => fitRes .int v s
  | .nat, .nat => fitRes .nat v s
  | .fix, .fix => fitRes .fix v s
  | .real, .real => realRes (fSub a.w b.w)
  | .angle, .angle => wrapRes .fix s
  | .angle, .fix => wrapRes .angle s
  | .count, .int => wrapRes .count s
  | .count, .nat => wrapRes .count s
  | .count, .count => wrapRes .int s
  | .addr, .int => fitRes .addr v s
  | .addr, .nat => fitRes .addr v s
  | .addr, .addr => wrapRes .int s
  | .code, .int => fitRes .code v s
  | _, _ => tagErr

/-- The tag of a product (R353). -/
def mulTag : Tag → Tag → Option Tag
  | .int, .int => some .int
  | .nat, .nat => some .nat
  | .fix, .fix => some .fix
  | .fix, .int => some .fix
  | .int, .fix => some .fix
  | .real, .real => some .real
  | .angle, .int => some .angle
  | .angle, .nat => some .angle
  | .int, .angle => some .angle
  | .nat, .angle => some .angle
  | _, _ => none

/-- `d + a × b` but for REAL, rounded once (R354): `d` in result bits. -/
def mulSum (d : Int) (a b : TWord) : Int :=
  if a.tag = .fix && b.tag = .fix then (d * 2 ^ 31 + numOf a * numOf b + 2 ^ 30) / 2 ^ 31 else d + numOf a * numOf b

/-- `MUL` (R353, R354). -/
def aluMul (v : Nat) (a b : TWord) : AluRes :=
  match mulTag a.tag b.tag with
  | none => tagErr
  | some .real => realRes (fMul a.w b.w)
  | some t => fitRes t v (mulSum 0 a b)

/-- `MAC` (R353 to R355). -/
def aluMac (v : Nat) (d a b : TWord) : AluRes :=
  match mulTag a.tag b.tag with
  | none => tagErr
  | some t =>
    if d.tag ≠ t then tagErr
    else if t = .real then realRes (fFma d.w a.w b.w)
    else fitRes t v (mulSum (numOf d) a b)

/-- A FIX divided by 0: the limit of its sign, SAT set (R361). DEDUCED: log entry 56. -/
def fixDivZero (a : TWord) : AluRes :=
  .ok { t := ⟨.fix, if 0 < numOf a then 0x7FFFFFFF else if numOf a < 0 then 0x80000000 else 0⟩, sat := true }

/-- `DIV` (R353, R361). DEDUCED: log entry 56. -/
def aluDiv (v : Nat) (a b : TWord) : AluRes :=
  let x := numOf a
  let y := numOf b
  match a.tag, b.tag with
  | .int, .int => if y = 0 then .error .divide else fitRes .int v (x.tdiv y)
  | .nat, .nat => if y = 0 then .error .divide else fitRes .nat v (x.tdiv y)
  | .fix, .fix =>
    if y = 0 then fixDivZero a
    else if y.natAbs ≤ x.natAbs then
      .ok { t := ⟨.fix, if (decide (x < 0)) == (decide (y < 0)) then 0x7FFFFFFF else 0x80000000⟩, sat := true }
    else wrapRes .fix ((x * 2 ^ 31).tdiv y)
  | .fix, .int => if y = 0 then fixDivZero a else fitRes .fix v (x.tdiv y)
  | .real, .real => realRes (fDiv a.w b.w)
  | .angle, .nat => if y = 0 then .error .divide else wrapRes .angle (x.tdiv y)
  | _, _ => tagErr

/-- `REM` (R353, R361). -/
def aluRem (a b : TWord) : AluRes :=
  match a.tag, b.tag with
  | .int, .int => if numOf b = 0 then .error .divide else wrapRes .int ((numOf a).tmod (numOf b))
  | .nat, .nat => if numOf b = 0 then .error .divide else wrapRes .nat ((numOf a).tmod (numOf b))
  | _, _ => tagErr

/-- `NEG` (R357, R361). -/
def aluNeg (v : Nat) (a : TWord) : AluRes :=
  match a.tag with
  | .int => fitRes .int v (-numOf a)
  | .fix => fitRes .fix v (-numOf a)
  | .angle => wrapRes .angle (-numOf a)
  | .real => realRes (fNegate a.w, 0)
  | _ => tagErr

/-- `ABS` (R357, R361). -/
def aluAbs (v : Nat) (a : TWord) : AluRes :=
  match a.tag with
  | .int => fitRes .int v (numOf a).natAbs
  | .fix => fitRes .fix v (numOf a).natAbs
  | .real => realRes (a.w &&& 0x7FFFFFFF, 0)
  | _ => tagErr

/-- `AND`, `OR`, `XOR` (R358). -/
def aluLogic (f : Word → Word → Word) (a b : TWord) : AluRes :=
  match a.tag, b.tag with
  | .bits, .bits => .ok { t := ⟨.bits, f a.w b.w⟩ }
  | .nat, .nat => .ok { t := ⟨.nat, f a.w b.w⟩ }
  | _, _ => tagErr

/-- `NOT` (R358). -/
def aluNot (a : TWord) : AluRes :=
  match a.tag with
  | .bits => .ok { t := ⟨.bits, ~~~a.w⟩ }
  | .nat => .ok { t := ⟨.nat, ~~~a.w⟩ }
  | _ => tagErr

/-- A count is tagged NAT or INT, and all its bits are unsigned (R359). DEDUCED: log entry 53. -/
def countTag (t : Tag) : Bool := t = .nat || t = .int

/-- `SHL` (R359 to R361). -/
def aluShl (v : Nat) (a n : TWord) : AluRes :=
  if !countTag n.tag then tagErr
  else
    let k := min n.w.toNat 64
    match a.tag with
    | .int => fitRes .int v (numOf a * 2 ^ k)
    | .nat => fitRes .nat v (numOf a * 2 ^ k)
    | .fix => fitRes .fix v (numOf a * 2 ^ k)
    | .bits => wrapRes .bits (numOf a * 2 ^ k)
    | _ => tagErr

/-- `SHR` (R359, R361). -/
def aluShr (a n : TWord) : AluRes :=
  if !countTag n.tag then tagErr
  else match a.tag with
    | .nat => wrapRes .nat (numOf a / 2 ^ min n.w.toNat 64)
    | .bits => wrapRes .bits (numOf a / 2 ^ min n.w.toNat 64)
    | _ => tagErr

/-- `SHA` (R359, R361). -/
def aluSha (a n : TWord) : AluRes :=
  let s := ofInt (a.w.toInt / 2 ^ min n.w.toNat 64)
  if !countTag n.tag then tagErr
  else match a.tag with
    | .int => .ok { t := ⟨.int, s⟩ }
    | .fix => .ok { t := ⟨.fix, s⟩ }
    | .bits => .ok { t := ⟨.bits, s⟩ }
    | _ => tagErr

/-- `ROT` (R359). -/
def aluRot (a n : TWord) : AluRes :=
  if !countTag n.tag then tagErr
  else match a.tag with
    | .bits => .ok { t := ⟨.bits, a.w.rotateLeft (n.w.toNat % 32)⟩ }
    | _ => tagErr

/-- The relation of a comparison (R362): 0 EQ, 1 LT, 2 GT, 3 UN; nothing for a pair outside the table. DEDUCED: log entry 56.
-/
def aluCmp (a b : TWord) : Option (Nat × Nat) :=
  let ord (x y : Int) : Option (Nat × Nat) := some (if x = y then 0 else if x < y then 1 else 2, 0)
  let past : Option (Nat × Nat) :=
    let d := (a.w - b.w).toNat
    some (if d = 0 then 0 else if 2 ^ 31 ≤ d then 1 else 2, 0)
  let same : Option (Nat × Nat) := some (if a.w = b.w then 0 else 3, 0)
  match a.tag, b.tag with
  | .int, .int => ord (numOf a) (numOf b)
  | .fix, .fix => ord (numOf a) (numOf b)
  | .int, .nat => ord (numOf a) (numOf b)
  | .nat, .int => ord (numOf a) (numOf b)
  | .nat, .nat => ord (numOf a) (numOf b)
  | .addr, .addr => ord (numOf a) (numOf b)
  | .code, .code => ord (numOf a) (numOf b)
  | .real, .real => some (fCmp a.w b.w, fNvIf (fSignals a.w || fSignals b.w))
  | .count, .count => past
  | .angle, .angle => past
  | .bits, .bits => same
  | .desc, .desc => same
  | _, _ => none

/-- Bits with a new tag. -/
def bitsRes (t : Tag) (w : Word) : AluRes := .ok { t := ⟨t, w⟩ }

/-- A REAL value converted to a format of limits `lo` and `hi` after scaling by `2^k` (R366). DEDUCED: log entry 55. -/
def realTo (t : Tag) (w : Word) (k : Int) (lo hi : Int) (rm : Nat) : AluRes :=
  let off (x : Int) : AluRes := .ok { t := ⟨t, ofInt x⟩, ieee := fNV, sat := true }
  match fToInt w k rm with
  | some (x, inexact) => if x < lo then off lo else if hi < x then off hi else .ok { t := ⟨t, ofInt x⟩, ieee := if inexact then fNX else 0 }
  | none =>
    match fUnpack w with
    | .inf s => off (if s then lo else hi)
    | _ => off 0

/-- A REAL converted to turns modulo 1, which are never negative, so that toward 0 is toward −∞; NaN and ∞ give 0. -/
def realToAngle (w : Word) (rm : Nat) : AluRes :=
  match fToInt w 32 (if rm = 1 then 2 else rm) with
  | some (x, inexact) => .ok { t := ⟨.angle, ofInt x⟩, ieee := if inexact then fNX else 0 }
  | none => .ok { t := ⟨.angle, 0⟩, ieee := fNV, sat := true }

/-- `CVT` by target tag and rounding (R366). DEDUCED: log entry 55. -/
def aluCvt (v : Nat) (dst : Tag) (rm : Nat) (a : TWord) : AluRes :=
  let plain (t : Tag) : Bool := t = .int || t = .nat || t = .fix || t = .angle || t = .count || t = .bits
  match a.tag, dst with
  | .int, .real => realRes (fOfInt (numOf a) 0 rm)
  | .nat, .real => realRes (fOfInt (numOf a) 0 rm)
  | .count, .real => realRes (fOfInt (numOf a) 0 rm)
  | .fix, .real => realRes (fOfInt (numOf a) (-31) rm)
  | .angle, .real => realRes (fOfInt (numOf a) (-32) rm)
  | .real, .int => realTo .int a.w 0 (-(2 ^ 31)) (2 ^ 31 - 1) rm
  | .real, .nat => realTo .nat a.w 0 0 (2 ^ 32 - 1) rm
  | .real, .fix => realTo .fix a.w 31 (-(2 ^ 31)) (2 ^ 31 - 1) rm
  | .real, .angle => realToAngle a.w rm
  | .int, .nat => fitRes .nat v (numOf a)
  | .nat, .int => fitRes .int v (numOf a)
  | .addr, .nat => bitsRes .nat a.w
  | .addr, .bits => bitsRes .bits a.w
  | .code, .nat => bitsRes .nat a.w
  | .code, .bits => bitsRes .bits a.w
  | .nat, .addr => bitsRes .addr a.w
  | .nat, .code => bitsRes .code a.w
  | .bits, .addr => bitsRes .addr a.w
  | .bits, .code => bitsRes .code a.w
  | s, t => if plain s && plain t && s ≠ t then bitsRes t a.w else tagErr

/-- A binary32 value as an integer multiple of 2^−149; nothing for NaN and ∞. -/
def realFixed (w : Word) : Option Int :=
  match fUnpack w with
  | .fin s m e => some (fScaled s m e (-149))
  | _ => none

/-- The angle of a point with an infinite coordinate: the axis of the infinite one; with both infinite, an open value.
DEDUCED: log entry 57. -/
def angleInf (y x : Word) (free : Word) : Word :=
  match fUnpack y, fUnpack x with
  | .inf _, .inf _ => free
  | .inf s, _ => if s then 0xC0000000 else 0x40000000
  | _, .inf s => if s then 0x80000000 else 0
  | _, _ => 0

/-- `ATAN2` (R368); `free` stands where the spec states no angle. DEDUCED: log entry 57. -/
def aluAtan2 (free : Word) (y x : TWord) : AluRes :=
  match y.tag, x.tag with
  | .int, .int => bitsRes .angle (angleOf (numOf x) (numOf y) y.w x.w)
  | .fix, .fix => bitsRes .angle (angleOf (numOf x) (numOf y) y.w x.w)
  | .real, .real =>
    if fCmp y.w x.w = 3 then .ok { t := ⟨.angle, 0⟩, ieee := fNV }
    else match realFixed y.w, realFixed x.w with
      | some p, some q => bitsRes .angle (angleOf q p y.w x.w)
      | _, _ => bitsRes .angle (angleInf y.w x.w free)
  | _, _ => tagErr

end Sys2Proof.Machine
end

