-- ==== Sys2Proof/Machine/Flags.lean ====
section
/-! DEFINITION. The flags of `AFLAGS` and the floating-point traps (R352, R356, R362, R377, R414). -/

namespace Sys2Proof.Machine

open Sys2Proof

/-- The sticky flags of a result join `AFLAGS`. -/
def flagsJoin (d : Dev) (c ieee : Nat) (sat : Bool) : Dev :=
  wr d (CORE.AFLAGS c) (rd d (CORE.AFLAGS c) ||| w32 (2 ^ 8 * (ieee % 32) + if sat then 2 ^ 4 else 0))

/-- The relation of the last comparison. -/
def relPut (d : Dev) (c r : Nat) : Dev := sf d (CORE.AFLAGS c) CORE.AFLAGS_REL r

/-- The IEEE exceptions of a result whose trap is enabled: the lowest flag of them, in the order of the field. DEDUCED: log
entry 52. -/
def trapOf (d : Dev) (c ieee : Nat) : Option Nat :=
  (List.range 5).find? (fun i => ieee.testBit i && (rd d (CORE.FPTRAP c)).getLsbD i)

/-- A condition of `Bcc` (R363). -/
def condHolds (d : Dev) (c cc : Nat) : Bool :=
  let rel := gf d (CORE.AFLAGS c) CORE.AFLAGS_REL
  let sat := decide (gf d (CORE.AFLAGS c) CORE.AFLAGS_SAT = 1)
  match cc with
  | 0 => true
  | 1 => rel = 0
  | 2 => rel ≠ 0
  | 3 => rel = 1
  | 4 => rel = 1 || rel = 0
  | 5 => rel = 2
  | 6 => rel = 2 || rel = 0
  | 7 => rel = 3
  | 8 => rel ≠ 3
  | 9 => sat
  | _ => !sat

end Sys2Proof.Machine
end

