-- ==== Sys2Proof/Machine/Operands.lean ====
section
/-! DEFINITION. Operands of a Pyquatha instruction: the forms of R341 with their addresses and checks, the memory port with
the frame window, the store buffer, the L1 and the pair's log and output queue (R341 to R349, R387, R391 to R396, R417,
R418, R422, R432, R438 to R440). -/

namespace Sys2Proof.Machine

open Sys2Proof

/-! Forms. -/

/-- Parcels of a specifier (R341). -/
def specLen : Spec → Nat
  | .baseDispLong .. => 2
  | .index .. => 2
  | .absolute _ => 3
  | .immLong .. => 3
  | .pcRelLong _ => 3
  | _ => 1

/-- Bytes of an instruction (R339). DEDUCED: log entry 28. -/
def insnLen (i : Insn) : Nat := 2 * (1 + (i.ops.map specLen).sum)

/-- What an instruction does with an operand: reads it, writes it, both, takes an area's address, jumps to it, or takes an
immediate only. -/
inductive Role where
  | src | dst | upd | area | target | immOnly
deriving DecidableEq, Repr

/-- The tag code of an immediate; MATCH is 0xF, and 0 and 0xB to 0xE are illegal (R342). -/
def immTag (s : Spec) : Option Nat :=
  match s with
  | .imm t _ => some t.toNat
  | .immLong t _ => some t.toNat
  | _ => none
def immTagOk (n : Nat) : Bool := n ≠ 0 && (n ≤ 10 || n = 15)

/-- A specifier is legal in its place (R340 to R342). -/
def specOk (r : Role) (s : Spec) : Bool :=
  match s with
  | .reserved => false
  | _ =>
    match immTag s with
    | some n => immTagOk n && (r = .src || r = .immOnly)
    | none => r ≠ .immOnly

/-- Where an operand is: a slot of the current frame, a memory word, or an immediate (no tag: MATCH). -/
inductive Loc where
  | slot (s : Nat)
  | mem (a : Nat)
  | imm (t : Option Tag) (v : Word)
deriving DecidableEq, Repr

/-- Slot changes of POST-INCREMENT and PRE-DECREMENT, newest first. -/
abbrev Slots := List (Nat × TWord)

/-- A slot of the current frame, and with the changes made so far. -/
def slotGet (d : Dev) (c s : Nat) : TWord := (((coreGet d c).frames.headD (0, [])).2).getD s tVoid
def slotNow (d : Dev) (c : Nat) (ov : Slots) (s : Nat) : TWord := (find ov s).getD (slotGet d c s)
def slotPut (d : Dev) (c s : Nat) (t : TWord) : Dev :=
  let x := coreGet d c
  match x.frames with
  | [] => d
  | f :: l => corePut d c { x with frames := (f.1, f.2.set s t) :: l }
def slotsApply (d : Dev) (c : Nat) (ov : Slots) : Dev := ov.reverse.foldl (fun d e => slotPut d c e.1 e.2) d

def wrap32 (x : Int) : Nat := (x % 2 ^ 32).toNat

/-- A base slot holds an address; its number is operand `i` (R343). -/
def baseOf (d : Dev) (c i : Nat) (ov : Slots) (s : Nat) : Try Int :=
  let t := slotNow d c ov s
  if t.tag = .addr then .ok t.w.toNat else .error (.exc 1 4 i 0)

/-- An index slot is INT, read signed, or NAT (R343). -/
def indexOf (d : Dev) (c i : Nat) (ov : Slots) (s : Nat) : Try Int :=
  let t := slotNow d c ov s
  if t.tag = .int || t.tag = .nat then .ok (numOf t) else .error (.exc 1 4 i 0)

/-- The tick-block address (R346). -/
def tickAddr (d : Dev) (c : Nat) (p : Bool) (w : Nat) : Nat :=
  let r := rd d (CORE.TKB c)
  let n := (d.tickno.toNat + 2 ^ 48 - if p then 1 else 0) % 2 ^ fget CORE.TKB_NLOG r
  (fget CORE.TKB_BASE r * 2 ^ 12 + n * 2 ^ fget CORE.TKB_SZ r + 4 * w) % 2 ^ 32

/-! The memory port. -/

/-- A store at the front of the buffer completes at its target (R392). -/
def storeDone (d : Dev) (c : Fin 8) (a : Nat) (t : TWord) : Dev :=
  if inSram a || inDdr a then (memWrite d a t).1 else (busWrite d (.core c) a t.w).1

def sbNext (d : Dev) (c : Fin 8) : Dev :=
  let x := coreGet d c
  match x.sb with
  | [] => d
  | (a, t) :: l => storeDone (corePut d c { x with sb := l }) c a t

def sbDrain (c : Fin 8) : Nat → Dev → Dev
  | 0, d => d
  | n + 1, d => sbDrain c n (sbNext d c)

/-- Every buffered store has completed. DEDUCED: log entry 59. -/
def sbEmpty (d : Dev) (c : Fin 8) : Dev := sbDrain c (coreGet d c).sb.length d

/-- A buffered store shares a byte with the word at `a`. -/
def sbMeets (x : CoreSt) (a : Nat) : Bool := x.sb.any (fun e => decide (a < e.1 + 4) && decide (e.1 < a + 4))

/-- A memory word as the L1 fills it: nothing where it cannot be read free of errors. -/
def peekWord (d : Dev) (a : Nat) : Option TWord :=
  if inSram a then (if look d.ecc (a / 4) 0 = 0 then some (rdTW d a) else none)
  else if inFlash a then
    let held := match d.flSusp with | some e => decide (e.sec = flSec d a) | none => false
    if held || d.suspect.contains (flSec d a) || decide (look d.ecc (flKey d a / 4) 0 ≠ 0) then none else some (rdTW d (flKey d a))
  else match winAddr d a with
    | some x => if ddrUnknown d x || decide (look d.ecc (keyDdr x / 4) 0 ≠ 0) then none else some ⟨winTag d a, rdW d (keyDdr x)⟩
    | none => none

/-- A miss: the word is read, and its line is held where all of it reads well (R391). DEDUCED: log entry 58. -/
def l1Miss (d : Dev) (c : Nat) (a : Nat) : Dev × Acc TWord :=
  let r := memRead d a
  match r.2, ((List.range 4).map (fun i => peekWord r.1 (a / 16 * 16 + 4 * i))).mapM id with
  | .ok _, some ws => (corePut r.1 c { coreGet r.1 c with l1 := put (coreGet r.1 c).l1 (a / 16) ws }, r.2)
  | _, _ => r

/-- A cacheable word: whether a line once filled is still held is open, for the L1 replaces lines as it likes. -/
def l1Word (d : Dev) (c : Nat) (a : Nat) : Dev × Acc TWord :=
  match find (coreGet d c).l1 (a / 16) with
  | some ws =>
    let q := draw d
    if Config.freeNat q.1 % 2 = 0 then (q.2, .ok (ws.getD (a / 4 % 4) tVoid)) else l1Miss q.2 c a
  | none => l1Miss d c a

/-- A word at an unaligned window address, from the two words it lies in. -/
def joinWords (t : Tag) (k : Nat) (lo hi : Word) : TWord := ⟨t, (lo >>> (8 * k)) ||| (hi <<< (32 - 8 * k))⟩

def l1Read (d : Dev) (c : Nat) (a : Nat) : Dev × Acc TWord :=
  if a % 4 = 0 then l1Word d c a
  else
    let r := l1Word d c (a - a % 4)
    match r.2 with
    | .error e => (r.1, .error e)
    | .ok lo =>
      let q := l1Word r.1 c (a - a % 4 + 4)
      match q.2 with
      | .error e => (q.1, .error e)
      | .ok hi => (q.1, .ok (joinWords (winTag d a) (a % 4) lo.w hi.w))

/-- The L1 is on and may hold the word. DEDUCED: log entry 58. -/
def l1On (d : Dev) (c a : Nat) : Bool :=
  let w := rd d (CORE.CCTL c)
  fget CORE.CCTL_L1EN w = 1 && fget CORE.CCTL_DETM w = 0 && mpuCacheable d c a && mpuCacheable d c (a + 3)

/-- A word that is not in the window: earlier stores to it complete first. -/
def loadWord (d : Dev) (c : Fin 8) (a : Nat) : Dev × Acc TWord :=
  let d := if sbMeets (coreGet d c) a then sbEmpty d c else d
  if inSram a || inFlash a || inDdr a then (if l1On d c a then l1Read d c a else memRead d a)
  else busRead d (.core c) a

/-- A memory-port read (R387, R432): core-local registers are each core's own. -/
def portRead (d : Dev) (c : Fin 8) (a : Nat) : Dev × Try TWord :=
  if coreLocal a then
    if a % 4 ≠ 0 then (d, .error (.exc 10 2 0 a)) else let r := coreRead d c a; (r.1, .ok r.2)
  else onceRead d c a (fun d => match frameFind (coreGet d c) a with | some t => (d, .ok t) | none => loadWord d c a)

/-- A failure belongs to operand `i` (R416). DEDUCED: log entry 49. -/
def atOpnd {α : Type} (i : Nat) : Try α → Try α
  | .error (.exc k code _ f) => .error (.exc k code i f)
  | r => r

/-! Checks of an operand's address (step 2 of R374). -/

/-- Control-block registers that System code does not write (R418). -/
def systemBarred (d : Dev) (c a : Nat) : Bool :=
  let o := a - 0x40411000
  decide (o = 0x08) || decide (o = 0x10) || decide (o = 0x28) || decide (o = 0x2C) || (decide (0x40 ≤ o) && decide (o < 0x84))
    || (decide (0x100 ≤ o) && decide (o < 0x200))
    || (decide (0x200 ≤ o) && decide (o < 0x400) && decide (gf d (CORE.SSCP c ((o - 0x200) / 0x20)) CORE.SSCP_CPRIV = 0))

/-- The privilege an access has: 0 Monitor, 1 System, 2 Task. DEDUCED: log entry 64. -/
def privN (d : Dev) (c : Nat) : Nat := min 2 (priv d c)

/-- The half of a split access in which a byte lies (R396). -/
def halfOf (a b : Nat) : Nat :=
  if 12 < a % 16 && decide (16 - a % 16 ≤ (b + 2 ^ 32 - a) % 2 ^ 32) then (a + (16 - a % 16)) % 2 ^ 32 else a

/-- The checks of one access of a kind (0 read, 1 write) to a word. -/
def accessOk (d : Dev) (c i a kind : Nat) : Try Unit :=
  if inControlBlock a && (privN d c = 2 || (kind = 1 && privN d c = 1 && systemBarred d c a)) then .error (.exc 4 2 i 0)
  else if (inSram a || inFlash a) && a % 4 ≠ 0 then .error (.exc 2 0 i a)
  else match mpuBad d c (privN d c) kind a 4 with
    | some b => .error (.exc 3 (kind + 1) i (halfOf a b))
    | none => .ok ()

/-- The checks that a role asks for at a location. -/
def roleOk (d : Dev) (c i : Nat) (r : Role) (l : Loc) : Try Unit :=
  match l, r with
  | .mem a, .src => accessOk d c i a 0
  | .mem a, .dst => accessOk d c i a 1
  | .mem a, .upd => do accessOk d c i a 0; accessOk d c i a 1
  | .mem a, .target => if a % 2 ≠ 0 then .error (.exc 2 0 i a) else .ok ()
  | _, _ => .ok ()

/-- The location a specifier names, with its slot changes (R341, R344). -/
def formLoc (d : Dev) (c : Fin 8) (i : Nat) (r : Role) (ov : Slots) (sp : Spec) : Dev × Try (Loc × Slots) :=
  let pc := (coreGet d c).pc.toNat
  let at' (x : Int) : Try (Loc × Slots) := .ok (.mem (wrap32 x), ov)
  let based (s : Nat) (f : Int → Try (Loc × Slots)) : Dev × Try (Loc × Slots) := (d, baseOf d c i ov s >>= f)
  match sp with
  | .frame s => (d, .ok (.slot s, ov))
  | .frameDisp e =>
    (d, if 0 ≤ e.toInt && e.toInt < 64 && r ≠ .target then .ok (.slot e.toNat, ov) else at' (fp d c + 4 * e.toInt))
  | .baseDisp s u => based s (fun b => at' (b + 4 * u.toNat))
  | .baseDispLong s e => based s (fun b => at' (b + e.toInt))
  | .index s k x e => based s (fun b => indexOf d c i ov x >>= fun n => at' (b + n * 2 ^ k.val + e.toInt))
  | .absolute a => (d, at' a.toNat)
  | .postInc s => based s (fun b => .ok (.mem (wrap32 b), (s.val, tAddr (ofInt (b + 4))) :: ov))
  | .preDec s => based s (fun b => .ok (.mem (wrap32 (b - 4)), (s.val, tAddr (ofInt (b - 4))) :: ov))
  | .imm t v => (d, .ok (.imm (if t = 15 then none else some (tagOf t.toNat)) (v.signExtend 32), ov))
  | .immLong t v => (d, .ok (.imm (if t = 15 then none else some (tagOf t.toNat)) v, ov))
  | .pcRel e => (d, at' (pc + 2 * e.toInt))
  | .pcRelLong e => (d, at' (pc + 2 * e.toInt))
  | .periph w => (d, at' (fget CORE.PWB_BASE (rd d (CORE.PWB c)) * 2 ^ 14 + 4 * w.toNat))
  | .tickBlock p w => (d, at' (tickAddr d c p w.toNat))
  | .reserved => (d, .error (.exc 0 0 0 0))
  | .indirect s u =>
    match baseOf d c i ov s >>= (fun b => accessOk d c i (wrap32 b) 0 >>= fun _ => .ok (wrap32 b)) with
    | .error e => (d, .error e)
    | .ok a =>
      let q := portRead d c a
      match atOpnd i q.2 with
      | .error e => (q.1, .error e)
      | .ok t => (q.1, if t.tag = .addr then at' (t.w.toNat + 4 * u.toNat) else .error (.exc 1 4 i 0))

/-- Every specifier in turn, each with its checks. -/
def formAll (c : Fin 8) : Nat → List (Role × Spec) → Slots → Dev → Dev × Try (List Loc × Slots)
  | _, [], ov, d => (d, .ok ([], ov))
  | i, (r, sp) :: l, ov, d =>
    let q := formLoc d c i r ov sp
    match q.2 with
    | .error e => (q.1, .error e)
    | .ok (loc, ov) =>
      match roleOk q.1 c i r loc with
      | .error e => (q.1, .error e)
      | .ok () =>
        let p := formAll c (i + 1) l ov q.1
        match p.2 with
        | .error e => (p.1, .error e)
        | .ok (ls, ov) => (p.1, .ok (loc :: ls, ov))

/-! Sources. -/

/-- A source as read: MATCH immediates have no tag yet. -/
abbrev Src := Option Tag × Word

/-- A memory word of the current frame shows its slot changes. -/
def ovAt (d : Dev) (c : Nat) (ov : Slots) (a : Nat) (t : TWord) : TWord :=
  let b := fp d c
  if b ≤ a && a < b + 256 && (a - b) % 4 = 0 then (find ov ((a - b) / 4)).getD t else t

def readLoc (d : Dev) (c : Fin 8) (i : Nat) (ov : Slots) : Loc → Dev × Try Src
  | .slot s => (d, .ok (some (slotNow d c ov s).tag, (slotNow d c ov s).w))
  | .imm t v => (d, .ok (t, v))
  | .mem a =>
    let r := portRead d c a
    match atOpnd i r.2 with
    | .error e => (r.1, .error e)
    | .ok t => (r.1, .ok (some (ovAt d c ov a t).tag, (ovAt d c ov a t).w))

/-- The operands that are sources, in order. -/
def readAll (c : Fin 8) (ov : Slots) : List (Nat × Loc) → Dev → Dev × Try (List Src)
  | [], d => (d, .ok [])
  | (i, l) :: ls, d =>
    let r := readLoc d c i ov l
    match r.2 with
    | .error e => (r.1, .error e)
    | .ok x =>
      let q := readAll c ov ls r.1
      match q.2 with
      | .error e => (q.1, .error e)
      | .ok xs => (q.1, .ok (x :: xs))

/-- The tag of a source beside another one (R342). -/
def srcTag (x y : Src) : Tag := (x.1.or y.1).getD .int
def srcWord (x y : Src) : TWord := ⟨srcTag x y, x.2⟩

/-- A source that must not be VOID or of a reserved tag (R335, R336). DEDUCED: log entry 49. -/
def plainSrc (i : Nat) (t : TWord) : Try Unit :=
  if t.tag = .void then .error (.exc 1 1 i 0) else if tagReserved t.tag then .error (.exc 1 3 i 0) else .ok ()

/-! Destinations. -/

/-- A DDR5 window of the output class (R439). -/
def outWindow (d : Dev) (c a : Nat) : Bool :=
  inDdr a && (rd d (PAIRC.POCWIN (c / 2))).getLsbD ((a - 0x80000000) / 2 ^ 27)
/-- A store of the output class. -/
def outClass (d : Dev) (c a : Nat) : Bool :=
  paired d (c / 2) && ((decide (0x40000000 ≤ a) && decide (a < 0x40400000)) || outWindow d c a)

/-- A store to a window is refused for its tag, then for its address (step 5 of R374, R396, R528, R529). -/
def winCheck (d : Dev) (i a : Nat) (t : TWord) : Dev × Try Unit :=
  let ps := winPieces a
  if ps.any (fun p => decide (winTag d p.1 ≠ t.tag)) then (d, .error (.exc 1 7 i 0))
  else match ps.find? (fun p => (winAddr d p.1).isNone) with
    | some p => (winError d p.1, .error (.exc 10 1 i (halfOf a p.1)))
    | none => (d, .ok ())

/-- The checks of a store at its target (R393), the `j`-th of its instruction. -/
def storeCheck (d : Dev) (c i j a : Nat) (t : TWord) : Dev × Try Unit :=
  let full : Try Unit :=
    if outClass d c a && isLeader d c && decide (64 ≤ (pairGet d (c / 2)).oq.length + j) then .error (.wait 2) else .ok ()
  if coreLocal a then (d, if a % 4 ≠ 0 then .error (.exc 10 2 i a) else .ok ())
  else if (frameFind (coreGet d c) a).isSome then (d, .ok ())
  else if inSram a then (d, .ok ())
  else if inDdr a then
    let r := winCheck d i a t
    match r.2 with
    | .error e => (r.1, .error e)
    | .ok () => (r.1, full)
  else if inPeriph a && a % 4 ≠ 0 then (d, .error (.exc 10 2 i a))
  else if slotExists a then (d, full)
  else (d, .error (.exc 10 1 i a))

/-- A line that the L1 holds takes a store; an unaligned one drops its lines. DEDUCED: log entry 58. -/
def l1Store (x : CoreSt) (a : Nat) (t : TWord) : CoreSt :=
  if a % 4 = 0 then
    match find x.l1 (a / 16) with
    | some ws => { x with l1 := put x.l1 (a / 16) (ws.set (a / 4 % 4) t) }
    | none => x
  else { x with l1 := del (del x.l1 (a / 16)) ((a + 3) / 16) }

/-- A store joins the buffer; at four the oldest completes first (R392). -/
def sbPush (d : Dev) (c : Fin 8) (a : Nat) (t : TWord) : Dev :=
  let d := if 4 ≤ (coreGet d c).sb.length then sbNext d c else d
  let x := l1Store (coreGet d c) a t
  corePut d c { x with sb := x.sb ++ [(a, t)] }

/-- `PSTAT.OQFILL`. DEDUCED: log entry 65. -/
def pairOqShow (d : Dev) (p : Nat) : Dev := sf d (PAIRC.PSTAT p) PAIRC.PSTAT_OQFILL (pairGet d p).oq.length

/-- A store that has passed its checks. -/
def storeTo (d : Dev) (c : Fin 8) (a : Nat) (t : TWord) : Dev × Try Unit :=
  if coreLocal a then coreWrite d c a t.w
  else if (frameFind (coreGet d c) a).isSome then (corePut d c (frameStore (coreGet d c) a t), .ok ())
  else if isFollower d c then (d, .ok ())
  else if outClass d c a then
    let p := pairGet d (c / 2)
    (pairOqShow (pairPut d (c / 2) { p with oq := p.oq ++ [(p.num, a, t)] }) (c / 2), .ok ())
  else (sbPush d c a t, .ok ())

/-- A destination is checked, then written. -/
def destCheck (d : Dev) (c : Fin 8) (i j : Nat) (t : TWord) : Loc → Dev × Try Unit
  | .mem a => storeCheck d c i j a t
  | _ => (d, .ok ())
def destPut (d : Dev) (c : Fin 8) (t : TWord) : Loc → Dev × Try Unit
  | .slot s => (slotPut d c s t, .ok ())
  | .mem a => storeTo d c a t
  | .imm _ _ => (d, .ok ())

/-- A destination with its operand number and its word. -/
abbrev Dests := List (Nat × Loc × TWord)

def destsCheck (c : Fin 8) : Nat → Dests → Dev → Dev × Try Unit
  | _, [], d => (d, .ok ())
  | j, (i, l, t) :: ds, d =>
    let r := destCheck d c i j t l
    match r.2 with
    | .ok () => destsCheck c (j + 1) ds r.1
    | e => (r.1, e)

def destsPut (c : Fin 8) : Dests → Dev → Dev × Try Unit
  | [], d => (d, .ok ())
  | (_, l, t) :: ds, d =>
    let r := destPut d c t l
    match r.2 with
    | .ok () => destsPut c ds r.1
    | e => (r.1, e)

/-- The address stored to, where a destination is in memory. -/
def destAddr : Loc → Option Nat
  | .mem a => some a
  | _ => none

/-- What destinations add to the signature (R435): their words, then store addresses, then the words stored. -/
def destsFold (d : Dev) (c : Nat) (ds : Dests) : Dev :=
  let ms := ds.filterMap (fun e => (destAddr e.2.1).map (fun a => (a, e.2.2)))
  let d := forEach ds (fun d e => sigWord d c e.2.2) d
  let d := forEach ms (fun d m => sigAddr d c m.1) d
  forEach ms (fun d m => sigWord d c m.2) d

/-- The destinations of an instruction: checks of all of them, flags, slot changes, then the writes. -/
def writeAll (d : Dev) (c : Fin 8) (flags : Dev → Dev) (ov : Slots) (ds : Dests) : Dev × Try Unit :=
  let r := destsCheck c 0 ds d
  match r.2 with
  | .error e => (r.1, .error e)
  | .ok () =>
    let q := destsPut c ds (slotsApply (destsFold (flags r.1) c ds) c ov)
    match q.2 with
    | .error e => (corePut q.1 c { coreGet q.1 c with frames := (coreGet r.1 c).frames, sig := (coreGet r.1 c).sig }, .error e)
    | .ok () => (q.1, .ok ())

end Sys2Proof.Machine
end

