-- ==== Sys2Proof/Machine/Isa.lean ====
section
/-! DEFINITION. How a core runs an instruction, and the data instructions (R338 to R340, R345, R350 to R374, R380, R415, R422,
R431, R435, R436). -/

namespace Sys2Proof.Machine

open Sys2Proof

/-! Running an instruction. -/

/-- How an instruction retires: a jump target, whether it closes the signature window, a trap it raises after it, or not yet
(WFT). -/
structure Done where
  target : Option Nat := none
  closes : Bool := false
  trap : Option Nat := none
  hold : Bool := false
deriving DecidableEq, Repr

/-- The shapes an opcode allows: its operands' roles by their number, its variants and extension field, and the `FEAT1` bit
of the unit it needs (R340, R350). -/
structure Form where
  roles : List (List Role)
  vs : List Nat := [0]
  xs : Nat → Bool := (· = 0)
  unit : Option Nat := none

/-- The roles of a legal instruction. -/
def legalRoles (d : Dev) (c : Nat) (f : Form) (i : Insn) : Option (List Role) :=
  match f.roles.find? (fun r => r.length = i.ops.length) with
  | none => none
  | some rs =>
    if f.vs.contains i.v.toNat && f.xs i.x.toNat && (rs.zip i.ops).all (fun p => specOk p.1 p.2)
        && f.unit.all (fun b => (rd d (CORE.FEAT1 c)).getLsbD b) then some rs else none

/-- The entry that a follower has to take before its next instruction (R442): its progress word. DEDUCED: log entry 61. -/
def entryDue (d : Dev) (c : Nat) : Option Nat :=
  if isFollower d c then
    (pairGet d (c / 2)).log.findSome? (fun e => match e with
      | .entry n _ _ k => if n = (coreGet d c).ret then some k else none
      | _ => none)
  else none

/-- A core may execute: it is not in reset, halted, waiting or in an entry, and a follower runs behind its leader (R431).
DEDUCED: log entry 63. -/
def coreReady (d : Dev) (c : Nat) : Bool :=
  let x := coreGet d c
  let behind := isFollower d c && decide (x.ret < (coreGet d (c - 1)).ret)
  !x.rst && !(x.wft && x.nest = 0) && (!x.halt || x.one || behind) && (!isFollower d c || behind) && !d.off

/-- A core may start an instruction that is no block instruction. DEDUCED: log entry 28. -/
def coreFree (d : Dev) (c : Nat) : Bool := coreReady d c && (coreGet d c).ent.isNone && (entryDue d c).isNone

/-- A stepped core halts again, and a halted one shows its PC (R674, R675). -/
def instrEnd (d : Dev) (c : Nat) : Dev :=
  let x := coreGet d c
  if x.halt then wr (corePut d c { x with one := false }) (DBG.DBGPC c) x.pc else d

/-- No block instruction is stopped (R399). -/
def blkClear (d : Dev) (c : Nat) : Dev :=
  sf (corePut d c { coreGet d c with prog := 0, blk := none }) (CORE.STATUS c) stBlk 0

/-- An instruction retires, with the close of a window where it closes one (R436). -/
def retireAs (d : Dev) (c : Nat) (closes : Bool) : Dev :=
  if closes && paired d (c / 2) then winClose (corePut d c { coreGet d c with ret := (coreGet d c).ret + 1 }) c else retire d c

/-- The end of an instruction: the next address, the fold of a jump target, retirement, and a trap. One that resets the unit
does not end. -/
def finish (d : Dev) (c : Nat) (next : Word) (r : Done) : Dev :=
  if r.hold || (coreGet d c).rst then d
  else
    let d := match r.target with | some t => sigAddr d c t | none => d
    let d := corePut d c { coreGet d c with pc := (r.target.map w32).getD next }
    let d := retireAs d c r.closes
    match r.trap with
    | some n => instrEnd (takeExc d c 13 n 0 0 (coreGet d c).pc) c
    | none => instrEnd d c

/-- A stop has its effect: an exception is taken, a stall is reported on the state before, a divergence is taken. -/
def stopped (d0 d : Dev) (c : Nat) (pc : Word) (e : Stop) : Dev :=
  match e with
  | .exc k code o f => instrEnd (takeExc d c k code o f pc) c
  | .wait 1 => pairFlag d0 (c / 2) 1
  | .wait 2 => pairFlag (bump d0 (PAIRC.PERR (c / 2)) PAIRC.PERR_OQSTALL) (c / 2) 2
  | .wait _ => d0
  | .diverge => instrEnd (divergeLoad d0 c) c

/-- The address after an instruction. -/
def nextPc (d : Dev) (c : Nat) (i : Insn) : Word := (coreGet d c).pc + w32 (insnLen i)

/-- Fetch protection and legality, then the instruction's work; all of an exception comes after both (R374, R422). DEDUCED:
log entry 65. -/
def runChecked (d : Dev) (c : Nat) (f : Form) (i : Insn) (body : List Role → Dev → Dev) : Dev :=
  let pc := (coreGet d c).pc
  match mpuBad d c (privN d c) 2 pc.toNat (insnLen i) with
  | some b => stopped d d c pc (.exc 3 3 0 b)
  | none =>
    match legalRoles d c f i with
    | none => stopped d d c pc (.exc 0 0 0 0)
    | some rs => body rs d

/-- An instruction that is no block instruction. DEDUCED: log entry 28. DEDUCED: log entry 61. -/
def runInsn (d : Dev) (c : Fin 8) (f : Form) (i : Insn) (body : List Role → Dev → Dev × Try Done) : Dev :=
  if coreFree d c then
    runChecked (blkClear d c) c f i (fun rs d0 =>
      let r := body rs d0
      match r.2 with
      | .ok x => finish r.1 c (nextPc d0 c i) x
      | .error e => stopped d0 r.1 c (coreGet d0 c).pc e)
  else d

/-! Data instructions. -/

/-- What a data instruction gives: words for its destinations, flags, and a relation. -/
structure Result where
  outs : List TWord := []
  ieee : Nat := 0
  sat : Bool := false
  rel : Option Nat := none
deriving DecidableEq, Repr

def isSrc (r : Role) : Bool := r = .src || r = .upd || r = .immOnly
def isDst (r : Role) : Bool := r = .dst || r = .upd

/-- The operands of a list by number that have one of the roles. -/
def pick (p : Role → Bool) (rs : List Role) (ls : List Loc) : List (Nat × Loc) :=
  ((rs.zip ls).zipIdx.filter (fun e => p e.1.1)).map (fun e => (e.2, e.1.2))

/-- The flags of a result. -/
def resultFlags (c : Nat) (r : Result) (d : Dev) : Dev :=
  let d := if r.ieee = 0 && !r.sat then d else flagsJoin d c r.ieee r.sat
  match r.rel with | some x => relPut d c x | none => d

/-- Addresses, sources, the computation, traps, destinations (R344, R374, R380). -/
def dataBody (c : Fin 8) (i : Insn) (f : Dev → List (Nat × Src) → Try Result) (rs : List Role) (d : Dev) : Dev × Try Done :=
  let q := formAll c 0 (rs.zip i.ops) [] d
  match q.2 with
  | .error e => (q.1, .error e)
  | .ok (ls, ov) =>
    let ss := pick isSrc rs ls
    let p := readAll c ov ss q.1
    match p.2 with
    | .error e => (p.1, .error e)
    | .ok xs =>
      match f p.1 ((ss.map (·.1)).zip xs) with
      | .error e => (p.1, .error e)
      | .ok r =>
        match trapOf p.1 c r.ieee with
        | some b => (p.1, .error (.exc 9 b 0 0))
        | none =>
          let ds : Dests := ((pick isDst rs ls).zip r.outs).map (fun e => (e.1.1, e.1.2, e.2))
          let w := writeAll p.1 c (resultFlags c r) ov ds
          match w.2 with
          | .error e => (w.1, .error e)
          | .ok () => (w.1, .ok { closes := ds.any (fun e => (destAddr e.2.1).any (outClass p.1 c)) })

/-- A computed result, or the exception of operand `j` (R374 steps 3 and 4). DEDUCED: log entry 70. -/
def aluTry (j : Nat) : AluRes → Try Result
  | .ok a => .ok { outs := [a.t], ieee := a.ieee, sat := a.sat }
  | .error .tag => .error (.exc 1 2 j 0)
  | .error .divide => .error (.exc 7 0 0 0)
  | .error .overflow => .error (.exc 8 0 0 0)

/-- One source; MATCH alone is INT (R342, log entry 70). -/
def unary (f : TWord → AluRes) (_ : Dev) : List (Nat × Src) → Try Result
  | [(i, x)] => do
    let a : TWord := ⟨x.1.getD .int, x.2⟩
    plainSrc i a
    aluTry i (f a)
  | _ => .error (.exc 0 0 0 0)

/-- Two sources. -/
def binary (f : TWord → TWord → AluRes) (_ : Dev) : List (Nat × Src) → Try Result
  | [(i, x), (j, y)] => do
    plainSrc i (srcWord x y)
    plainSrc j (srcWord y x)
    aluTry j (f (srcWord x y) (srcWord y x))
  | _ => .error (.exc 0 0 0 0)

/-- A value and a count; MATCH as the count is NAT. -/
def shifting (f : TWord → TWord → AluRes) (d : Dev) : List (Nat × Src) → Try Result
  | [(i, x), (j, y)] => binary f d [(i, x), (j, (some (y.1.getD .nat), y.2))]
  | _ => .error (.exc 0 0 0 0)

/-- An accumulator and two factors. -/
def ternary (f : TWord → TWord → TWord → AluRes) (_ : Dev) : List (Nat × Src) → Try Result
  | [(i, x), (j, y), (k, z)] => do
    let a : TWord := ⟨x.1.getD .int, x.2⟩
    plainSrc i a
    plainSrc j (srcWord y z)
    plainSrc k (srcWord z y)
    aluTry k (f a (srcWord y z) (srcWord z y))
  | _ => .error (.exc 0 0 0 0)

/-- Shapes: `d, s`; `d, [a,] b`. -/
def form2 (vs : List Nat) : Form := { roles := [[.dst, .src]], vs := vs }
def form23 (vs : List Nat) (unit : Option Nat := none) : Form := { roles := [[.upd, .src], [.dst, .src, .src]], vs := vs, unit := unit }

/-- An instruction of a core as a command. -/
def coreCmd (c : Fin 8) (f : Form) (i : Insn) (g : Dev → List (Nat × Src) → Try Result) (s : State) : Out :=
  clocked s (fun d => runInsn d c f i (dataBody c i g))

/-- R365. -/
def execMov (c : Fin 8) (i : Insn) (s : State) : Out := coreCmd c (form2 [0]) i (unary (fun a => bitsRes a.tag a.w)) s
/-- R351. -/
def execAdd (c : Fin 8) (i : Insn) (s : State) : Out := coreCmd c (form23 [0, 1, 2]) i (binary (aluAdd i.v.toNat)) s
/-- R351. -/
def execSub (c : Fin 8) (i : Insn) (s : State) : Out := coreCmd c (form23 [0, 1, 2]) i (binary (aluSub i.v.toNat)) s
/-- R353. -/
def execMul (c : Fin 8) (i : Insn) (s : State) : Out := coreCmd c (form23 [0, 1, 2]) i (binary (aluMul i.v.toNat)) s
/-- R353 to R355. -/
def execMac (c : Fin 8) (i : Insn) (s : State) : Out :=
  coreCmd c { roles := [[.upd, .src, .src]], vs := [0, 1, 2] } i (ternary (aluMac i.v.toNat)) s
/-- R353. -/
def execDiv (c : Fin 8) (i : Insn) (s : State) : Out :=
  coreCmd c (form23 [0, 1, 2] (some 0)) i (binary (aluDiv i.v.toNat)) s
/-- R353. -/
def execRem (c : Fin 8) (i : Insn) (s : State) : Out := coreCmd c (form23 [0] (some 0)) i (binary aluRem) s
/-- R357. -/
def execNeg (c : Fin 8) (i : Insn) (s : State) : Out := coreCmd c (form2 [0, 1, 2]) i (unary (aluNeg i.v.toNat)) s
/-- R357. -/
def execAbs (c : Fin 8) (i : Insn) (s : State) : Out := coreCmd c (form2 [0, 1, 2]) i (unary (aluAbs i.v.toNat)) s
/-- R358. -/
def execAnd (c : Fin 8) (i : Insn) (s : State) : Out := coreCmd c (form23 [0]) i (binary (aluLogic (· &&& ·))) s
/-- R358. -/
def execOr (c : Fin 8) (i : Insn) (s : State) : Out := coreCmd c (form23 [0]) i (binary (aluLogic (· ||| ·))) s
/-- R358. -/
def execXor (c : Fin 8) (i : Insn) (s : State) : Out := coreCmd c (form23 [0]) i (binary (aluLogic (· ^^^ ·))) s
/-- R358. -/
def execNot (c : Fin 8) (i : Insn) (s : State) : Out := coreCmd c (form2 [0]) i (unary aluNot) s
/-- R359, R360. -/
def execShl (c : Fin 8) (i : Insn) (s : State) : Out := coreCmd c (form23 [0, 1, 2]) i (shifting (aluShl i.v.toNat)) s
/-- R359. -/
def execShr (c : Fin 8) (i : Insn) (s : State) : Out := coreCmd c (form23 [0]) i (shifting aluShr) s
/-- R359. -/
def execSha (c : Fin 8) (i : Insn) (s : State) : Out := coreCmd c (form23 [0]) i (shifting aluSha) s
/-- R359. -/
def execRot (c : Fin 8) (i : Insn) (s : State) : Out := coreCmd c (form23 [0]) i (shifting aluRot) s

/-- A comparison (R362). -/
def comparing (_ : Dev) : List (Nat × Src) → Try Result
  | [(i, x), (j, y)] => do
    plainSrc i (srcWord x y)
    plainSrc j (srcWord y x)
    match aluCmp (srcWord x y) (srcWord y x) with
    | none => .error (.exc 1 2 j 0)
    | some (r, fl) => .ok { ieee := fl, rel := some r }
  | _ => .error (.exc 0 0 0 0)

/-- R362. -/
def execCmp (c : Fin 8) (i : Insn) (s : State) : Out := coreCmd c { roles := [[.src, .src]] } i comparing s

/-- The new tag of `TAG`; DESC not at Task level (R365). -/
def tagging (c : Nat) (t : Tag) (d : Dev) : List (Nat × Src) → Try Result
  | [(i, x)] => do
    plainSrc i ⟨x.1.getD .int, x.2⟩
    if t = .desc && privN d c = 2 then .error (.exc 1 5 i 0) else .ok { outs := [⟨t, x.2⟩] }
  | _ => .error (.exc 0 0 0 0)

/-- R365. -/
def execTag (c : Fin 8) (i : Insn) (s : State) : Out :=
  coreCmd c { form2 [0] with xs := fun x => 1 ≤ x && x ≤ 10 } i (tagging c (tagOf i.x.toNat)) s

/-- The bits of any word, VOID and reserved tags included (R335, R336, R365). -/
def untagging (_ : Dev) : List (Nat × Src) → Try Result
  | [(_, x)] => .ok { outs := [⟨.bits, x.2⟩] }
  | _ => .error (.exc 0 0 0 0)

/-- R365. -/
def execUntag (c : Fin 8) (i : Insn) (s : State) : Out := coreCmd c (form2 [0]) i untagging s

/-- The tag of a word against a mask (R364). DEDUCED: log entry 54. -/
def tagChecking (trap : Bool) (_ : Dev) : List (Nat × Src) → Try Result
  | [(i, x), (j, m)] =>
    if (m.1.getD .nat) ≠ .nat then .error (.exc 1 2 j 0)
    else if m.2.getLsbD (tagCode (x.1.getD .nat)) then .ok { rel := some 0 }
    else if trap then .error (.exc 1 6 i 0)
    else .ok { rel := some 3 }
  | _ => .error (.exc 0 0 0 0)

/-- R364. -/
def execTchk (c : Fin 8) (i : Insn) (s : State) : Out :=
  coreCmd c { roles := [[.src, .immOnly]], vs := [0, 3] } i (tagChecking (i.v.toNat = 3)) s

/-- R366. -/
def execCvt (c : Fin 8) (i : Insn) (s : State) : Out :=
  coreCmd c { form2 [0, 1, 2] with xs := fun _ => true } i
    (unary (aluCvt i.v.toNat (tagOf (i.x.toNat % 16)) (i.x.toNat / 16))) s

/-- Sine and cosine (R367). -/
def sinCos (fix : Bool) (_ : Dev) : List (Nat × Src) → Try Result
  | [(i, x)] => do
    let a : TWord := ⟨x.1.getD .int, x.2⟩
    plainSrc i a
    if a.tag ≠ .angle then .error (.exc 1 2 i 0)
    else if fix then .ok { outs := [⟨.fix, fixSin a.w⟩, ⟨.fix, fixCos a.w⟩] }
    else .ok { outs := [⟨.real, rSin a.w⟩, ⟨.real, rCos a.w⟩] }
  | _ => .error (.exc 0 0 0 0)

/-- R367. -/
def execSincos (c : Fin 8) (i : Insn) (s : State) : Out :=
  coreCmd c { roles := [[.dst, .dst, .src]], xs := fun x => x < 2, unit := some 2 } i (sinCos (i.x.toNat = 1)) s

/-- R368. -/
def execAtan2 (c : Fin 8) (i : Insn) (s : State) : Out :=
  coreCmd c { roles := [[.dst, .src, .src]], unit := some 2 } i (binary (fun y x => aluAtan2 (Config.atanInf y.w x.w) y x)) s

end Sys2Proof.Machine
end

