-- ==== Sys2Proof/Machine/Control.lean ====
section
/-! DEFINITION. Branches, calls, gates, returns, waiting, and a core's writes to its own registers (R349, R363, R373, R376,
R378, R389 to R392, R394, R403, R410 to R413, R417 to R419, R423 to R426, R436, R443, R51, R52). -/

namespace Sys2Proof.Machine

open Sys2Proof

/-! Jumps. -/

/-- A jump target (R349). -/
def targetOf (d : Dev) (c : Nat) : Loc → Try Nat
  | .slot s =>
    let t := slotGet d c s
    if t.tag ≠ .code then .error (.exc 1 4 0 0)
    else if t.w.toNat % 2 ≠ 0 then .error (.exc 2 0 0 t.w.toNat)
    else .ok t.w.toNat
  | .mem a => .ok a
  | .imm _ _ => .error (.exc 0 0 0 0)

/-- The target of an instruction of one, then what it does with it. -/
def withTarget (c : Fin 8) (i : Insn) (f : Dev → Slots → Nat → Dev × Try Done) (rs : List Role) (d : Dev) : Dev × Try Done :=
  let q := formAll c 0 (rs.zip i.ops) [] d
  match q.2 with
  | .ok ([l], ov) =>
    match targetOf (slotsApply q.1 c ov) c l with
    | .ok t => f q.1 ov t
    | .error e => (q.1, .error e)
  | .ok _ => (q.1, .error (.exc 0 0 0 0))
  | .error e => (q.1, .error e)

/-- R363. -/
def execBcc (c : Fin 8) (i : Insn) (s : State) : Out :=
  clocked s (fun d => runInsn d c { roles := [[.target]], xs := fun x => x < 11 } i
    (withTarget c i (fun d ov t =>
      (slotsApply d c ov, .ok { target := if condHolds d c i.x.toNat then some t else none }))))

/-- The check of a new frame at a privilege (R390). -/
def frameOk (d : Dev) (c pv a : Nat) : Try Unit :=
  match mpuBad d c pv 1 a 256 with
  | some b => .error (.exc 3 2 0 b)
  | none => .ok ()

/-- R373, R385, R390. -/
def execCall (c : Fin 8) (i : Insn) (s : State) : Out :=
  clocked s (fun d => runInsn d c { roles := [[.target]] } i
    (withTarget c i (fun d ov t =>
      let a := (fp d c + 2 ^ 32 - 256) % 2 ^ 32
      match frameOk d c (privN d c) a with
      | .error e => (d, .error e)
      | .ok () => (framePush (slotsApply d c ov) c a [tCode (nextPc d c i)], .ok { target := some t }))))

/-- Back to a frame at the address in `f0` (R373, R385, R426). -/
def returnTo (d : Dev) (c a : Nat) : Dev × Try Done :=
  match targetOf d c (.slot 0) with
  | .error e => (d, .error e)
  | .ok t =>
    let r := frameTo d c a
    match r.2 with
    | .ok () => (r.1, .ok { target := some t })
    | .error e => (r.1, .error e)

/-- R373. -/
def execRet (c : Fin 8) (i : Insn) (s : State) : Out :=
  clocked s (fun d => runInsn d c { roles := [[]] } i (fun _ d => returnTo d c ((fp d c + 256) % 2 ^ 32)))

/-! Gates (R423 to R426). -/

/-- The number that `GATE` and `TRAP` take: an immediate of 0 to 255. -/
def immOf (i : Insn) : Option (Nat × Nat) :=
  match i.ops with
  | [.imm t v] => some (t.toNat, (v.signExtend 32).toNat)
  | [.immLong t v] => some (t.toNat, v.toNat)
  | _ => none

/-- Words of memory from an address on, read through the port. -/
def portWords (c : Fin 8) : Nat → Nat → Dev → Dev × Try (List TWord)
  | 0, _, d => (d, .ok [])
  | n + 1, a, d =>
    let r := portRead d c (a % 2 ^ 32)
    match r.2 with
    | .error e => (r.1, .error e)
    | .ok t =>
      let q := portWords c n (a + 4) r.1
      match q.2 with
      | .error e => (q.1, .error e)
      | .ok l => (q.1, .ok (t :: l))

/-- A gate descriptor. -/
structure Gate where
  entry : TWord
  w1 : Word
  stack : TWord
  w3 : Word
deriving DecidableEq, Repr

def Gate.tpriv (g : Gate) : Nat := fget ⟨31, 30⟩ g.w1
def Gate.stk (g : Gate) : Nat := fget ⟨29, 28⟩ g.w1
def Gate.narg (g : Gate) : Nat := fget ⟨27, 25⟩ g.w1
def Gate.atag (g : Gate) (i : Nat) : Nat := g.w1.toNat / 16 ^ i % 16
def Gate.cpriv (g : Gate) : Nat := fget ⟨31, 30⟩ g.w3
def Gate.span (g : Gate) (i : Nat) : Nat := g.w3.toNat / 16 ^ i % 16

/-- Step 2 of R424. -/
def Gate.wf (g : Gate) : Bool :=
  g.entry.tag = .code && g.tpriv ≠ 3 && g.stk ≠ 3 && g.narg ≠ 7 && g.cpriv ≠ 3
    && (List.range g.narg).all (fun i => immTagOk (g.atag i) && (g.atag i ≠ 8 || 2 ≤ g.span i))
    && (g.stk ≠ 2 || g.stack.tag = .addr)

/-- An argument's tag is one the descriptor takes. DEDUCED: log entry 54. -/
def gateTag (n : Nat) (t : Tag) : Bool :=
  if n = 15 then t = .int || t = .nat || t = .fix || t = .real || t = .angle || t = .count || t = .bits else tagCode t = n

/-- The area of an argument is accessible at the caller's privilege (step 6). -/
def gateArea (d : Dev) (c : Nat) (g : Gate) (i : Nat) (t : TWord) : Bool :=
  let pv := privN d c
  match t.tag with
  | .addr =>
    let n := 2 ^ g.span i
    (mpuBad d c pv 0 t.w.toNat n).isNone && (!g.w3.getLsbD (24 + i) || (mpuBad d c pv 1 t.w.toNat n).isNone)
  | .desc => (mpuBad d c pv 0 (t.w.toNat / 64 * 64) 64).isNone
  | _ => true

/-- The first failing check of steps 3 to 6, with its argument. -/
def gateCheck (d : Dev) (c : Nat) (g : Gate) : Try Unit :=
  let arg (i : Nat) : TWord := slotGet d c (i + 1)
  if g.cpriv < privN d c then .error (.exc 5 3 0 0)
  else if privN d c < g.tpriv then .error (.exc 5 4 0 0)
  else match (List.range g.narg).find? (fun i => !gateTag (g.atag i) (arg i).tag) with
    | some i => .error (.exc 5 5 i 0)
    | none =>
      match (List.range g.narg).find? (fun i => !gateArea d c g i (arg i)) with
      | some i => .error (.exc 5 6 i 0)
      | none => .ok ()

/-- The stack's top `S`. -/
def gateStack (d : Dev) (c : Nat) (g : Gate) : Nat :=
  match g.stk with
  | 0 => fp d c
  | 1 => (rd d (CORE.SP c g.tpriv)).toNat
  | _ => g.stack.w.toNat

/-- The four words of the linkage record (R425). -/
def linkage (d : Dev) (c : Nat) (g : Gate) (n : Nat) : List TWord :=
  [tAddr (rd d (CORE.FP c)), if g.stk = 1 then tAddr (rd d (CORE.SP c g.tpriv)) else tVoid, tBits (statusNow d c),
    tBits (w32 (n % 256 + 2 ^ 8 * privN d c))]

/-- The places of the linkage record as destinations. -/
def linkDests (l : Nat) (ws : List TWord) : Dests := ws.zipIdx.map (fun e => (0, .mem ((l + 4 * e.2) % 2 ^ 32), e.1))

/-- Step 7: the record and the frame are written at the target privilege. -/
def gateRoom (d : Dev) (c : Nat) (g : Gate) (l : Nat) : Try Unit :=
  if (inSram l || inFlash l) && l % 4 ≠ 0 then .error (.exc 2 0 0 l)
  else match mpuBad d c g.tpriv 1 l 16 with
    | some b => .error (.exc 3 2 0 b)
    | none => frameOk d c g.tpriv ((l + 2 ^ 32 - 256) % 2 ^ 32)

/-- A successful call. DEDUCED: log entry 64. -/
def gateEnter (d : Dev) (c : Fin 8) (i : Insn) (g : Gate) (n : Nat) : Dev × Try Done :=
  let l := (gateStack d c g + 2 ^ 32 - 16) % 2 ^ 32
  let a := (l + 2 ^ 32 - 256) % 2 ^ 32
  match gateRoom d c g l with
  | .error e => (d, .error e)
  | .ok () =>
    let args := (List.range g.narg).map (fun i => slotGet d c (i + 1))
    let ds := linkDests l (linkage d c g n)
    let r := writeAll d c id [] ds
    match r.2 with
    | .error e => (r.1, .error e)
    | .ok () =>
      let e := if g.stk = 1 then wr r.1 (CORE.SP c g.tpriv) (w32 a) else r.1
      (sf (framePush e c a (tCode (nextPc d c i) :: args)) (CORE.STATUS c) stPriv g.tpriv,
        .ok { target := some g.entry.w.toNat, closes := ds.any (fun x => (destAddr x.2.1).any (outClass d c)) })

/-- `GATE #n`. -/
def gateCall (c : Fin 8) (i : Insn) (d : Dev) : Dev × Try Done :=
  match immOf i with
  | none => (d, .error (.exc 0 0 0 0))
  | some (t, n) =>
    if t ≠ 2 && t ≠ 15 then (d, .error (.exc 1 2 0 0))
    else if gf d (CORE.GTLEN c) CORE.GTLEN_LEN ≤ n then (d, .error (.exc 5 1 0 0))
    else
      let r := portWords c 4 ((rd d (CORE.GTBASE c)).toNat + 16 * n) d
      match r.2 with
      | .error e => (r.1, .error e)
      | .ok [w0, w1, w2, w3] =>
        let g : Gate := ⟨w0, w1.w, w2, w3.w⟩
        if !g.w1.getLsbD 24 then (r.1, .error (.exc 5 1 0 0))
        else if !g.wf then (r.1, .error (.exc 5 2 0 0))
        else match gateCheck r.1 c g with
          | .error e => (r.1, .error e)
          | .ok () => gateEnter r.1 c i g n
      | .ok _ => (r.1, .error (.exc 0 0 0 0))

def smallImm (i : Insn) : Bool := match immOf i with | some (_, n) => decide (n < 256) | none => false

/-- An immediate above 255 is none that `GATE` and `TRAP` take (R350). DEDUCED: log entry 54. -/
def immForm (i : Insn) : Form := { roles := if smallImm i then [[.immOnly]] else [] }

/-- R423 to R425. -/
def execGate (c : Fin 8) (i : Insn) (s : State) : Out :=
  clocked s (fun d => runInsn d c (immForm i) i (fun _ d => gateCall c i d))

/-- `GRET` (R426). -/
def gateReturn (c : Fin 8) (d : Dev) : Dev × Try Done :=
  let r := portWords c 4 (fp d c + 256) d
  match r.2 with
  | .ok [w0, w1, w2, w3] =>
    if !(w0.tag = .addr && (w1.tag = .addr || w1.tag = .void) && w2.tag = .bits && w3.tag = .bits) then
      (r.1, .error (.exc 5 8 0 0))
    else if fget stPriv w2.w < privN r.1 c then (r.1, .error (.exc 5 7 0 0))
    else
      let pv := privN r.1 c
      let q := returnTo r.1 c w0.w.toNat
      match q.2 with
      | .error e => (q.1, .error e)
      | .ok x =>
        let d := if w1.tag = .addr then wr q.1 (CORE.SP c pv) w1.w else q.1
        (sf (sf d (CORE.STATUS c) stPriv (fget stPriv w2.w)) (CORE.STATUS c) stIe (fget stIe w2.w), .ok x)
  | .ok _ => (r.1, .error (.exc 0 0 0 0))
  | .error e => (r.1, .error e)

/-- R426. -/
def execGret (c : Fin 8) (i : Insn) (s : State) : Out :=
  clocked s (fun d => runInsn d c { roles := [[]] } i (fun _ d => gateReturn c d))

/-! Waiting for the tick (R51, R52, R443). -/

/-- A wait ends: the core goes on after its WFT. DEDUCED: log entry 62. -/
def wftEnd (d : Dev) (c : Nat) : Dev :=
  let x := coreGet d c
  instrEnd (retire (corePut d c { x with wft := false, seen := false, nest := 0, pc := x.wftAt + 2 }) c) c

/-- A follower whose wait has reached the record of the leader's release goes on. -/
def wftFollow (d : Dev) (c : Nat) : Dev :=
  if isFollower d c && waitsWft d c then
    match (pairGet d (c / 2)).log with
    | .release :: l => wftEnd (pairPut d (c / 2) { pairGet d (c / 2) with log := l }) c
    | _ => d
  else d

/-- A waiting core is released: the leader records it for its follower. -/
def wftRelease (d : Dev) (c : Nat) : Dev :=
  if isLeader d c then wftFollow (wftEnd (logPush d (c / 2) .release) c) (c + 1) else wftEnd d c

/-- A follower may come to its WFT while the leader waits in its own. -/
def wftReady (d : Dev) (c : Nat) : Bool :=
  let x := coreGet d c
  let y := coreGet d (c - 1)
  isFollower d c && !x.rst && !waitsWft d c && !x.halt && !d.off && decide (x.ret = y.ret) && waitsWft d (c - 1)
    && decide (x.pc = y.pc)

/-- The core waits from here on. DEDUCED: log entry 62. -/
def wftEnter (d : Dev) (c : Nat) : Dev :=
  let x := coreGet d c
  corePut d c { x with wft := true, wftAt := x.pc, nest := 0, seen := false }

/-- `WFT`. -/
def wftRun (d : Dev) (c : Fin 8) (i : Insn) : Dev :=
  if wftReady d c && i.ops.isEmpty && i.v = 0 && i.x = 0 then wftEnter d c
  else runInsn d c { roles := [[]] } i (fun _ d =>
    if isFollower d c then
      match (pairGet d (c.val / 2)).log with
      | .release :: l => (pairPut d (c.val / 2) { pairGet d (c.val / 2) with log := l }, .ok {})
      | [] => (d, .error (.wait 0))
      | _ => (d, .error .diverge)
    else (wftEnter d c, .ok { hold := true }))

/-- R51, R443. -/
def execWft (c : Fin 8) (i : Insn) (s : State) : Out := clocked s (fun d => wftRun d c i)

/-! Return from an exception or interrupt (R399, R411 to R413, R482). -/

/-- The handler nested in a wait is left; a tick that came meanwhile ends the wait (R52). DEDUCED: log entry 62. -/
def wftReturn (d : Dev) (c : Nat) : Dev :=
  let x := coreGet d c
  if x.wft then
    let n := x.nest - 1
    if n = 0 then
      if x.pc ≠ x.wftAt then corePut d c { x with wft := false, seen := false, nest := 0 }
      else if x.seen then wftRelease (corePut d c { x with nest := 0 }) c
      else wftFollow (corePut d c { x with nest := 0 }) c
    else corePut d c { x with nest := n }
  else d

/-- The save set that `RETI` returns through, with the privilege its status is held against; or the exception it raises.
DEDUCED: log entry 64. -/
def retiSet (d : Dev) (c : Nat) : Try (Nat × Nat) :=
  let l := level d c
  let launch := l = 0 && !inFault d c
  let set := if inFault d c then 0 else l
  let cp := if launch then 0 else gf d (CORE.SSCP c set) CORE.SSCP_CPRIV
  let st := rd d (CORE.SSST c set)
  if privN d c = 2 then .error (.exc 4 1 0 0)
  else if launch && privN d c = 1 then .error (.exc 0 0 0 0)
  else if fget stPriv st < cp then .error (.exc 6 1 0 0)
  else if set ≠ 0 && set ≤ fget stLevel st then .error (.exc 6 2 0 0)
  else .ok (set, cp)

/-- `RETI` through a set. -/
def retiFrom (d : Dev) (c set : Nat) : Dev × Try Done :=
  let r := frameTo d c (rd d (CORE.SSFP c set)).toNat
  match r.2 with
  | .error e => (r.1, .error e)
  | .ok () =>
    let d := wr r.1 (CORE.SP c (privN r.1 c)) (rd r.1 (CORE.SSSP c set))
    let d := sf (statusPut d c (rd d (CORE.SSST c set))) (CORE.STATUS c) stFault 0
    let d := corePut d c { coreGet d c with prog := (rd d (CORE.SSPRG c set)).toNat }
    let d := if set ≠ 0 && !isFollower d c then serviceEnd d c set else d
    (d, .ok { target := some (rd d (CORE.SSPC c set)).toNat, closes := true })

/-- `RETI`, then the end of a nested wait. -/
def retiRun (d : Dev) (c : Fin 8) (i : Insn) : Dev :=
  if coreFree d c then
    runChecked (blkClear d c) c { roles := [[]] } i (fun _ d0 =>
      match retiSet d0 c with
      | .error e => stopped d0 d0 c (coreGet d0 c).pc e
      | .ok (set, _) =>
        let r := retiFrom d0 c set
        match r.2 with
        | .ok x => wftReturn (finish r.1 c (nextPc d0 c i) x) c
        | .error e => stopped d0 r.1 c (coreGet d0 c).pc e)
  else d

/-- R411 to R413. -/
def execReti (c : Fin 8) (i : Insn) (s : State) : Out := clocked s (fun d => retiRun d c i)

/-! The rest of control. -/

/-- `TRAP #n` (R406, R407, R414). -/
def execTrap (c : Fin 8) (i : Insn) (s : State) : Out :=
  clocked s (fun d => runInsn d c (immForm i) i (fun _ d => (d, .ok { trap := (immOf i).map (·.2) })))

/-- The next instruction comes with its command, so no fetched one is to be discarded (R394, log entry 71). -/
def execFlushi (c : Fin 8) (i : Insn) (s : State) : Out :=
  clocked s (fun d => runInsn d c { roles := [[]] } i (fun _ d => (d, .ok {})))

/-- The pair's signature window closes (R436). -/
def execChkpt (c : Fin 8) (i : Insn) (s : State) : Out :=
  clocked s (fun d => runInsn d c { roles := [[]] } i (fun _ d => (d, .ok { closes := true })))

/-- A store of a core waits for completion. DEDUCED: log entry 59. -/
def storesWait (d : Dev) (c : Nat) : Bool :=
  !(coreGet d c).sb.isEmpty || (isLeader d c && !(pairGet d (c / 2)).oq.isEmpty)

/-- `SYNC` retires once every earlier store has completed (R392). DEDUCED: log entry 59. -/
def execSync (c : Fin 8) (i : Insn) (s : State) : Out :=
  clocked s (fun d => runInsn d c { roles := [[]] } i (fun _ d =>
    if storesWait d c then (d, .error (.wait 0)) else (d, .ok {})))

/-- The oldest buffered store completes (R392). -/
def execStoreCompletion (c : Fin 8) (s : State) : Out := clocked s (fun d => sbNext d c)

/-! Writes to a core's own registers as commands: the effect that the store of an instruction has. -/

/-- A write by the program of a core, with the check of its privilege. -/
def ownWrite (d : Dev) (c : Fin 8) (a : Nat) (v : Word) : Dev :=
  if coreFree d c then
    match accessOk d c 0 a 1 with
    | .error e => stopped d d c (coreGet d c).pc e
    | .ok () =>
      let r := coreWrite d c a v
      match r.2 with
      | .ok () => r.1
      | .error e => stopped d r.1 c (coreGet d c).pc e
  else d

/-- R389. -/
def execFpWrite (c : Fin 8) (v : Word) (s : State) : Out := clocked s (fun d => ownWrite d c 0x4041100C v)
/-- R378. -/
def execTkbWrite (c : Fin 8) (v : Word) (s : State) : Out := clocked s (fun d => ownWrite d c 0x4041001C v)
/-- R391. -/
def execInval (c : Fin 8) (s : State) : Out := clocked s (fun d => ownWrite d c 0x40411024 1)
/-- R403. -/
def execDetmChange (c : Fin 8) (detm : Bool) (s : State) : Out :=
  clocked s (fun d => ownWrite d c 0x40411004 (fset CORE.CCTL_DETM (rd d (CORE.CCTL c)) (if detm then 1 else 0)))
/-- R419. -/
def execStatusWrite (c : Fin 8) (v : Word) (s : State) : Out := clocked s (fun d => ownWrite d c 0x40411000 v)
/-- R417, R418. -/
def execControlBlockWrite (c : Fin 8) (addr : Nat) (v : Word) (s : State) : Out :=
  clocked s (fun d => if inControlBlock addr && addr % 4 = 0 then ownWrite d c addr v else d)

end Sys2Proof.Machine
end

