-- ==== Sys2Proof/Machine/Block.lean ====
section
/-! DEFINITION. The block instructions: elements, stopping at a boundary and resuming (R369 to R372, R397 to R400). -/

namespace Sys2Proof.Machine

open Sys2Proof

/-! Areas. A formed area is kept as a word: VOID for a slot of the current frame, ADDR for a memory address. -/

def areaOf : Loc → TWord
  | .slot s => ⟨.void, w32 s⟩
  | .mem a => tAddr (w32 a)
  | .imm _ v => ⟨.addr, v⟩

/-- Element `k` of an area. -/
def areaAt (d : Dev) (c : Nat) (t : TWord) (k : Nat) : Loc :=
  match t.tag with
  | .void =>
    let s := t.w.toNat + k
    if s < 64 then .slot s else .mem ((fp d c + 4 * s) % 2 ^ 32)
  | _ => .mem ((t.w.toNat + 4 * k) % 2 ^ 32)

/-- The address an area starts at. -/
def areaAddr (d : Dev) (c : Nat) (t : TWord) : Nat :=
  match t.tag with
  | .void => (fp d c + 4 * t.w.toNat) % 2 ^ 32
  | _ => t.w.toNat

/-- An element is read, with its checks. -/
def elemRead (d : Dev) (c : Fin 8) (i : Nat) (l : Loc) : Dev × Try TWord :=
  match roleOk d c i .src l with
  | .error e => (d, .error e)
  | .ok () =>
    let r := readLoc d c i [] l
    match r.2 with
    | .error e => (r.1, .error e)
    | .ok x => (r.1, .ok ⟨x.1.getD .int, x.2⟩)

/-- An element is stored as any word is (R372); one of the output class closes its window (R436, log entry 72). -/
def elemWrite (d : Dev) (c : Fin 8) (i : Nat) (l : Loc) (t : TWord) : Dev × Try Unit :=
  match roleOk d c i .dst l with
  | .error e => (d, .error e)
  | .ok () =>
    let w := writeAll d c id [] [(i, l, t)]
    match w.2 with
    | .error e => (w.1, .error e)
    | .ok () => (if (destAddr l).any (outClass d c) then winClose w.1 c else w.1, .ok ())

/-! The loop. -/

/-- Elements from `k` on, `n` of them, up to the limit `lim`: the number of the next element, and whether all are done. A
wait leaves the state before its element. DEDUCED: log entry 60. -/
def blkLoop (step : Nat → Dev → Dev × Try Unit) (lim : Option Nat) : Nat → Nat → Dev → Dev × Nat × Try Bool
  | 0, k, d => (d, k, .ok true)
  | n + 1, k, d =>
    if lim.any (fun m => decide (m ≤ k)) then (d, k, .ok false)
    else
      let r := step k d
      match r.2 with
      | .ok () => blkLoop step lim n (k + 1) r.1
      | .error (.wait w) => (d, k, .error (.wait w))
      | .error e => (r.1, k, .error e)

/-- A block instruction: its form, its number of elements from its formed operands, and one element. -/
structure Block where
  form : Form
  count : List TWord → Try Nat
  step : List TWord → Nat → Dev → Dev × Try Unit

/-- The count operand: NAT, or INT not below 0 (R372); MATCH is NAT. DEDUCED: log entry 53. -/
def blkCount (i : Nat) (t : TWord) : Try Nat :=
  match t.tag with
  | .nat => .ok t.w.toNat
  | .int => if t.w.toInt < 0 then .error (.exc 8 0 0 0) else .ok t.w.toNat
  | .void => .error (.exc 1 1 i 0)
  | _ => if tagReserved t.tag then .error (.exc 1 3 i 0) else .error (.exc 1 2 i 0)

/-- The formed operands: areas as they stand, sources as read. -/
def blkValues (c : Fin 8) (ov : Slots) : List ((Role × Nat) × Loc) → Dev → Dev × Try (List Src)
  | [], d => (d, .ok [])
  | ((r, i), l) :: ls, d =>
    let x : Dev × Try Src := if r = .area then (d, .ok (some (areaOf l).tag, (areaOf l).w)) else readLoc d c i ov l
    match x.2 with
    | .error e => (x.1, .error e)
    | .ok v =>
      let q := blkValues c ov ls x.1
      match q.2 with
      | .error e => (q.1, .error e)
      | .ok vs => (q.1, .ok (v :: vs))

/-- A MATCH value takes the tag of the count after it, a MATCH count NAT (R342). DEDUCED: log entry 70. -/
def blkMatch (vs : List Src) : List TWord :=
  let n : Tag := ((vs.getLast?.bind (·.1))).getD .nat
  vs.map (fun v => ⟨v.1.getD n, v.2⟩)

/-- The operands of a block instruction: those it has formed already, or formed now. DEDUCED: log entry 53. -/
def blkForm (c : Fin 8) (i : Insn) (rs : List Role) (d : Dev) : Dev × Try (List TWord × Slots) :=
  match (coreGet d c).blk with
  | some x => (d, .ok x)
  | none =>
    let q := formAll c 0 (rs.zip i.ops) [] d
    match q.2 with
    | .error e => (q.1, .error e)
    | .ok (ls, ov) =>
      let p := blkValues c ov (rs.zipIdx.zip ls) q.1
      match p.2 with
      | .error e => (p.1, .error e)
      | .ok vs => (p.1, .ok (blkMatch vs, ov))

/-- A block instruction stands at element `k` (R398, R400). -/
def blkAt (d : Dev) (c k : Nat) (x : Option (List TWord × Slots)) : Dev :=
  sf (corePut d c { coreGet d c with prog := k, blk := x }) (CORE.STATUS c) stBlk 1

/-- Where an interrupt stops it: a presented entry after a number of elements that is open, a follower where its leader
stopped (R398, R442). DEDUCED: log entry 60. -/
def blkLimit (d : Dev) (c n : Nat) : Dev × Option Nat :=
  if isFollower d c then (d, entryDue d c)
  else if (coreGet d c).ent.isSome then let q := draw d; (q.2, some (Config.freeNat q.1 % (n + 1)))
  else (d, none)

/-- The elements, and how the instruction ends. DEDUCED: log entry 60. -/
def blkRun (c : Fin 8) (i : Insn) (b : Block) (rs : List Role) (d0 : Dev) : Dev :=
  let pc := (coreGet d0 c).pc
  let k0 := if gf d0 (CORE.STATUS c) stBlk = 1 then (coreGet d0 c).prog else 0
  let q := blkForm c i rs d0
  match q.2 with
  | .error e => stopped d0 q.1 c pc e
  | .ok (vs, ov) =>
    match b.count vs with
    | .error e => stopped d0 q.1 c pc e
    | .ok n =>
      let m := blkLimit q.1 c (n - k0)
      let r := blkLoop (b.step vs) (m.2.map (fun x => if isFollower d0 c then x else k0 + x)) (n - k0) k0 m.1
      match r.2.2 with
      | .ok true => finish (slotsApply (blkClear r.1 c) c ov) c (nextPc d0 c i) {}
      | .ok false => if r.2.1 = k0 && gf d0 (CORE.STATUS c) stBlk = 0 then d0 else blkAt r.1 c r.2.1 none
      | .error (.wait w) => stopped (blkAt r.1 c r.2.1 (some (vs, ov))) r.1 c pc (.wait w)
      | .error .diverge => stopped r.1 r.1 c pc .diverge
      | .error (.exc k code o f) => stopped d0 (blkAt r.1 c r.2.1 none) c pc (.exc k code o f)

/-- A core may start or continue a block instruction: one stopped for an entry waits for it (R427). -/
def blkFree (d : Dev) (c : Nat) : Bool :=
  let stop := gf d (CORE.STATUS c) stBlk = 1
  coreReady d c && ((coreGet d c).ent.isNone || !stop)
    && (match entryDue d c with
        | some k => decide ((if stop then (coreGet d c).prog else 0) < k)
        | none => true)

/-- A block instruction as a command. -/
def blkCmd (c : Fin 8) (i : Insn) (b : Block) (s : State) : Out :=
  clocked s (fun d => if blkFree d c then runChecked d c b.form i (blkRun c i b) else d)

/-! The instructions. -/

/-- The count is the last operand. -/
def lastCount (i : Nat) (vs : List TWord) : Try Nat := blkCount i (vs.getLastD tVoid)

/-- `BMOV`: from the highest word down where `dst` is above `src` and the areas overlap (R369). DEDUCED: log entry 72. -/
def bmovStep (c : Fin 8) (vs : List TWord) (k : Nat) (d : Dev) : Dev × Try Unit :=
  match vs with
  | [dst, src, n] =>
    let a := areaAddr d c dst
    let b := areaAddr d c src
    let k := if b < a && a < b + 4 * n.w.toNat then n.w.toNat - 1 - k else k
    let r := elemRead d c 1 (areaAt d c src k)
    match r.2 with
    | .error e => (r.1, .error e)
    | .ok t => elemWrite r.1 c 0 (areaAt r.1 c dst k) t
  | _ => (d, .ok ())

/-- R369. -/
def execBmov (c : Fin 8) (i : Insn) (s : State) : Out :=
  blkCmd c i { form := { roles := [[.area, .area, .src]] }, count := lastCount 2, step := bmovStep c } s

/-- `BFILL` (R369): `v` is a source under R335. DEDUCED: log entry 72. -/
def bfillStep (c : Fin 8) (vs : List TWord) (k : Nat) (d : Dev) : Dev × Try Unit :=
  match vs with
  | [dst, v, _] => elemWrite d c 0 (areaAt d c dst k) v
  | _ => (d, .ok ())

def bfillCount (vs : List TWord) : Try Nat :=
  match vs with
  | [_, v, n] => do plainSrc 1 v; blkCount 2 n
  | _ => .ok 0

/-- R369. -/
def execBfill (c : Fin 8) (i : Insn) (s : State) : Out :=
  blkCmd c i { form := { roles := [[.area, .src, .src]] }, count := bfillCount, step := bfillStep c } s

/-- `BCRC`: a step of four bytes, or of what is left (R370). -/
def bcrcStep (c : Fin 8) (sel : Nat) (vs : List TWord) (k : Nat) (d : Dev) : Dev × Try Unit :=
  match vs with
  | [acc, src, n] =>
    let r := elemRead d c 0 (areaAt d c acc 0)
    match r.2 with
    | .error e => (r.1, .error e)
    | .ok x =>
      match plainSrc 0 x, decide (x.tag = .bits) with
      | .error e, _ => (r.1, .error e)
      | .ok (), false => (r.1, .error (.exc 1 2 0 0))
      | .ok (), true =>
        let q := elemRead r.1 c 1 (areaAt r.1 c src k)
        match q.2 with
        | .error e => (q.1, .error e)
        | .ok t =>
          elemWrite q.1 c 0 (areaAt q.1 c acc 0)
            (tBits (crcFold sel x.w ((leBytes 4 t.w.toNat).take (min 4 (n.w.toNat - 4 * k)))))
  | _ => (d, .ok ())

def bcrcCount (vs : List TWord) : Try Nat := (lastCount 2 vs).map (fun n => (n + 3) / 4)

/-- R370. -/
def execBcrc (c : Fin 8) (i : Insn) (s : State) : Out :=
  blkCmd c i { form := { roles := [[.area, .area, .src]], xs := fun x => x < 3 }, count := bcrcCount,
               step := bcrcStep c i.x.toNat } s

/-- The result of a step joins the flags and goes to the accumulator, or traps. -/
def vmacPut (c : Fin 8) (l : Loc) (d : Dev) : AluRes → Dev × Try Unit
  | .ok a =>
    match trapOf d c a.ieee with
    | some b => (d, .error (.exc 9 b 0 0))
    | none =>
      let w := elemWrite d c 0 l a.t
      match w.2 with
      | .error e => (w.1, .error e)
      | .ok () => (if a.ieee = 0 && !a.sat then w.1 else flagsJoin w.1 c a.ieee a.sat, .ok ())
  | .error .tag => (d, .error (.exc 1 2 2 0))
  | .error .divide => (d, .error (.exc 7 0 0 0))
  | .error .overflow => (d, .error (.exc 8 0 0 0))

/-- `VMAC`: one step is a `MAC` (R371). -/
def vmacStep (c : Fin 8) (vs : List TWord) (k : Nat) (d : Dev) : Dev × Try Unit :=
  match vs with
  | [acc, a, b] =>
    let r := elemRead d c 0 (areaAt d c acc 0)
    match r.2 with
    | .error e => (r.1, .error e)
    | .ok x =>
      let p := elemRead r.1 c 1 (areaAt r.1 c a k)
      match p.2 with
      | .error e => (p.1, .error e)
      | .ok y =>
        let q := elemRead p.1 c 2 (areaAt p.1 c b k)
        match q.2 with
        | .error e => (q.1, .error e)
        | .ok z =>
          match (do plainSrc 0 x; plainSrc 1 y; plainSrc 2 z) with
          | .error e => (q.1, .error e)
          | .ok () => vmacPut c (areaAt q.1 c acc 0) q.1 (aluMac 0 x y z)
  | _ => (d, .ok ())

/-- R371. -/
def execVmac (c : Fin 8) (i : Insn) (s : State) : Out :=
  blkCmd c i { form := { roles := [[.area, .area, .area]], xs := fun _ => true, unit := some 1 },
               count := fun _ => .ok (i.x.toNat + 1), step := vmacStep c } s

end Sys2Proof.Machine
end

