-- ==== Sys2Proof/Machine/Tick.lean ====
section
/-! DEFINITION. The frame tick: what comes about in cycle 0 and after it, the commit of every block, the Husk tick, and the
comparison of a pair's windows (R22, R31, R35 to R40, R47 to R53, R437, R440, R453). -/

namespace Sys2Proof.Machine

open Sys2Proof

/-! A pair's windows (R437, R440). -/

/-- The output-queue entries of window `n` leave in order. -/
def oqLeave (d : Dev) (p n : Nat) : Dev :=
  let x := pairGet d p
  let go := x.oq.filter (fun e => e.1 = n)
  let d := pairOqShow (pairPut d p { x with oq := x.oq.filter (fun e => e.1 != n) }) p
  forEach go (fun d e => storeDone d (Fin.ofNat 8 (2 * p)) e.2.1 e.2.2) d

/-- The two signatures of the oldest window that both cores have closed are compared. -/
def windowCompare (d : Dev) (p : Nat) : Dev :=
  let x := pairGet d p
  match x.lw, x.fw with
  | a :: la, b :: lb =>
    if a = b then
      oqLeave (bumpWrap (pairPut d p { x with lw := la, fw := lb }) (PAIRC.PWINCNT p)) p (x.num - x.lw.length)
    else diverge d p 1 a b
  | _, _ => d

def execWindowCompare (p : Fin 4) (s : State) : Out := clocked s (fun d => windowCompare d p)

/-! Commits (R22, R40). -/

/-- A pending copy in an address range differs from its active copy. -/
def touched (d : Dev) (lo n : Nat) : Bool := d.pend.any (fun e => decide (lo ≤ e.1) && decide (e.1 < lo + n))

/-- Instances `0` to `n − 1` of a block, `size` bytes each from `base`, that have something to commit in a group that does.
DEDUCED: log entry 8. -/
def commitEach (base size n : Nat) (on : Dev → Nat → Bool) (f : Dev → Nat → Dev) (d : Dev) : Dev :=
  forEach (List.range n) (fun d i => if touched d (base + size * i) size && on d i then f d i else d) d

/-- A channel's claim on its trigger line follows its mode (R650, R655). -/
def gptCommit (d : Dev) (n : Nat) : Dev :=
  let v := rdPend d (GPT.GCFG n)
  let m := fget GPT.GCFG_MODE v
  let r := if m = 0 then (releaseClaims d (ownGpt n), true)
    else if gptMode d n ≠ 0 then (d, true)
    else takeClaims d (ownGpt n) [(resTrigger n, true)]
  if !r.2 then r.1
  else
    let d := r.1
    let d := if v = rd d (GPT.GCFG n) then d else { commitGcfg d n v with pend := del d.pend (GPT.GCFG n).addr }
    let w := rdPend d (GPT.GRLD n)
    if w = rd d (GPT.GRLD n) then d else { commitGrld d n w with pend := del d.pend (GPT.GRLD n).addr }

/-- Ticked registers of a range that need nothing more. -/
def commitRange (lo n : Nat) (d : Dev) : Dev :=
  forEach (d.pend.map (·.1)) (fun d a =>
    if lo ≤ a && a < lo + n then (match tickedAt a with | some r => commitReg d r | none => d) else d) d

/-- The windows and the lines of the Rind. -/
def rindCommit (d : Dev) : Dev :=
  tripRefresh (commitRange 0x40110000 0x100 (commitEach 0x40110100 16 48 (fun _ _ => true) winCommit d))

/-- Blocks in the order of their owner codes, in which claims are decided (R653): converters and lanes, which claim nothing,
before the contexts, which cost what the converters then give (R281); a lane that stops its feed before its ring moves. -/
def commitBlocks (g : Nat → Bool) (d : Dev) : Dev :=
  let open' (d : Dev) (b : Nat) : Bool := gateOpen d b
  let d := commitEach 0x40120000 0x400 16 (fun d t => open' d 11 && g (gf d (TRIAD.TISEL t) TRIAD.TISEL_CGRP)) triCommit d
  let d := commitEach 0x40140000 0x400 16 (fun d _ => open' d 13) (fun d n =>
    leCommit d n (g (gf d (LE.LSEL n) LE.LSEL_CGRP)) (g (gf d (LE.LSEL n) LE.LSEL_RGRP))) d
  let d := commitEach 0x40130000 0x400 24 (fun d f => open' d 12 && g (gf d (FB.FSEL f) FB.FSEL_CGRP)) fbCommit d
  let d := commitEach 0x40100000 0x1000 8 (fun d n => open' d (1 + n) && g (gf d (ADC.ASEL n) ADC.ASEL_CGRP)) adcCommit d
  let lanes (cel : Nat) (d : Dev) : Dev := commitEach 0x40200100 4 128 (fun d c =>
    open' d 14 && g (gf d PRESS.PSEL PRESS.PSEL_CGRP) && fget PRESS.LNCFG_CEL (rdPend d (PRESS.LNCFG c)) = cel) laneCommit d
  let d := lanes 0 d
  let d := if touched d 0x40210000 0x10000 && open' d 14 && g (gf d POUT.OSEL POUT.OSEL_CGRP) then poutCommit d else d
  let d := lanes 1 d
  let d := if touched d 0x40280000 0x80000 && open' d 14 then
      commitEach 0x40280000 0x200 1024 (fun d c => g (gf d (PRESS.PCGRP (c / 8)) ⟨4 * (c % 8) + 3, 4 * (c % 8)⟩)) ctxCommit d
    else d
  let d := commitEach 0x40020100 0x20 32 (fun d n => open' d 0 && g (gf d (GPT.GSEL n) GPT.GSEL_CGRP)) gptCommit d
  let d := commitEach 0x40300100 4 64 (fun d _ => g (gf d PINMUX.PXSEL PINMUX.PXSEL_CGRP)) pinCommit d
  let d := if touched d 0x40108000 0x1000 && open' d 9 && g (gf d REF.REFSEL REF.REFSEL_CGRP) then refCommit d else d
  let d := if touched d 0x40110000 0x1000 && open' d 10 && g (gf d RIND.RSEL RIND.RSEL_CGRP) then rindCommit d else d
  let d := commitEach 0x40060000 0x40 8 (fun d u => open' d 15 && g (gf d (CVU.CVSEL u) CVU.CVSEL_CGRP)) cvCommit d
  let d := commitEach 0x40070000 0x40 4 (fun d p => g (gf d (PAIRC.PSEL p) PAIRC.PSEL_CGRP)) pairCommit d
  let d := if touched d 0x40070400 0x400 && g (gf d PAIRC.TWSEL PAIRC.TWSEL_CGRP) then twinCommit d else d
  let d := if touched d 0x40080000 0x10000 && open' d 17 && g (gf d CHAIN.CHSEL CHAIN.CHSEL_CGRP) then chainCommit d else d
  let d := if touched d 0x40090000 0x10000 && open' d 18 && g (gf d CXLC.CXSEL CXLC.CXSEL_CGRP) then cxlcCommit d else d
  let d := if touched d 0x40050000 0x10000 && open' d 16 && g (gf d DDRC.DSEL DDRC.DSEL_CGRP) then ddrCommit d else d
  let d := if touched d 0x40040000 0x10000 && g (gf d FLASHC.FLSEL FLASHC.FLSEL_CGRP) then flctlCommit d else d
  let d := if touched d 0x40000000 0x10000 && g (gf d SYSCFG.SCSEL SYSCFG.SCSEL_CGRP) then sclkCommit d else d
  let d := icuCommit d g
  if g 15 then commitReg d TICK.TICKPER else d

/-- Groups that commit at this tick: group 0 and the armed ones that are at or past their target (R22, R47). -/
def groupsDue (d : Dev) : List Nat :=
  (List.range 16).filter (fun g =>
    g = 0 || (bitOf d (TICK.CGCTL g) 0 && atOrPast (tnoLow d) (rd d (TICK.CGTGT g))))

/-- The commit of a tick (R22, R39). -/
def commitTick (d : Dev) : Dev :=
  let gs := groupsDue d
  let d := commitBlocks (fun g => gs.contains g) d
  let d := forEach gs (fun d g =>
    let d := wr d (TICK.CGLAST g) (tnoLow d)
    if g = 0 then d else setBit d (TICK.CGCTL g) 0 false) d
  if gs.any (fun g => g != 0) then raise d 1 else d

/-! The resync image of a standby (R453). -/

/-- Items that arrived since the last tick go to both copies of their registers; after the last the member is STANDBY.
DEDUCED: log entry 30. -/
def imageApply (d : Dev) : Dev :=
  if twState d = 2 && (!d.twin.got.isEmpty || d.twin.last) then
    let saved := d.pend
    let put1 (want : Bool) (d : Dev) (it : MirItem) : Dev :=
      match it with
      | .image a act v => if act = want then (match tickedAt a with | some r => setPend d r v | none => d) else d
      | _ => d
    let got := d.twin.got
    let d := commitBlocks (fun _ => true) (forEach got (put1 true) { d with pend := [] })
    let d := forEach saved (fun d e => match tickedAt e.1 with | some r => setPend d r e.2 | none => d) { d with pend := [] }
    let d := forEach got (put1 false) d
    let last := d.twin.last
    let d := twSet d (fun x => { x with got := [], last := false })
    if last then sf d PAIRC.TWSTAT PAIRC.TWSTAT_STATE 3 else d
  else d

/-! Overruns (R48 to R50, R53). -/

/-- A source has not declared its work for the tick done: engines, cores, the Press. -/
def notDone (d : Dev) (i : Nat) : Bool :=
  if i < 16 then (leGet d i).bad
  else if i < 24 then !(coreGet d (i - 16)).wft && !isFollower d (i - 16)
  else d.pressBad

def overrunEval (d : Dev) : Dev :=
  let d' :=
    if d.huskRan then d
    else
      let l := (List.range 25).filter (fun i => bitOf d TICK.OVREN i && notDone d i)
      let new := l.any (fun i => !bitOf d TICK.OVRSTAT i)
      let d := forEach l (fun d i => bump (setBit d TICK.OVRSTAT i true) (TICK.OVRCNT i) TICK.OVRCNT_CNT) d
      if new then raise d 2 else d
  { forEach (List.range 16) (fun d n => if (leGet d n).bad then leTick d n else d) d' with pressBad := false }

/-! Cores (R51, R52, R443). -/

/-- A core waiting in WFT is released, or the tick is remembered for it while its handler runs. -/
def wftTick (d : Dev) (c : Nat) : Dev :=
  let x := coreGet d c
  if !x.wft || isFollower d c then d
  else if x.nest = 0 then wftRelease d c
  else corePut d c { x with seen := true }

/-! The tick. -/

/-- Time goes on to cycle 0 of the tick: its count, or the FABRIC edge after it, which `PALN` reports (R36). DEDUCED: log
entry 66. -/
def toTick (d : Dev) : Dev :=
  let d := advance d d.tbHold
  let per := gf d TICK.TICKPER TICK.TICKPER_PER
  let t := d.now + (per - d.tphase)
  let e := edgeAt d (fabDiv d) t
  let d := advanceTo d e
  let d := if e = t then d else setBit d TICK.TSTAT 1 true
  { d with tphase := d.tphase - per }

/-- Lanes whose feed is suspended resume, and the rate is held to its limit (R319). -/
def celRateTick (d : Dev) : Dev :=
  if d.cel.isEmpty then d else celFit (forEach (List.range 128) (fun d c => if celSusp d c then celTryResume d c else d) d)

/-- Cycle 0 of a tick: its number and its time are latched (R35, R36). DEDUCED: log entry 66. -/
def tickStart (d : Dev) : Dev :=
  let d := toTick d
  { d with tickno := d.tickno + 1, tickts := d.tb }

/-- What a full-rate tick does after that, in order (R39). DEDUCED: log entry 74. -/
def tickWork (d : Dev) : Dev :=
  let per := gf d TICK.TICKPER TICK.TICKPER_PER
  let d := overrunEval d
  let husk := d.huskRan
  let stops := (ctxLive d).filter (fun c => ctxState d c = 3)
  let d := commitTick (imageApply d)
  let d := sclkTick { d with huskRan := false }
  let d := forEach (List.range 4) pairTick d
  let r := sleepTick d
  let d := if r.2 then forEach (List.range 8) wftTick r.1 else r.1
  let d := freezeTick (runTick d)
  let d := forEach (List.range 32) gptTickReset d
  let d := forEach (List.range 24) (fbTick per) d
  let d := forEach (List.range 16) triTick d
  let d := celTick (celRateTick (pressTick d husk stops))
  lossTick (tripTick (chainTick (twinTick d)))

/-- A full-rate tick: number and time stand until the next one, and the source TICK rises (R35, R39). DEDUCED: log entry 66.
-/
def tick (d : Dev) : Dev :=
  let d := tickStart d
  let e := { tickWork d with tickno := d.tickno, tickts := d.tickts }
  emitTrace (raise e 0) DBG.DBGCTL_TRTICK 3 0 (leBytes 6 e.tickno.toNat)

def execTick (s : State) : Out := clocked s tick

/-! The Husk tick (R31, R38). -/

/-- One HUSK edge while the root clocks are stopped: root-clocked time stands still. DESIGN CHOICE: log entry 21. -/
def huskTick (d : Dev) : Dev :=
  let per := gf d TICK.TICKPER TICK.TICKPER_PER
  let t := d.tphase + 15360
  let d := { setBit d TICK.TBSTAT 0 true with tb := d.tb + 15360, tphase := t % per, tickno := d.tickno + BitVec.ofNat 48 (t / per) }
  let e := (List.range (t / per)).foldl (fun d _ => pressHuskTick d) d
  { e with tb := d.tb, tphase := d.tphase, tickno := d.tickno, huskRan := true }

def execHuskTick (s : State) : Out :=
  if s.pwr.crystal && !s.pwr.root && !s.dev.off && (s.pwr.asleep || s.pwr.frozen || huskMode s.dev ≠ 0 || frz s.dev ≠ 0) then
    onDev s huskTick
  else .next s

end Sys2Proof.Machine
end

