-- ==== Sys2Proof/Machine/Dispatch.lean ====
section
/-! DEFINITION. One arm per command: each is one direct call of its meaning. -/

namespace Sys2Proof.Machine

open Sys2Proof

def exec (i : Instr) (s : State) : Host.Outcome State Fault Refusal :=
  match i with
  | .registerWrite ini addr size v => Sys2Proof.Machine.execRegisterWrite ini addr size v s
  | .tick => Sys2Proof.Machine.execTick s
  | .huskTick => Sys2Proof.Machine.execHuskTick s
  | .snap => Sys2Proof.Machine.execSnap s
  | .tickperWrite v => Sys2Proof.Machine.execTickperWrite v s
  | .cmarm mask => Sys2Proof.Machine.execCmarm mask s
  | .cgtgtWrite g v => Sys2Proof.Machine.execCgtgtWrite g v s
  | .cgctlWrite g v => Sys2Proof.Machine.execCgctlWrite g v s
  | .tbcmpWrite k v => Sys2Proof.Machine.execTbcmpWrite k v s
  | .tbcmpFire k => Sys2Proof.Machine.execTbcmpFire k s
  | .gcfgWrite n v => Sys2Proof.Machine.execGcfgWrite n v s
  | .gcntWrite n v => Sys2Proof.Machine.execGcntWrite n v s
  | .gcmpWrite n v => Sys2Proof.Machine.execGcmpWrite n v s
  | .gptCompareFire n => Sys2Proof.Machine.execGptCompareFire n s
  | .gptWrap n => Sys2Proof.Machine.execGptWrap n s
  | .gptPeriodEnd n => Sys2Proof.Machine.execGptPeriodEnd n s
  | .gptCapture n dt => Sys2Proof.Machine.execGptCapture n dt s
  | .referenceReady k => Sys2Proof.Machine.execReferenceReady k s
  | .externalReferenceReady k => Sys2Proof.Machine.execExternalReferenceReady k s
  | .referenceStopDone k => Sys2Proof.Machine.execReferenceStopDone k s
  | .adcStartDone n => Sys2Proof.Machine.execAdcStartDone n s
  | .adcStopDone n => Sys2Proof.Machine.execAdcStopDone n s
  | .adcConfigWrite addr v => Sys2Proof.Machine.execAdcConfigWrite addr v s
  | .adcTrigger n dt => Sys2Proof.Machine.execAdcTrigger n dt s
  | .aswtTrig n => Sys2Proof.Machine.execAswtTrig n s
  | .monitoringPassStart n => Sys2Proof.Machine.execMonitoringPassStart n s
  | .adcResult n mon x nv => Sys2Proof.Machine.execAdcResult n mon x nv s
  | .xbarDeliver n mon x => Sys2Proof.Machine.execXbarDeliver n mon x s
  | .adcCalStart n => Sys2Proof.Machine.execAdcCalStart n s
  | .adcCalDone n => Sys2Proof.Machine.execAdcCalDone n s
  | .fbEdge f a b z dt => Sys2Proof.Machine.execFbEdge f a b z dt s
  | .standstill f => Sys2Proof.Machine.execStandstill f s
  | .fcmpWrite f k v => Sys2Proof.Machine.execFcmpWrite f k v s
  | .fposWrite f v => Sys2Proof.Machine.execFposWrite f v s
  | .iarm f => Sys2Proof.Machine.execIarm f s
  | .ssiTrigger f aHigh => Sys2Proof.Machine.execSsiTrigger f aHigh s
  | .swt f aHigh => Sys2Proof.Machine.execSwt f aHigh s
  | .ssiReadingDone f raw endHigh => Sys2Proof.Machine.execSsiReadingDone f raw endHigh s
  | .ssiMonoEnd f => Sys2Proof.Machine.execSsiMonoEnd f s
  | .sincosPair f => Sys2Proof.Machine.execSincosPair f s
  | .angleItem f => Sys2Proof.Machine.execAngleItem f s
  | .fbStartDone f => Sys2Proof.Machine.execFbStartDone f s
  | .fbStopDone f => Sys2Proof.Machine.execFbStopDone f s
  | .fbConfigWrite addr v => Sys2Proof.Machine.execFbConfigWrite addr v s
  | .periodStart t => Sys2Proof.Machine.execPeriodStart t s
  | .centre t => Sys2Proof.Machine.execCentre t s
  | .lDutyWrite t j v => Sys2Proof.Machine.execLDutyWrite t j v s
  | .deadTimeEnd t j => Sys2Proof.Machine.execDeadTimeEnd t j s
  | .triadStartDone t => Sys2Proof.Machine.execTriadStartDone t s
  | .triadStopDone t => Sys2Proof.Machine.execTriadStopDone t s
  | .tripLineAssert k => Sys2Proof.Machine.execTripLineAssert k s
  | .lowonTurnOn t j => Sys2Proof.Machine.execLowonTurnOn t j s
  | .tcmdSafe t => Sys2Proof.Machine.execTcmdSafe t s
  | .tcmdRelease t => Sys2Proof.Machine.execTcmdRelease t s
  | .triadConfigWrite addr v => Sys2Proof.Machine.execTriadConfigWrite addr v s
  | .windowEvent w hi => Sys2Proof.Machine.execWindowEvent w hi s
  | .windowLatchClear w v => Sys2Proof.Machine.execWindowLatchClear w v s
  | .windowStartDone w => Sys2Proof.Machine.execWindowStartDone w s
  | .windowStopDone w => Sys2Proof.Machine.execWindowStopDone w s
  | .windowDacSettled w => Sys2Proof.Machine.execWindowDacSettled w s
  | .rswt v => Sys2Proof.Machine.execRswt v s
  | .tripImport code pip => Sys2Proof.Machine.execTripImport code pip s
  | .rindConfigWrite addr v => Sys2Proof.Machine.execRindConfigWrite addr v s
  | .leStartDone n => Sys2Proof.Machine.execLeStartDone n s
  | .leStopDone n => Sys2Proof.Machine.execLeStopDone n s
  | .leHookPoint n => Sys2Proof.Machine.execLeHookPoint n s
  | .go n v => Sys2Proof.Machine.execGo n v s
  | .hkmiss n => Sys2Proof.Machine.execHkmiss n s
  | .leShadowWrite n => Sys2Proof.Machine.execLeShadowWrite n s
  | .resume n => Sys2Proof.Machine.execResume n s
  | .irst n => Sys2Proof.Machine.execIrst n s
  | .lswtsWrite n v => Sys2Proof.Machine.execLswtsWrite n v s
  | .leConfigWrite addr v => Sys2Proof.Machine.execLeConfigWrite addr v s
  | .laneOutput c x => Sys2Proof.Machine.execLaneOutput c x s
  | .contextRunning c => Sys2Proof.Machine.execContextRunning c s
  | .orderTarget c => Sys2Proof.Machine.execOrderTarget c s
  | .blockComplete c => Sys2Proof.Machine.execBlockComplete c s
  | .jobPassEnd e => Sys2Proof.Machine.execJobPassEnd e s
  | .jobComplete e => Sys2Proof.Machine.execJobComplete e s
  | .contextConfigWrite addr v => Sys2Proof.Machine.execContextConfigWrite addr v s
  | .curdRecordWrite r => Sys2Proof.Machine.execCurdRecordWrite r s
  | .spillWrite => Sys2Proof.Machine.execSpillWrite s
  | .snapshotSchedule n => Sys2Proof.Machine.execSnapshotSchedule n s
  | .snapshotCopyStart n => Sys2Proof.Machine.execSnapshotCopyStart n s
  | .snapshotCopyDone => Sys2Proof.Machine.execSnapshotCopyDone s
  | .snapReady => Sys2Proof.Machine.execSnapReady s
  | .poutConfigWrite addr v => Sys2Proof.Machine.execPoutConfigWrite addr v s
  | .mov c x => Sys2Proof.Machine.execMov c x s
  | .add c x => Sys2Proof.Machine.execAdd c x s
  | .sub c x => Sys2Proof.Machine.execSub c x s
  | .mul c x => Sys2Proof.Machine.execMul c x s
  | .mac c x => Sys2Proof.Machine.execMac c x s
  | .div c x => Sys2Proof.Machine.execDiv c x s
  | .rem c x => Sys2Proof.Machine.execRem c x s
  | .neg c x => Sys2Proof.Machine.execNeg c x s
  | .abs c x => Sys2Proof.Machine.execAbs c x s
  | .and c x => Sys2Proof.Machine.execAnd c x s
  | .or c x => Sys2Proof.Machine.execOr c x s
  | .xor c x => Sys2Proof.Machine.execXor c x s
  | .not c x => Sys2Proof.Machine.execNot c x s
  | .shl c x => Sys2Proof.Machine.execShl c x s
  | .shr c x => Sys2Proof.Machine.execShr c x s
  | .sha c x => Sys2Proof.Machine.execSha c x s
  | .rot c x => Sys2Proof.Machine.execRot c x s
  | .cmp c x => Sys2Proof.Machine.execCmp c x s
  | .bcc c x => Sys2Proof.Machine.execBcc c x s
  | .call c x => Sys2Proof.Machine.execCall c x s
  | .ret c x => Sys2Proof.Machine.execRet c x s
  | .gate c x => Sys2Proof.Machine.execGate c x s
  | .gret c x => Sys2Proof.Machine.execGret c x s
  | .reti c x => Sys2Proof.Machine.execReti c x s
  | .trap c x => Sys2Proof.Machine.execTrap c x s
  | .tag c x => Sys2Proof.Machine.execTag c x s
  | .untag c x => Sys2Proof.Machine.execUntag c x s
  | .tchk c x => Sys2Proof.Machine.execTchk c x s
  | .cvt c x => Sys2Proof.Machine.execCvt c x s
  | .sincos c x => Sys2Proof.Machine.execSincos c x s
  | .atan2 c x => Sys2Proof.Machine.execAtan2 c x s
  | .bmov c x => Sys2Proof.Machine.execBmov c x s
  | .bfill c x => Sys2Proof.Machine.execBfill c x s
  | .bcrc c x => Sys2Proof.Machine.execBcrc c x s
  | .vmac c x => Sys2Proof.Machine.execVmac c x s
  | .flushi c x => Sys2Proof.Machine.execFlushi c x s
  | .chkpt c x => Sys2Proof.Machine.execChkpt c x s
  | .wft c x => Sys2Proof.Machine.execWft c x s
  | .sync c x => Sys2Proof.Machine.execSync c x s
  | .fpWrite c v => Sys2Proof.Machine.execFpWrite c v s
  | .tkbWrite c v => Sys2Proof.Machine.execTkbWrite c v s
  | .inval c => Sys2Proof.Machine.execInval c s
  | .detmChange c detm => Sys2Proof.Machine.execDetmChange c detm s
  | .statusWrite c v => Sys2Proof.Machine.execStatusWrite c v s
  | .controlBlockWrite c addr v => Sys2Proof.Machine.execControlBlockWrite c addr v s
  | .interruptEntry c => Sys2Proof.Machine.execInterruptEntry c s
  | .windowCompare p => Sys2Proof.Machine.execWindowCompare p s
  | .slipTimeout p => Sys2Proof.Machine.execSlipTimeout p s
  | .watchdogExpiry p => Sys2Proof.Machine.execWatchdogExpiry p s
  | .watchdogService c p key => Sys2Proof.Machine.execWatchdogService c p key s
  | .watchdogStart p v => Sys2Proof.Machine.execWatchdogStart p v s
  | .mirrorReceive it => Sys2Proof.Machine.execMirrorReceive it s
  | .yield => Sys2Proof.Machine.execYield s
  | .switch => Sys2Proof.Machine.execSwitch s
  | .rebind => Sys2Proof.Machine.execRebind s
  | .paircConfigWrite addr v => Sys2Proof.Machine.execPaircConfigWrite addr v s
  | .icuSourceRise n => Sys2Proof.Machine.execIcuSourceRise n s
  | .iset w v => Sys2Proof.Machine.execIset w v s
  | .interruptPresentation => Sys2Proof.Machine.execInterruptPresentation s
  | .holdoffEnd g => Sys2Proof.Machine.execHoldoffEnd g s
  | .ivecWrite n v => Sys2Proof.Machine.execIvecWrite n v s
  | .sramWriteback => Sys2Proof.Machine.execSramWriteback s
  | .sramScrub => Sys2Proof.Machine.execSramScrub s
  | .program => Sys2Proof.Machine.execProgram s
  | .programDone => Sys2Proof.Machine.execProgramDone s
  | .erase => Sys2Proof.Machine.execErase s
  | .eraseDone => Sys2Proof.Machine.execEraseDone s
  | .suspend => Sys2Proof.Machine.execSuspend s
  | .resumeErase => Sys2Proof.Machine.execResumeErase s
  | .autoSuspend addr => Sys2Proof.Machine.execAutoSuspend addr s
  | .autoResume => Sys2Proof.Machine.execAutoResume s
  | .margin => Sys2Proof.Machine.execMargin s
  | .marginDone fail line => Sys2Proof.Machine.execMarginDone fail line s
  | .swap => Sys2Proof.Machine.execSwap s
  | .swapDone => Sys2Proof.Machine.execSwapDone s
  | .rdp => Sys2Proof.Machine.execRdp s
  | .rdpLowering => Sys2Proof.Machine.execRdpLowering s
  | .ddrcStartDone ok => Sys2Proof.Machine.execDdrcStartDone ok s
  | .ddrcStopDone => Sys2Proof.Machine.execDdrcStopDone s
  | .ddrcRetrainDone => Sys2Proof.Machine.execDdrcRetrainDone s
  | .ddrRefresh rank => Sys2Proof.Machine.execDdrRefresh rank s
  | .ddrScrub => Sys2Proof.Machine.execDdrScrub s
  | .dcfgWrite v => Sys2Proof.Machine.execDcfgWrite v s
  | .dwinWrite w v => Sys2Proof.Machine.execDwinWrite w v s
  | .cvuItemFold u it => Sys2Proof.Machine.execCvuItemFold u it s
  | .cvrunWrite u v => Sys2Proof.Machine.execCvrunWrite u v s
  | .cvexpWrite u v => Sys2Proof.Machine.execCvexpWrite u v s
  | .cvuStopDone u => Sys2Proof.Machine.execCvuStopDone u s
  | .cvuConfigWrite addr v => Sys2Proof.Machine.execCvuConfigWrite addr v s
  | .cxlLinkUp w spd => Sys2Proof.Machine.execCxlLinkUp w spd s
  | .cxlLinkDown => Sys2Proof.Machine.execCxlLinkDown s
  | .l1Entry => Sys2Proof.Machine.execL1Entry s
  | .bar0Access addr size v => Sys2Proof.Machine.execBar0Access addr size v s
  | .hdmDecoderCommit k base size skip ways gran => Sys2Proof.Machine.execHdmDecoderCommit k base size skip ways gran s
  | .cxlMemAccess addr w => Sys2Proof.Machine.execCxlMemAccess addr w s
  | .biasFlip g => Sys2Proof.Machine.execBiasFlip g s
  | .biasFlipDone g => Sys2Proof.Machine.execBiasFlipDone g s
  | .doorbellSnoop line inv => Sys2Proof.Machine.execDoorbellSnoop line inv s
  | .doorbellRead line data => Sys2Proof.Machine.execDoorbellRead line data s
  | .doorbellPoll => Sys2Proof.Machine.execDoorbellPoll s
  | .descriptorFetch r good d => Sys2Proof.Machine.execDescriptorFetch r good d s
  | .descriptorReread r good d => Sys2Proof.Machine.execDescriptorReread r good d s
  | .nop r => Sys2Proof.Machine.execNop r s
  | .commit r => Sys2Proof.Machine.execCommit r s
  | .write r => Sys2Proof.Machine.execWrite r s
  | .read r => Sys2Proof.Machine.execRead r s
  | .snapshot r => Sys2Proof.Machine.execSnapshot r s
  | .mbox r => Sys2Proof.Machine.execMbox r s
  | .imageBlock r good buf => Sys2Proof.Machine.execImageBlock r good buf s
  | .eventPost => Sys2Proof.Machine.execEventPost s
  | .fwMsg => Sys2Proof.Machine.execFwMsg s
  | .statusLineWrite => Sys2Proof.Machine.execStatusLineWrite s
  | .msixFire v => Sys2Proof.Machine.execMsixFire v s
  | .ringEnable r v => Sys2Proof.Machine.execRingEnable r v s
  | .hfmtWrite v => Sys2Proof.Machine.execHfmtWrite v s
  | .doorbellAddressWrite addr v => Sys2Proof.Machine.execDoorbellAddressWrite addr v s
  | .flr => Sys2Proof.Machine.execFlr s
  | .cxlReset => Sys2Proof.Machine.execCxlReset s
  | .hotReset => Sys2Proof.Machine.execHotReset s
  | .cxlcConfigWrite addr v => Sys2Proof.Machine.execCxlcConfigWrite addr v s
  | .linkTrained p x => Sys2Proof.Machine.execLinkTrained p x s
  | .dreq p => Sys2Proof.Machine.execDreq p s
  | .drsp p rtt f => Sys2Proof.Machine.execDrsp p rtt f s
  | .tickMarkerReceive p m => Sys2Proof.Machine.execTickMarkerReceive p m s
  | .slewStep => Sys2Proof.Machine.execSlewStep s
  | .tjump => Sys2Proof.Machine.execTjump s
  | .parentLinkLoss => Sys2Proof.Machine.execParentLinkLoss s
  | .syncReceive f => Sys2Proof.Machine.execSyncReceive f s
  | .frameReceive p good f => Sys2Proof.Machine.execFrameReceive p good f s
  | .frameSend p => Sys2Proof.Machine.execFrameSend p s
  | .portQueueDrop p => Sys2Proof.Machine.execPortQueueDrop p s
  | .mgmtRetry => Sys2Proof.Machine.execMgmtRetry s
  | .chainReset f => Sys2Proof.Machine.execChainReset f s
  | .vote f => Sys2Proof.Machine.execVote f s
  | .xdataReceive f => Sys2Proof.Machine.execXdataReceive f s
  | .enumeration units => Sys2Proof.Machine.execEnumeration units s
  | .mapgo => Sys2Proof.Machine.execMapgo s
  | .unitAttach units => Sys2Proof.Machine.execUnitAttach units s
  | .unitDeparture units => Sys2Proof.Machine.execUnitDeparture units s
  | .release => Sys2Proof.Machine.execRelease s
  | .coarseMarkerReceive p off => Sys2Proof.Machine.execCoarseMarkerReceive p off s
  | .chainConfigWrite addr v => Sys2Proof.Machine.execChainConfigWrite addr v s
  | .crystalStable => Sys2Proof.Machine.execCrystalStable s
  | .pllLock => Sys2Proof.Machine.execPllLock s
  | .voltageSettled => Sys2Proof.Machine.execVoltageSettled s
  | .sgateClose b => Sys2Proof.Machine.execSgateClose b s
  | .gateClosed b => Sys2Proof.Machine.execGateClosed b s
  | .sgateOpen b => Sys2Proof.Machine.execSgateOpen b s
  | .gateOpened b => Sys2Proof.Machine.execGateOpened b s
  | .sclrel owner => Sys2Proof.Machine.execSclrel owner s
  | .sleep => Sys2Proof.Machine.execSleep s
  | .sleepEntry => Sys2Proof.Machine.execSleepEntry s
  | .wake src => Sys2Proof.Machine.execWake src s
  | .freeze => Sys2Proof.Machine.execFreeze s
  | .freezeRelease => Sys2Proof.Machine.execFreezeRelease s
  | .extest cells => Sys2Proof.Machine.execExtest cells s
  | .samplePreload cells => Sys2Proof.Machine.execSamplePreload cells s
  | .idcode => Sys2Proof.Machine.execIdcode s
  | .bypass => Sys2Proof.Machine.execBypass s
  | .dbgacc wr idx v => Sys2Proof.Machine.execDbgacc wr idx v s
  | .tbsnap => Sys2Proof.Machine.execTbsnap s
  | .dbgMemoryRead => Sys2Proof.Machine.execDbgMemoryRead s
  | .dbgMemoryWrite => Sys2Proof.Machine.execDbgMemoryWrite s
  | .halt v => Sys2Proof.Machine.execHalt v s
  | .step c => Sys2Proof.Machine.execStep c s
  | .traceSlot => Sys2Proof.Machine.execTraceSlot s
  | .traceItemLost => Sys2Proof.Machine.execTraceItemLost s
  | .dbgmark c v => Sys2Proof.Machine.execDbgmark c v s
  | .dbgmsg v => Sys2Proof.Machine.execDbgmsg v s
  | .powerOnReset => Sys2Proof.Machine.execPowerOnReset s
  | .resetN => Sys2Proof.Machine.execResetN s
  | .sreset v => Sys2Proof.Machine.execSreset v s
  | .pairReset p wd => Sys2Proof.Machine.execPairReset p wd s
  | .boot bad => Sys2Proof.Machine.execBoot bad s
  | .voteSend => Sys2Proof.Machine.execVoteSend s
  | .voteTimeout => Sys2Proof.Machine.execVoteTimeout s
  | .sbconf v => Sys2Proof.Machine.execSbconf v s
  | .gpioEdge n lvl => Sys2Proof.Machine.execGpioEdge n lvl s
  | .tripin n lvl => Sys2Proof.Machine.execTripin n lvl s
  | .gpoutWrite off v => Sys2Proof.Machine.execGpoutWrite off v s
  | .pinmuxConfigWrite addr v => Sys2Proof.Machine.execPinmuxConfigWrite addr v s
  | .powerDown => Sys2Proof.Machine.execPowerDown s
  | .refEdge t j => Sys2Proof.Machine.execRefEdge t j s
  | .windowEventEnd w hi => Sys2Proof.Machine.execWindowEventEnd w hi s
  | .eraseSuspended => Sys2Proof.Machine.execEraseSuspended s
  | .deviceTemperatureHot hot => Sys2Proof.Machine.execDeviceTemperatureHot hot s
  | .l1Exit => Sys2Proof.Machine.execL1Exit s
  | .itomwrGo r good => Sys2Proof.Machine.execItomwrGo r good s
  | .partnerLeavesElectricalIdle p => Sys2Proof.Machine.execPartnerLeavesElectricalIdle p s
  | .mgmtSecondCopy => Sys2Proof.Machine.execMgmtSecondCopy s
  | .frozen => Sys2Proof.Machine.execFrozen s
  | .storeCompletion c => Sys2Proof.Machine.execStoreCompletion c s

end Sys2Proof.Machine
end

