-- ==== Sys2Proof/Safety.lean ====
section
/-! DEFINITION. The terms of the claims: what every step keeps, which commands run on the root clocks, and how a command's
effect and what it leaves alone are said. -/

namespace Sys2Proof.Machine

open Sys2Proof

/-- Each clock stage runs only where the one before it does; a sleeping or frozen unit has its root clocks stopped, and is
not both (R639, R641, R661, R664). -/
def Pwr.Inv (p : Pwr) : Prop :=
  (p.root = true → p.pll = true) ∧ (p.pll = true → p.crystal = true) ∧ (p.asleep = true → p.root = false)
    ∧ (p.frozen = true → p.root = false) ∧ ¬(p.asleep = true ∧ p.frozen = true)

/-- The command completes at `s` with an effect on the device alone: the clock tree and the queue stay, and the new device
has the property. -/
def Does (c : Instr) (s : State) (P : Dev → Prop) : Prop := ∃ e : Dev, exec c s = .next { s with dev := e } ∧ P e

/-- From `d` to `e` no register changes but those listed, and nothing beside registers. -/
def Only (d e : Dev) (l : List Reg) : Prop :=
  e = { d with regs := e.regs } ∧ ∀ r : Reg, r.addr ∉ l.map Reg.addr → rd e r = rd d r

/-- No register but those listed reads otherwise. -/
def RegsStay (d e : Dev) (l : List Reg) : Prop := ∀ r : Reg, r.addr ∉ l.map Reg.addr → rd e r = rd d r

/-- No byte and no tag of memory reads otherwise. -/
def MemStays (d e : Dev) : Prop := ∀ k : Nat, rdByte e k = rdByte d k ∧ rdTag e k = rdTag d k

/-- The entries of a table at the other keys stay. -/
def Others {α : Type} (a b : Tab α) (k : Nat) : Prop := ∀ (j : Nat) (x : α), j ≠ k → look b j x = look a j x

/-- Bit `b` of a word. -/
def bit (b : Nat) : Word := BitVec.twoPow 32 b

/-- The register that holds a source's pending bit (R470). -/
def ipend (src : Nat) : Reg := ICU.IPEND (src / 32)

/-- Flag `b` of a status register is set from `d` to `e`, and its source rises exactly where the flag was 0 and its bit of the
enables is 1. -/
def FlagUp (d e : Dev) (r : Reg) (b ie src : Nat) : Prop :=
  rd e r = rd d r ||| bit b
    ∧ rd e (ipend src) = (if !bitOf d r b && ie.testBit b then rd d (ipend src) ||| bit (src % 32) else rd d (ipend src))

/-- A source rises from `d` to `e`. -/
def Rises (d e : Dev) (src : Nat) : Prop := rd e (ipend src) = rd d (ipend src) ||| bit (src % 32)

/-- The pending copy of a ticked register takes a value, and nothing else changes but the items for a twin partner (R19,
R454). -/
def PendingTo (d e : Dev) (r : Reg) (v : Word) : Prop :=
  rdPend e r = v ∧ (∀ q : Reg, q.addr ≠ r.addr → rdPend e q = rdPend d q)
    ∧ e = { d with pend := e.pend, twin := e.twin, chq := e.chq, chSeq := e.chSeq }

/-- A leg is safe to switch (R156, R175): its outputs are not both active, a side waiting for its dead time has the other
side off, and a low side waiting in LOWON has the high side off, no side waiting and the leg in its safe state. -/
def LegInv (d : Dev) (t j : Nat) : Prop :=
  ¬(legHigh d t j = true ∧ legLow d t j = true)
    ∧ (∀ x, (legGet d t j).wait = some (true, x) → legLow d t j = false)
    ∧ (∀ x, (legGet d t j).wait = some (false, x) → legHigh d t j = false)
    ∧ (∀ x, (legGet d t j).low = some x → legHigh d t j = false ∧ (legGet d t j).wait = none ∧ legSafe d t j = true)

/-! Cores. -/

/-- Core `c` may start an instruction, and its regions let it be fetched (R422, R431). -/
def Ready (d : Dev) (c : Nat) (i : Insn) : Prop :=
  coreFree d c = true
    ∧ mpuBad (blkClear d c) c (privN (blkClear d c) c) 2 (coreGet (blkClear d c) c).pc.toNat (insnLen i) = none

/-- An instruction of core `c` has run from `d` to `e`: the core's own state is `x` but for what a pair and a debugger count,
the listed registers may have changed, and nothing else has; of a PAIRED core one more instruction has retired (R435). -/
def Ran (d e : Dev) (c : Nat) (x : CoreSt) (regs : List Reg) : Prop :=
  (∃ (o : Bool) (g : BitVec 64) (n m : Nat), coreGet e c = { x with one := o, sig := g, since := n, ret := m })
    ∧ Others d.core e.core c ∧ e = { d with regs := e.regs, core := e.core, pair := e.pair }
    ∧ RegsStay d e (DBG.DBGPC c :: regs)
    ∧ (paired d (c / 2) = false → coreGet e c = { x with one := (coreGet e c).one } ∧ e.pair = d.pair)
    ∧ (paired d (c / 2) = true → (coreGet e c).ret = (coreGet d c).ret + 1 ∧ Others d.pair e.pair (c / 2))
    ∧ ((coreGet d c).halt = true → rd e (DBG.DBGPC c) = x.pc ∧ (coreGet e c).one = false)
    ∧ ((coreGet d c).halt = false → rd e (DBG.DBGPC c) = rd d (DBG.DBGPC c) ∧ (coreGet e c).one = (coreGet d c).one)

/-- The operands name places without a change of a slot, and the sources read `xs` without another effect. -/
def Operands (d : Dev) (c : Fin 8) (rs : List Role) (i : Insn) (ls : List Loc) (xs : List Src) : Prop :=
  formAll c 0 (rs.zip i.ops) [] d = (d, .ok (ls, [])) ∧ readAll c [] (pick isSrc rs ls) d = (d, .ok xs)

/-- The sources by operand number. -/
def sources (rs : List Role) (ls : List Loc) (xs : List Src) : List (Nat × Src) := ((pick isSrc rs ls).map (·.1)).zip xs

/-- Destinations that are slots, with their words. -/
def slotDests (rs : List Role) (ls : List Loc) (outs : List TWord) : List (Nat × TWord) :=
  ((pick isDst rs ls).zip outs).filterMap (fun e => match e.1.2 with | .slot s => some (s, e.2) | _ => none)

/-- The frames with words set in the current one. -/
def frameWith (fs : List (Nat × List TWord)) (l : List (Nat × TWord)) : List (Nat × List TWord) :=
  match fs with
  | [] => []
  | f :: t => (f.1, l.foldl (fun w e => w.set e.1 e.2) f.2) :: t

/-- `AFLAGS` after a result (R352, R362, R377). -/
def aflAfter (w : Word) (r : Result) : Word :=
  let w := w ||| w32 (2 ^ 8 * (r.ieee % 32) + if r.sat then 2 ^ 4 else 0)
  match r.rel with | some x => fset CORE.AFLAGS_REL w x | none => w

/-- The data instructions of R351 to R368, each with its shape and its result. -/
def dataOps (c : Fin 8) (i : Insn) : List (Instr × Form × (Dev → List (Nat × Src) → Try Result)) :=
  [(.mov c i, form2 [0], unary (fun a => .ok { t := a })),
   (.add c i, form23 [0, 1, 2], binary (aluAdd i.v.toNat)), (.sub c i, form23 [0, 1, 2], binary (aluSub i.v.toNat)),
   (.mul c i, form23 [0, 1, 2], binary (aluMul i.v.toNat)),
   (.mac c i, { roles := [[.upd, .src, .src]], vs := [0, 1, 2] }, ternary (aluMac i.v.toNat)),
   (.div c i, form23 [0, 1, 2] (some 0), binary (aluDiv i.v.toNat)), (.rem c i, form23 [0] (some 0), binary aluRem),
   (.neg c i, form2 [0, 1, 2], unary (aluNeg i.v.toNat)), (.abs c i, form2 [0, 1, 2], unary (aluAbs i.v.toNat)),
   (.and c i, form23 [0], binary (aluLogic (· &&& ·))), (.or c i, form23 [0], binary (aluLogic (· ||| ·))),
   (.xor c i, form23 [0], binary (aluLogic (· ^^^ ·))), (.not c i, form2 [0], unary aluNot)] ++
  [(.shl c i, form23 [0, 1, 2], shifting (aluShl i.v.toNat)), (.shr c i, form23 [0], shifting aluShr),
   (.sha c i, form23 [0], shifting aluSha), (.rot c i, form23 [0], shifting aluRot),
   (.cmp c i, { roles := [[.src, .src]] }, comparing),
   (.tag c i, { form2 [0] with xs := fun x => 1 ≤ x && x ≤ 10 }, tagging c (tagOf i.x.toNat)),
   (.untag c i, form2 [0], untagging),
   (.tchk c i, { roles := [[.src, .immOnly]], vs := [0, 3] }, tagChecking (i.v.toNat = 3)),
   (.cvt c i, { form2 [0, 1, 2] with xs := fun _ => true }, unary (aluCvt i.v.toNat (tagOf (i.x.toNat % 16)) (i.x.toNat / 16))),
   (.sincos c i, { roles := [[.dst, .dst, .src]], xs := fun x => x < 2, unit := some 2 }, sinCos (i.x.toNat = 1)),
   (.atan2 c i, { roles := [[.dst, .src, .src]], unit := some 2 }, binary (fun y x => aluAtan2 (Config.atanInf y.w x.w) y x))]

/-- A save set holds the state that an entry left, `h` being the handler's privilege (R407). -/
def Saved (d e : Dev) (c set h : Nat) (pc : Word) : Prop :=
  rd e (CORE.SSPC c set) = pc ∧ rd e (CORE.SSST c set) = statusNow d c ∧ rd e (CORE.SSFP c set) = rd d (CORE.FP c)
    ∧ rd e (CORE.SSSP c set) = rd d (CORE.SP c h) ∧ rd e (CORE.SSPRG c set) = w32 (coreGet d c).prog
    ∧ rd e (CORE.SSCP c set) = w32 (priv d c)

/-- The core stands at its handler, in a new frame (R407). -/
def InHandler (d e : Dev) (c h : Nat) (vec : Word) : Prop :=
  (coreGet e c).pc = vec ∧ priv e c = h ∧ gf e (CORE.STATUS c) stBlk = 0 ∧ rd e (CORE.FP c) = w32 (entryFp d c h)
    ∧ (coreGet e c).frames.head? = some (entryFp d c h, List.replicate 64 tVoid)
    ∧ rd e (CORE.SP c h) = (if priv d c = h then rd d (CORE.SP c h) else w32 (entryFp d c h))
    ∧ (coreGet e c).prog = 0 ∧ (coreGet e c).ent = none

/-- The registers of a save set. -/
def setRegs (c set : Nat) : List Reg :=
  [CORE.SSPC c set, CORE.SSST c set, CORE.SSFP c set, CORE.SSSP c set, CORE.SSPRG c set, CORE.SSCP c set]

/-- Exception `k` can be taken: no double fault (R410). -/
def CanEnter (d : Dev) (c k : Nat) : Prop :=
  inFault d c = false ∧ vecVoid d (CORE.FVEC c k) = false
    ∧ mpuBad d c (gf d (CORE.HPRIV c) CORE.HPRIV_FPRIV) 1 (entryFp d c (gf d (CORE.HPRIV c) CORE.HPRIV_FPRIV)) 256 = none

/-- Exception `k` has been taken from `d` with its cause, operand, fault address and saved PC (R407, R414, R416). -/
def Excepted (d e : Dev) (c k code opnd faddr : Nat) (pc : Word) : Prop :=
  Saved d e c 0 (gf d (CORE.HPRIV c) CORE.HPRIV_FPRIV) pc
    ∧ InHandler d e c (gf d (CORE.HPRIV c) CORE.HPRIV_FPRIV) (rd d (CORE.FVEC c k))
    ∧ rd e (CORE.FCAUSE c) = w32 (k * 2 ^ 24 + code % 256 * 2 ^ 16 + opnd % 256 * 2 ^ 8)
    ∧ rd e (CORE.FADDR c) = w32 faddr ∧ inFault e c = true ∧ Others d.core e.core c
    ∧ ((coreGet d c).frames.length < 4 → MemStays d e ∧ RegsStay d e (setRegs c 0 ++
        [CORE.STATUS c, CORE.FP c, CORE.SP c (gf d (CORE.HPRIV c) CORE.HPRIV_FPRIV), CORE.FCAUSE c, CORE.FADDR c, DBG.DBGPC c]))

/-! Pairs. -/

/-- Both cores of pair `p` have taken the divergence exception from `d` to `e`, in the leader's state, with its cause and the
signatures reported (R444 to R446). -/
def Diverged (d e : Dev) (p cause : Nat) (ls fs : BitVec 64) : Prop :=
  gf e (PAIRC.PSTAT p) PAIRC.PSTAT_DCAUSE = cause ∧ gf e (PAIRC.PSTAT p) PAIRC.PSTAT_OQFILL = 0 ∧ bitOf e (PAIRC.PSTAT p) 0 = true
    ∧ gf e (PAIRC.PERR p) PAIRC.PERR_DIV = min (gf d (PAIRC.PERR p) PAIRC.PERR_DIV + 1) (ftop PAIRC.PERR_DIV)
    ∧ rd e (PAIRC.PDLSHI p) ++ rd e (PAIRC.PDLSLO p) = ls ∧ rd e (PAIRC.PDFSHI p) ++ rd e (PAIRC.PDFSLO p) = fs
    ∧ (pairGet e p).log = [] ∧ (pairGet e p).oq = [] ∧ (pairGet e p).lw = [] ∧ (pairGet e p).fw = []
    ∧ ∀ k : Nat, k < 2 → (coreGet e (2 * p + k)).pc = rd d (CORE.FVEC (2 * p) 14)
        ∧ rd e (CORE.SSPC (2 * p + k) 0) = (coreGet d (2 * p)).pc ∧ rd e (CORE.FCAUSE (2 * p + k)) = 0x0E000000
        ∧ inFault e (2 * p + k) = true

/-- Pair `p` has been reset with a cause: both cores stand at the pair's entry at Monitor level with `IE` 0, or stay in reset
where it has none; memory stays (R683). -/
def PairIsReset (d e : Dev) (p cause : Nat) : Prop :=
  pairGet e p = { entry := (pairGet d p).entry }
    ∧ (∀ k : Nat, k < 2 → coreGet e (2 * p + k) =
          { pc := ((pairGet d p).entry).getD 0, rst := ((pairGet d p).entry).isNone, halt := (coreGet d (2 * p + k)).halt }
        ∧ rd e (CORE.STATUS (2 * p + k)) = 0 ∧ rd e (CORE.FP (2 * p + k)) = 0)
    ∧ gf e SYSCFG.RSTPAIR ⟨2 * p + 1, 2 * p⟩ = cause
    ∧ gf e SYSCFG.RSTCNT SYSCFG.RSTCNT_PAIRS = min (gf d SYSCFG.RSTCNT SYSCFG.RSTCNT_PAIRS + 1) (ftop SYSCFG.RSTCNT_PAIRS)
    ∧ MemStays d e

/-! Host rings. -/

/-- The descriptor `x` of ring `r` has completed from `d` to `e`, with nothing else changed: its index moves on and its
completion waits, unless it is suppressed (R578, R579). -/
def Completed (d e : Dev) (r : Nat) (x : Desc) (st det : Nat) (body : List Word) (cm : Option Nat) : Prop :=
  rd e (HOST.RIDX r) = rd d (HOST.RIDX r) + 1 ∧ (ringGet e r).desc = none ∧ RegsStay d e [HOST.RIDX r]
    ∧ e.evHold = (if (dByte x 0x3E).testBit 0 && decide (st < 2) then d.evHold else
        d.evHold ++ [{ typ := 0x81, tag := dHalf x 2, status := st, detail := det, ring := r, body := body, cmask := cm,
                       idx := rd d (HOST.RIDX r) + 1 }])
    ∧ e = { d with regs := e.regs, evHold := e.evHold, hostSt := e.hostSt }

/-- Ring `r` has stopped with an error (R593). -/
def RingStopped (d e : Dev) (r err : Nat) : Prop :=
  rd e (HOST.RSTAT r) = w32 err ∧ bitOf e HOST.HSTAT (16 + r) = true
    ∧ FlagUp d e CXLC.CXSTAT 3 (gf d CXLC.CXSEL CXLC.CXSEL_IE) 224
    ∧ RegsStay d e [HOST.RSTAT r, HOST.HSTAT, CXLC.CXSTAT, ipend 224]

/-- The host side has been reset with a cause: every ring is off with nothing on its way, a descriptor in hand gives no
completion, no completion waits, and RESET_DONE will report it (R588 to R590). -/
def HostIsReset (d e : Dev) (cause : Nat) : Prop :=
  gf e CXLC.HRCAUSE CXLC.HRCAUSE_CAUSE = cause
    ∧ gf e CXLC.HRCAUSE CXLC.HRCAUSE_CNT = min (gf d CXLC.HRCAUSE CXLC.HRCAUSE_CNT + 1) (ftop CXLC.HRCAUSE_CNT)
    ∧ (∀ r : Nat, r < 12 → (ringGet e r).fly = [] ∧ (ringGet e r).next = 0 ∧ ((ringGet e r).desc = none ∨ (ringGet e r).orphan = true)
      ∧ rd e (HOST.RCFG r) = 0x800000 ∧ rd e (HOST.RIDX r) = 0)
    ∧ e.hostSt.line = [] ∧ e.hostSt.pba = 0 ∧ (∀ q ∈ e.evHold, q.typ ≠ 0x81)
    ∧ (∃ n : Nat, e.hostSt.rstDone = some (cause, n, d.tickno.toNat)) ∧ bitOf e CXLC.CXSTAT 2 = true ∧ MemStays d e

/-! The chain. -/

/-- The HEAD unit has enumerated the units from `d` to `e`, with the saved map: it is pip 0, aligned, runs the lowest version,
and its table holds each unit at the pip that R624 and R625 give it. -/
def Enumerated (d e : Dev) (l : List UnitInfo) (h : UnitInfo) (map : List (Nat × Nat)) : Prop :=
  gf e CHAIN.CHSTAT CHAIN.CHSTAT_ENUM = 2 ∧ gf e CHAIN.CHSTAT CHAIN.CHSTAT_ALN = 1 ∧ bitOf e CHAIN.CHSTAT 2 = true
    ∧ hasPip e = true ∧ ownPip e = 0 ∧ e.chain.wait = none ∧ MemStays d e
    ∧ gf e CHAIN.CHVER CHAIN.CHVER_RMIN =
        l.foldl (fun m u => min m u.vmin.toNat) (gf d CHAIN.CHVER CHAIN.CHVER_MIN)
    ∧ ∀ pips : List (Nat × UnitInfo),
        pips = coldPips l map (chainNumbers l map (chainOrder l (l.length + 1) [h.chain] []) true []) →
        (pips.map (·.1)).Nodup →
        ∀ x ∈ pips, rd e (CHAIN.CHTOPO x.1) = topoWord l x.2 ∧ find e.chain.serial x.1 = some x.2.serial.toNat

end Sys2Proof.Machine
end

