-- ==== Sys2Proof/Certificates/Slice0/Obligations.lean ====
section
/-! DEFINITION. The statements for the provers. -/

open Sys2Proof Sys2Proof.Machine

/-- For every command and state, the step of the state with that command at the front of its queue is the command's own
effect on the state with the queue's rest. (95_what_each_step_holds.md, 00_scope.md) -/
def Obligations.StepRunsFrontCommand : Prop :=
  ∀ (c : Instr) (l : List Instr) (s : State), step { s with pending := c :: l } = exec c { s with pending := l }

/-- A step on an empty queue answers the same state. This is the model's choice, named in log entry 3: the spec gives the
block no event of its own there, and every event is a command. (95_what_each_step_holds.md) -/
def Obligations.EmptyQueueIdles : Prop :=
  ∀ s : State, s.pending = [] → step s = .next s

/-- On every state every command answers a next state, whose queue is the one it started with: no command ends in a fault or
a refusal. (95_what_each_step_holds.md, 00_scope.md) -/
def Obligations.EveryCommandCompletes : Prop :=
  ∀ (c : Instr) (s : State), ∃ t : State, exec c s = .next t ∧ t.pending = s.pending

/-- Every command but CRYSTAL_STABLE, PLL_LOCK, SLEEP_ENTRY, WAKE, FROZEN, FREEZE_RELEASE, POWER_ON_RESET, RESET_N,
POWER_DOWN and a debugger's write of DBGCTL by DBGACC while frozen leaves the crystal, the PLL, the root clocks, sleep and
freeze as they were. (R639, R641, R661, R662, R664, R666, R681, R725, R726) -/
def Obligations.OnlyClockCommandsMoveClocks : Prop :=
  ∀ (c : Instr) (s t : State), exec c s = .next t →
    (c = .crystalStable ∨ c = .pllLock ∨ c = .sleepEntry ∨ (∃ x, c = .wake x) ∨ c = .frozen ∨ c = .freezeRelease
      ∨ c = .powerOnReset ∨ c = .resetN ∨ c = .powerDown ∨ (s.pwr.frozen = true ∧ ∃ v, c = .dbgacc true 1 v)) ∨ t.pwr = s.pwr

/-- If the root clocks run only on the PLL, the PLL only on the crystal, a sleeping or a frozen unit has its root clocks
stopped and is not both, then the same holds after every step. (R639, R641, R661, R664, R725) -/
def Obligations.ClockTreeInvariantKept : Prop :=
  ∀ s t : State, s.pwr.Inv → step s = .next t → t.pwr.Inv

/-- The state after a power-on reset has the crystal, the PLL and the root clocks off, and so meets the invariant of the
clock tree; its queue is empty and its memory lists nothing. (R639, R641) -/
def Obligations.ResetMeetsClockInvariant : Prop :=
  State.reset.pwr.Inv ∧ State.reset.pwr.crystal = false ∧ State.reset.pending = [] ∧ State.reset.dev.mem = []

/-- With the root clocks running, a tick adds one to the tick number, latches the time base of its cycle 0 into TICKTS and
sets the pending bit of interrupt source 0. Where the time base does not stand still for a jump and the phase is inside the
period, cycle 0 lies at the first FABRIC edge at or after the end of the period: fewer than one FABRIC cycle later, on a
count that the FABRIC divisor divides. A Husk tick, with the crystal running and a sleeping or frozen unit's root clocks
stopped, adds exactly 15,360 counts to the time base and as many ticks as periods end in them, and keeps the phase of the
rest. (R35, R36, R39, R467) -/
def Obligations.TickAdvancesNumberAndRaisesSource : Prop :=
  (∀ s : State, s.pwr.root = true →
    Does .tick s (fun e =>
      e.tickno = s.dev.tickno + 1 ∧ e.tickts = (toTick s.dev).tb ∧ bitOf e (ICU.IPEND 0) 0 = true)) ∧
  (∀ d : Dev, d.tbHold = 0 → d.tphase ≤ gf d TICK.TICKPER TICK.TICKPER_PER →
    ∃ n : Nat, (toTick d).tb = d.tb + BitVec.ofNat 64 n
      ∧ gf d TICK.TICKPER TICK.TICKPER_PER - d.tphase ≤ n
      ∧ n < gf d TICK.TICKPER TICK.TICKPER_PER - d.tphase + fabDiv d
      ∧ (toTick d).tb.toNat % fabDiv d = 0) ∧
  (∀ s : State, s.pwr.crystal = true → s.pwr.root = false → s.dev.off = false → (s.pwr.asleep = true ∨ s.pwr.frozen = true) →
    Does .huskTick s (fun e =>
      e.tb = s.dev.tb + 15360
        ∧ e.tickno = s.dev.tickno + BitVec.ofNat 48 ((s.dev.tphase + 15360) / gf s.dev TICK.TICKPER TICK.TICKPER_PER)
        ∧ e.tphase = (s.dev.tphase + 15360) % gf s.dev TICK.TICKPER TICK.TICKPER_PER))

/-- SNAP puts the low and the high word of the time base, as it stood at the last FABRIC edge, into TBSLO and TBSHI and
changes nothing else. A write of a period from 1,200 to 6,000,000 to TICKPER goes to its pending copy alone; a period
outside that range leaves every pending copy and sets PERR alone. (R27, R30, R34) -/
def Obligations.SnapCopiesTimeBase : Prop :=
  (∀ s : State, s.pwr.root = true →
    Does .snap s (fun e =>
      (rd e TICK.TBSHI).toNat * 2 ^ 32 + (rd e TICK.TBSLO).toNat
            = s.dev.tb.toNat - s.dev.tb.toNat % fabDiv s.dev
        ∧ Only s.dev e [TICK.TBSLO, TICK.TBSHI])) ∧
  (∀ (s : State) (v : Word), s.pwr.root = true →
    1200 ≤ fget TICK.TICKPER_PER v → fget TICK.TICKPER_PER v ≤ 6000000 →
    Does (.tickperWrite v) s (fun e => PendingTo s.dev e TICK.TICKPER (BitVec.ofNat 32 (fget TICK.TICKPER_PER v)))) ∧
  (∀ (s : State) (v : Word), s.pwr.root = true →
    fget TICK.TICKPER_PER v < 1200 ∨ 6000000 < fget TICK.TICKPER_PER v →
    Does (.tickperWrite v) s (fun e => rd e TICK.TSTAT = rd s.dev TICK.TSTAT ||| bit 0 ∧ Only s.dev e [TICK.TSTAT]))

/-- For a group 1 to 15 of a unit that is not an ACTIVE twin member: a write of 1 to the EN bit of CGCTL of an unarmed
group, a write of its bit to CMARM and a write of CGTGT to an armed group arm it for the target; a target already at or past
sets the group's late bit, counts LATECNT up to its limit and raises LATEARM, and arms only where LATEMODE is 0. A write of
CGTGT to an unarmed group only loads the target, and a write of 0 to EN disarms. (R41, R42, R43, R44, R45, R54) -/
def Obligations.ArmingInTimeAndLate : Prop :=
  (∀ (s : State) (g : Fin 16) (v : Word), s.pwr.root = true → g ≠ 0 → gf s.dev PAIRC.TWSTAT PAIRC.TWSTAT_STATE ≠ 4 →
    bitOf s.dev (TICK.CGCTL g) 0 = true → atOrPast (tnoLow s.dev) v = false →
    Does (.cgtgtWrite g v) s (fun e =>
      rd e (TICK.CGTGT g) = v ∧ bitOf e (TICK.CGCTL g) 0 = true ∧ Only s.dev e [TICK.CGTGT g, TICK.CGCTL g])) ∧
  (∀ (s : State) (g : Fin 16) (v : Word), s.pwr.root = true → g ≠ 0 → bitOf s.dev (TICK.CGCTL g) 0 = false →
    Does (.cgtgtWrite g v) s (fun e => rd e (TICK.CGTGT g) = v ∧ Only s.dev e [TICK.CGTGT g])) ∧
  (∀ (s : State) (g : Fin 16) (v : Word), s.pwr.root = true → g ≠ 0 → gf s.dev PAIRC.TWSTAT PAIRC.TWSTAT_STATE ≠ 4 →
    bitOf s.dev (TICK.CGCTL g) 0 = false → v.getLsbD 0 = true →
    atOrPast (tnoLow s.dev) (rd s.dev (TICK.CGTGT g)) = false →
    Does (.cgctlWrite g v) s (fun e =>
      bitOf e (TICK.CGCTL g) 0 = true
        ∧ gf e (TICK.CGCTL g) TICK.CGCTL_LATEMODE = fget TICK.CGCTL_LATEMODE v ∧ Only s.dev e [TICK.CGTGT g, TICK.CGCTL g])) ∧
  (∀ (s : State) (g : Fin 16) (v : Word), s.pwr.root = true → g ≠ 0 → v.getLsbD 0 = false →
    Does (.cgctlWrite g v) s (fun e => bitOf e (TICK.CGCTL g) 0 = false ∧ Only s.dev e [TICK.CGCTL g])) ∧
  (∀ (s : State) (g : Fin 16), s.pwr.root = true → g ≠ 0 → gf s.dev PAIRC.TWSTAT PAIRC.TWSTAT_STATE ≠ 4 →
    atOrPast (tnoLow s.dev) (rd s.dev TICK.CMTGT) = true →
    Does (.cmarm (bit g)) s (fun e =>
      bitOf e TICK.LATESTAT g = true
        ∧ gf e TICK.LATECNT TICK.LATECNT_CNT = min (gf s.dev TICK.LATECNT TICK.LATECNT_CNT + 1) (ftop TICK.LATECNT_CNT)
        ∧ bitOf e (ICU.IPEND 0) 3 = true
        ∧ (gf s.dev (TICK.CGCTL g) TICK.CGCTL_LATEMODE = 0 →
            bitOf e (TICK.CGCTL g) 0 = true ∧ rd e (TICK.CGTGT g) = rd s.dev TICK.CMTGT)
        ∧ (gf s.dev (TICK.CGCTL g) TICK.CGCTL_LATEMODE ≠ 0 →
            rd e (TICK.CGCTL g) = rd s.dev (TICK.CGCTL g) ∧ rd e (TICK.CGTGT g) = rd s.dev (TICK.CGTGT g))))

/-- A write to TBCMPk stores the value and arms compare k. An armed compare fires at the first FABRIC edge after its arming
at which the low word of the time base is at or past its value: at no edge between was it at or past; a time base that
stands counts on first, and an edge that has passed is caught up at once. Firing sets flag k of TBCSTAT, raises source 4 + k
and disarms the compare; nothing else but the time changes. (R27, R54, R55, R57, R58) -/
def Obligations.CompareFiresAtFirstAtOrPast : Prop :=
  (∀ (s : State) (k : Fin 4) (v : Word), s.pwr.root = true →
    Does (.tbcmpWrite k v) s (fun e =>
      rd e (TICK.TBCMP k) = v ∧ look e.tbArm k none = some s.dev.now ∧ Others s.dev.tbArm e.tbArm k
        ∧ Only { s.dev with tbArm := e.tbArm } e [TICK.TBCMP k])) ∧
  (∀ (s : State) (k : Fin 4) (a b : Nat), s.pwr.root = true → look s.dev.tbArm k none = some a →
    b = tbAt (advance s.dev s.dev.tbHold) a →
    Does (.tbcmpFire k) s (fun e => ∃ n : Nat,
      0 < n ∧ e.now = max (s.dev.now + s.dev.tbHold) (a + n) ∧ (b + n) % fabDiv s.dev = 0
        ∧ atOrPast (BitVec.ofNat 32 (b + n)) (rd s.dev (TICK.TBCMP k)) = true
        ∧ (∀ m : Nat, 0 < m → m < n → (b + m) % fabDiv s.dev = 0 →
            atOrPast (BitVec.ofNat 32 (b + m)) (rd s.dev (TICK.TBCMP k)) = false)
        ∧ rd e TICK.TBCSTAT = rd s.dev TICK.TBCSTAT ||| bit k ∧ Rises s.dev e (4 + k)
        ∧ look e.tbArm k none = none ∧ Others s.dev.tbArm e.tbArm k
        ∧ Only { advanceTo s.dev e.now with tbArm := e.tbArm } e [TICK.TBCSTAT, ICU.IPEND 0]))

/-- With the block's gate open: a write to GCNT loads the counter, from where a FREE channel counts once every two time-base
counts times the prescaler; a write to GCMP stores the value and arms the compare, and in ONESHOT mode starts the counter
from 0. A write to GCFG goes to the pending copy; a reserved capture source is refused and sets the channel's error flag
alone. (R61, R65, R67, R735, R741) -/
def Obligations.TimerWritesTakeEffect : Prop :=
  (∀ (s : State) (n : Fin 32) (v : Word), s.pwr.root = true → gateOpen s.dev 0 = true →
    Does (.gcntWrite n v) s (fun e =>
      gptCount { e with now := edgeAt s.dev 2 s.dev.now } n = v.toNat ∧ Others s.dev.gpt e.gpt n ∧ e = { s.dev with gpt := e.gpt }
        ∧ (gptMode s.dev n = 1 → ∀ j : Nat,
            gptCount { e with now := edgeAt s.dev 2 s.dev.now + j * gptStep s.dev n } n = (v.toNat + j) % 2 ^ 32))) ∧
  (∀ (s : State) (n : Fin 32) (v : Word), s.pwr.root = true → gateOpen s.dev 0 = true →
    Does (.gcmpWrite n v) s (fun e =>
      rd e (GPT.GCMP n) = v ∧ (look e.gpt n {}).armed = true
        ∧ (gptMode s.dev n = 3 → gptCount { e with now := edgeAt s.dev 2 s.dev.now } n = 0 ∧ (look e.gpt n {}).run = true)
        ∧ Others s.dev.gpt e.gpt n ∧ Only { s.dev with gpt := e.gpt } e [GPT.GCMP n])) ∧
  (∀ (s : State) (n : Fin 32) (v : Word), s.pwr.root = true → gateOpen s.dev 0 = true → capselReserved v = false →
    Does (.gcfgWrite n v) s (fun e => PendingTo s.dev e (GPT.GCFG n) (v &&& 0xFFFF03))) ∧
  (∀ (s : State) (n : Fin 32) (v : Word), s.pwr.root = true → gateOpen s.dev 0 = true → capselReserved v = true →
    Does (.gcfgWrite n v) s (fun e =>
      FlagUp s.dev e (GPT.GSTAT n) 4 (gf s.dev (GPT.GSEL n) GPT.GSEL_IE) (16 + n)
        ∧ Only s.dev e [GPT.GSTAT n, ipend (16 + n)]))

/-- An armed compare of a counting channel fires at the first count evaluated after its arming that is at or past its value:
CMPF is set with its source and the compare is disarmed, and a ONESHOT channel has stopped at that count. A FREE channel
wraps to 0 and sets WRAPF; a PERIODIC one returns to 0 and arms its compare again. A capture stores the count just before
the PERIPH edge and sets CAPF, or the overcapture flag where CAPF was set already. The channel's counter apart, nothing but
the time and the named registers changes. (R54, R61, R64, R66, R67, R741) -/
def Obligations.TimerEventsFire : Prop :=
  (∀ (s : State) (n : Fin 32) (i : Nat) (g : GptSt), s.pwr.root = true → gateOpen s.dev 0 = true → look s.dev.gpt n {} = g →
    g.armed = true → gptCounting s.dev n = true → g.ev < g.t0 + i * gptStep s.dev n →
    (gptMode s.dev n = 2 → g.base + i ≤ gptRld s.dev n) →
    atOrPast (BitVec.ofNat 32 (g.base + i)) (rd s.dev (GPT.GCMP n)) = true →
    (∀ k : Nat, k < i → g.ev < g.t0 + k * gptStep s.dev n →
      atOrPast (BitVec.ofNat 32 (g.base + k)) (rd s.dev (GPT.GCMP n)) = false) →
    Does (.gptCompareFire n) s (fun e =>
      FlagUp s.dev e (GPT.GSTAT n) 0 (gf s.dev (GPT.GSEL n) GPT.GSEL_IE) (16 + n)
        ∧ (look e.gpt n {}).armed = false ∧ e.now = max s.dev.now (g.t0 + i * gptStep s.dev n)
        ∧ (gptMode s.dev n = 3 → (look e.gpt n {}).run = false ∧ gptCount e n = (g.base + i) % 2 ^ 32)
        ∧ Others s.dev.gpt e.gpt n
        ∧ Only { advanceTo s.dev e.now with gpt := e.gpt } e [GPT.GSTAT n, ipend (16 + n)])) ∧
  (∀ (s : State) (n : Fin 32), s.pwr.root = true → gateOpen s.dev 0 = true → gptMode s.dev n = 1 →
    Does (.gptWrap n) s (fun e =>
      e.now = max s.dev.now (gptDue s.dev n (2 ^ 32 - (look s.dev.gpt n {}).base))
        ∧ (e.now < gptDue s.dev n (2 ^ 32 - (look s.dev.gpt n {}).base) + gptStep s.dev n → gptCount e n = 0)
        ∧ FlagUp s.dev e (GPT.GSTAT n) 3 (gf s.dev (GPT.GSEL n) GPT.GSEL_IE) (16 + n)
        ∧ Others s.dev.gpt e.gpt n
        ∧ Only { advanceTo s.dev e.now with gpt := e.gpt } e [GPT.GSTAT n, ipend (16 + n)])) ∧
  (∀ (s : State) (n : Fin 32), s.pwr.root = true → gateOpen s.dev 0 = true → gptMode s.dev n = 2 →
    Does (.gptPeriodEnd n) s (fun e =>
      e.now = max s.dev.now (gptDue s.dev n (gptToReturn s.dev n))
        ∧ (e.now < gptDue s.dev n (gptToReturn s.dev n) + gptStep s.dev n → gptCount e n = 0)
        ∧ (look e.gpt n {}).armed = true ∧ Others s.dev.gpt e.gpt n
        ∧ e = { advanceTo s.dev e.now with gpt := e.gpt })) ∧
  (∀ (s : State) (n : Fin 32) (dt : Nat), s.pwr.root = true → gateOpen s.dev 0 = true →
    gf s.dev (GPT.GCFG n) GPT.GCFG_CAPSEL ≠ 0 →
    Does (.gptCapture n dt) s (fun e =>
      rd e (GPT.GCAP n) = BitVec.ofNat 32 (gptBefore (advance s.dev dt) n)
        ∧ FlagUp s.dev e (GPT.GSTAT n) (if bitOf s.dev (GPT.GSTAT n) 1 then 2 else 1) (gf s.dev (GPT.GSEL n) GPT.GSEL_IE) (16 + n)
        ∧ Only (advance s.dev dt) e [GPT.GCAP n, GPT.GSTAT n, ipend (16 + n)]))

/-- At the end of STARTING a reference buffer is RUNNING and its READY bit is 1; 20 µs after the commit that chose it an
external reference is READY; at the end of STOPPING a buffer is OFF, or STARTING again for 200 µs where REFCTL asks for the
internal reference once more. Only REFSTAT changes among the registers, and in it only the fields of that buffer. (R76, R79,
R80) -/
def Obligations.ReferencesStartAndStop : Prop :=
  (∀ (s : State) (k : Fin 4), s.pwr.root = true → refState s.dev k = 1 →
    Does (.referenceReady k) s (fun e =>
      refState e k = 2 ∧ bitOf e REF.REFSTAT (8 + k) = true
        ∧ (∀ j : Fin 4, j ≠ k → refState e j = refState s.dev j ∧ bitOf e REF.REFSTAT (8 + j) = bitOf s.dev REF.REFSTAT (8 + j))
        ∧ Others s.dev.ref e.ref k
        ∧ Only { advanceTo s.dev (refGet s.dev k).due with ref := e.ref } e [REF.REFSTAT])) ∧
  (∀ (s : State) (k : Fin 4) (t : Nat), s.pwr.root = true → (refGet s.dev k).ext = some t →
    Does (.externalReferenceReady k) s (fun e =>
      rd e REF.REFSTAT = rd s.dev REF.REFSTAT ||| bit (8 + k) ∧ (refGet e k).ext = none ∧ Others s.dev.ref e.ref k
        ∧ Only { advanceTo s.dev t with ref := e.ref } e [REF.REFSTAT])) ∧
  (∀ (s : State) (k : Fin 4), s.pwr.root = true → refState s.dev k = 3 →
    Does (.referenceStopDone k) s (fun e =>
      (refEn (rd s.dev REF.REFCTL) k = true → refExt (rd s.dev REF.REFCTL) k = false →
          refState e k = 1 ∧ (refGet e k).due = e.now + 120000)
        ∧ (refEn (rd s.dev REF.REFCTL) k = false ∨ refExt (rd s.dev REF.REFCTL) k = true → refState e k = 0)
        ∧ (∀ j : Fin 4, j ≠ k → refState e j = refState s.dev j)
        ∧ Others s.dev.ref e.ref k
        ∧ Only { advanceTo s.dev (refGet s.dev k).due with ref := e.ref } e [REF.REFSTAT]))

/-- A STARTING converter becomes RUNNING no earlier than its starting time has passed, and its first monitoring pass starts
there; a STOPPING one becomes OFF with no sample in flight, or STARTING where EN is 1. ACAL.START on a RUNNING converter
with empty sequences and no calibration under way begins a calibration of 24,000 counts with its busy bit set; otherwise it
sets the converter's flag 7 alone. The end of a calibration clears the busy bit and writes the six trims of the converter
and no register else. (R100, R101, R102, R103, R104, R105, R107) -/
def Obligations.ConvertersStartStopCalibrate : Prop :=
  (∀ (s : State) (n : Fin 8), s.pwr.root = true → adcState s.dev n = 1 →
    Does (.adcStartDone n) s (fun e =>
      adcState e n = 2 ∧ (adcGet e n).pass = e.now ∧ (adcGet s.dev n).due ≤ e.now ∧ Others s.dev.adc e.adc n
        ∧ Only { advanceTo s.dev e.now with adc := e.adc, free := e.free } e
            (ADC.ASTAT n :: (List.range 6).map (ADC.CALG n)))) ∧
  (∀ (s : State) (n : Fin 8), s.pwr.root = true → adcState s.dev n = 3 →
    Does (.adcStopDone n) s (fun e =>
      (adcGet e n).fl = [] ∧ (adcGet e n).ctl = []
        ∧ (gf s.dev (ADC.ACTL n) ADC.ACTL_EN = 1 → adcState e n = 1)
        ∧ (gf s.dev (ADC.ACTL n) ADC.ACTL_EN ≠ 1 → adcState e n = 0)
        ∧ Others s.dev.adc e.adc n
        ∧ Only { advanceTo s.dev (adcGet s.dev n).due with adc := e.adc } e [ADC.ASTAT n])) ∧
  (∀ (s : State) (n : Fin 8), s.pwr.root = true → gateOpen s.dev (1 + n) = true → adcState s.dev n = 2 →
    gf s.dev (ADC.ACSEQ n) ADC.ACSEQ_LEN = 0 → gf s.dev (ADC.AMSEQ n) ADC.AMSEQ_LEN = 0 → (adcGet s.dev n).cal = none →
    Does (.adcCalStart n) s (fun e =>
      rd e (ADC.ASTAT n) = rd s.dev (ADC.ASTAT n) ||| bit 10 ∧ (adcGet e n).cal = some (s.dev.now + 24000)
        ∧ Others s.dev.adc e.adc n ∧ Only { s.dev with adc := e.adc } e [ADC.ASTAT n])) ∧
  (∀ (s : State) (n : Fin 8), s.pwr.root = true → gateOpen s.dev (1 + n) = true →
    (adcState s.dev n ≠ 2 ∨ gf s.dev (ADC.ACSEQ n) ADC.ACSEQ_LEN ≠ 0 ∨ gf s.dev (ADC.AMSEQ n) ADC.AMSEQ_LEN ≠ 0
      ∨ (adcGet s.dev n).cal ≠ none) →
    Does (.adcCalStart n) s (fun e =>
      FlagUp s.dev e (ADC.ASTAT n) 7 (gf s.dev (ADC.ASEL n) ADC.ASEL_IE) (48 + n)
        ∧ Only s.dev e [ADC.ASTAT n, ipend (48 + n)])) ∧
  (∀ (s : State) (n : Fin 8) (t : Nat), s.pwr.root = true → (adcGet s.dev n).cal = some t →
    Does (.adcCalDone n) s (fun e =>
      bitOf e (ADC.ASTAT n) 10 = false ∧ (adcGet e n).cal = none ∧ Others s.dev.adc e.adc n
        ∧ Only { advanceTo s.dev t with adc := e.adc, free := e.free } e (ADC.ASTAT n :: (List.range 6).map (ADC.CALG n))))

/-- On a RUNNING converter with a control sequence, the selected event, or ASWT.TRIG where software is the source, puts one
sample for each entry of the sequence in flight behind those there, with the entry's word, where no earlier control sequence
is still at work; where one is, the trigger is counted in ADROP and flagged, and no sample joins. A monitoring pass counts
APASS up and puts the next pass one sequence length later. (R82, R83, R84, R87, R88, R90) -/
def Obligations.TriggersStartSequences : Prop :=
  (∀ (s : State) (n : Fin 8) (dt : Nat), s.pwr.root = true → adcState s.dev n = 2 →
    gf s.dev (ADC.ACSEQ n) ADC.ACSEQ_LEN ≠ 0 → gf s.dev (ADC.ATRIG n) ADC.ATRIG_TSEL ≠ 0 →
    gf s.dev (ADC.ATRIG n) ADC.ATRIG_TSEL ≠ 2 → (∀ r ∈ (adcGet s.dev n).ctl, r.2 ≤ s.dev.now + dt) →
    Does (.adcTrigger n dt) s (fun e =>
      ((adcGet e n).fl.drop (adcGet s.dev n).fl.length).map Smp.ent
          = (List.range (gf s.dev (ADC.ACSEQ n) ADC.ACSEQ_LEN)).map (fun i => rd s.dev (ADC.CENT n i))
        ∧ Others s.dev.adc e.adc n ∧ e = { advanceTo (advance s.dev dt) e.now with adc := e.adc })) ∧
  (∀ (s : State) (n : Fin 8) (dt : Nat), s.pwr.root = true → adcState s.dev n = 2 →
    gf s.dev (ADC.ACSEQ n) ADC.ACSEQ_LEN ≠ 0 → gf s.dev (ADC.ATRIG n) ADC.ATRIG_TSEL ≠ 0 →
    gf s.dev (ADC.ATRIG n) ADC.ATRIG_TSEL ≠ 2 → (∃ r ∈ (adcGet s.dev n).ctl, s.dev.now + dt + 1 < r.2) →
    Does (.adcTrigger n dt) s (fun e =>
      FlagUp s.dev e (ADC.ASTAT n) 1 (gf s.dev (ADC.ASEL n) ADC.ASEL_IE) (48 + n)
        ∧ gf e (ADC.ADROP n) ADC.ADROP_CNT = min (gf s.dev (ADC.ADROP n) ADC.ADROP_CNT + 1) (ftop ADC.ADROP_CNT)
        ∧ Only (advanceTo (advance s.dev dt) e.now) e [ADC.ADROP n, ADC.ASTAT n, ipend (48 + n)])) ∧
  (∀ (s : State) (n : Fin 8), s.pwr.root = true → gateOpen s.dev (1 + n) = true → adcState s.dev n = 2 →
    gf s.dev (ADC.ACSEQ n) ADC.ACSEQ_LEN ≠ 0 → gf s.dev (ADC.ATRIG n) ADC.ATRIG_TSEL = 2 → (adcGet s.dev n).ctl = [] →
    Does (.aswtTrig n) s (fun e =>
      ((adcGet e n).fl.drop (adcGet s.dev n).fl.length).map Smp.ent
          = (List.range (gf s.dev (ADC.ACSEQ n) ADC.ACSEQ_LEN)).map (fun i => rd s.dev (ADC.CENT n i))
        ∧ (adcGet e n).ctl.length = 1 ∧ Others s.dev.adc e.adc n
        ∧ e = { advanceTo (advance s.dev 1) e.now with adc := e.adc })) ∧
  (∀ (s : State) (n : Fin 8), s.pwr.root = true → adcState s.dev n = 2 → gf s.dev (ADC.AMSEQ n) ADC.AMSEQ_LEN ≠ 0 →
    Does (.monitoringPassStart n) s (fun e =>
      rd e (ADC.APASS n) = rd s.dev (ADC.APASS n) + 1
        ∧ (adcGet e n).pass = (adcGet s.dev n).pass + 6 * monLen s.dev n
        ∧ (adcGet e n).fl.length = (adcGet s.dev n).fl.length + gf s.dev (ADC.AMSEQ n) ADC.AMSEQ_LEN
        ∧ Others s.dev.adc e.adc n
        ∧ ((adcGet s.dev n).len = monLen s.dev n →
            Only { advanceTo s.dev (adcGet s.dev n).pass with adc := e.adc } e [ADC.APASS n])))

/-- The oldest sample in flight of an entry leaves the pipeline 72 counts after its instant, and the others stay in flight.
An abandoned one only counts and flags a patch; any other, where its entry has the RES route, puts its trimmed code, shifted
to FIX, into its result register, which then reads VOID exactly where the sample was made VOID or its reference was not
ready. Memory stays as it was. (R70, R75, R91, R94, R107) -/
def Obligations.ResultsReachTheirRegisters : Prop :=
  (∀ (s : State) (n : Fin 8) (mon : Bool) (i : Fin 16) (nv : Int) (m : Smp) (rest : List Smp), s.pwr.root = true →
    takeSmp mon i (adcGet s.dev n).fl = some (m, rest) → m.pat = true →
    Does (.adcResult n mon i nv) s (fun e =>
      (adcGet e n).fl = rest ∧ e.now = max s.dev.now (m.inst + 72)
        ∧ FlagUp s.dev e (ADC.ASTAT n) 2 (gf s.dev (ADC.ASEL n) ADC.ASEL_IE) (48 + n)
        ∧ gf e (ADC.APATCH n) ADC.APATCH_CNT = min (gf s.dev (ADC.APATCH n) ADC.APATCH_CNT + 1) (ftop ADC.APATCH_CNT)
        ∧ Others s.dev.adc e.adc n ∧ MemStays s.dev e
        ∧ RegsStay s.dev e [ADC.APATCH n, ADC.ASTAT n, ipend (48 + n)])) ∧
  (∀ (s : State) (n : Fin 8) (mon : Bool) (i : Fin 16) (nv : Int) (m : Smp) (rest : List Smp), s.pwr.root = true →
    takeSmp mon i (adcGet s.dev n).fl = some (m, rest) → m.pat = false → fget ADC.CENT_RES m.ent = 1 →
    m.mon = mon → m.i = i →
    Does (.adcResult n mon i nv) s (fun e =>
      (adcGet e n).fl = rest ∧ e.now = max s.dev.now (m.inst + 72)
        ∧ rd e (if mon then ADC.MRES n i else ADC.CRES n i)
            = ofInt (trimCode (rawCode (adcInput s.dev n m.ent nv) (fget ADC.CENT_GAIN m.ent))
                (rd s.dev (ADC.CALG n (fget ADC.CENT_GAIN m.ent))) * 65536)
        ∧ look e.tags (if mon then ADC.MRES n i else ADC.CRES n i).addr false = !(m.void || !refReadyAt s.dev (n / 2) m.inst)
        ∧ Others s.dev.adc e.adc n ∧ MemStays s.dev e))

/-- With the block's gate open, a write at the address of a ticked register of a converter sets its pending copy alone, cut
to its bits, and a forbidden value changes nothing but the converter's error flag; a write of REFCTL sets its pending copy.
(R20, R72, R93, R106) -/
def Obligations.ConverterConfigurationIsPending : Prop :=
  (∀ (s : State) (n : Fin 8) (o : Nat) (v : Word) (r : Reg) (m : Word), s.pwr.root = true → gateOpen s.dev (1 + n) = true →
    o < 0x1000 → adcTicked n (tickedOff o) v = some (r, m, false) →
    Does (.adcConfigWrite (0x40100000 + 0x1000 * n + o) v) s (fun e => PendingTo s.dev e r (v &&& m))) ∧
  (∀ (s : State) (n : Fin 8) (o : Nat) (v : Word) (r : Reg) (m : Word), s.pwr.root = true → gateOpen s.dev (1 + n) = true →
    o < 0x1000 → adcTicked n (tickedOff o) v = some (r, m, true) →
    Does (.adcConfigWrite (0x40100000 + 0x1000 * n + o) v) s (fun e =>
      FlagUp s.dev e (ADC.ASTAT n) 6 (gf s.dev (ADC.ASEL n) ADC.ASEL_IE) (48 + n)
        ∧ Only s.dev e [ADC.ASTAT n, ipend (48 + n)])) ∧
  (∀ (s : State) (v : Word), s.pwr.root = true → gateOpen s.dev 9 = true →
    Does (.adcConfigWrite 0x40108000 v) s (fun e => PendingTo s.dev e REF.REFCTL (v &&& 0xFF)))

/-- On a RUNNING interface in quadrature mode, in free counting, with no flag chosen as a feedback fault, a change of one
level in the forward order 00, 10, 11, 01 adds one to the position, and one in the reverse order takes one away; INV swaps
the two. A change of both levels at once is counted in FERRA and flagged and leaves the position. Either way the levels are
stored and memory stays. (R110, R112, R113, R114, R127, R128) -/
def Obligations.QuadratureCountsOneStepPerEdge : Prop :=
  (∀ (s : State) (f : Fin 24) (a b : Bool) (dt : Nat) (u : Int), s.pwr.root = true → fbState s.dev f = 2 → fbMode s.dev f = 0 →
    gf s.dev (FB.FCFG f) FB.FCFG_CMODE = 0 → rd s.dev (FB.FSUP f) &&& 0x1FFF = 0 →
    ((fbA s.dev f, fbB s.dev f, a, b) ∈ [(false, false, true, false), (true, false, true, true), (true, true, false, true),
        (false, true, false, false)] ∧ u = (if fbInv s.dev f then -1 else 1)
      ∨ (a, b, fbA s.dev f, fbB s.dev f) ∈ [(false, false, true, false), (true, false, true, true), (true, true, false, true),
        (false, true, false, false)] ∧ u = (if fbInv s.dev f then 1 else -1)) →
    Does (.fbEdge f a b (fbZ s.dev f) dt) s (fun e =>
      rd e (FB.FPOS f) = rd s.dev (FB.FPOS f) + ofInt u ∧ fbA e f = a ∧ fbB e f = b
        ∧ bitOf e (FB.FSTAT f) 29 = decide (u < 0) ∧ MemStays s.dev e)) ∧
  (∀ (s : State) (f : Fin 24) (dt : Nat), s.pwr.root = true → fbState s.dev f = 2 → fbMode s.dev f = 0 →
    rd s.dev (FB.FSUP f) &&& 0x1FFF = 0 →
    Does (.fbEdge f (!fbA s.dev f) (!fbB s.dev f) (fbZ s.dev f) dt) s (fun e =>
      rd e (FB.FPOS f) = rd s.dev (FB.FPOS f) ∧ bitOf e (FB.FSTAT f) 0 = true
        ∧ gf e (FB.FERRA f) FB.FERRA_INV = min (gf s.dev (FB.FERRA f) FB.FERRA_INV + 1) (ftop FB.FERRA_INV)
        ∧ fbA e f = !fbA s.dev f ∧ fbB e f = !fbB s.dev f ∧ MemStays s.dev e))

/-- With the block's gate open: a write to FCMPk stores the value and arms that compare alone; a write to FPOS stores the
position, in the sine and cosine modes with its lower bits taken from the levels; FCMD.IARM arms the index. A RUNNING
interface whose standstill limit of ticks has passed without a counting edge reports standstill and speed 0. A write to a
ticked register sets its pending copy alone. (R128, R129, R135, R139, R146) -/
def Obligations.FeedbackWritesAndStandstill : Prop :=
  (∀ (s : State) (f : Fin 24) (k : Fin 4) (v : Word), s.pwr.root = true → gateOpen s.dev 12 = true →
    Does (.fcmpWrite f k v) s (fun e =>
      rd e (FB.FCMP f k) = v ∧ rd e (FB.FCMPSTAT f) = rd s.dev (FB.FCMPSTAT f) ||| bit (4 + k)
        ∧ Others s.dev.fb e.fb f ∧ Only { s.dev with fb := e.fb } e [FB.FCMP f k, FB.FCMPSTAT f])) ∧
  (∀ (s : State) (f : Fin 24) (v : Word), s.pwr.root = true → gateOpen s.dev 12 = true →
    Does (.fposWrite f v) s (fun e =>
      (fbSc s.dev f = false → rd e (FB.FPOS f) = v)
        ∧ (fbSc s.dev f = true → (rd e (FB.FPOS f)).toNat / 2 ^ 12 = v.toNat / 2 ^ 12 ∧ (rd e (FB.FPOS f)).toNat % 1024 = 0)
        ∧ Others s.dev.fb e.fb f ∧ Only { s.dev with fb := e.fb } e [FB.FPOS f])) ∧
  (∀ (s : State) (f : Fin 24), s.pwr.root = true → gateOpen s.dev 12 = true →
    Does (.iarm f) s (fun e => rd e (FB.FCMD f) = rd s.dev (FB.FCMD f) ||| bit 1 ∧ Only s.dev e [FB.FCMD f])) ∧
  (∀ (s : State) (f : Fin 24), s.pwr.root = true → fbState s.dev f = 2 → gf s.dev (FB.FSUP f) FB.FSUP_STO ≠ 0 →
    gf s.dev (FB.FSUP f) FB.FSUP_STO ≤ (fbGet s.dev f).quiet →
    Does (.standstill f) s (fun e =>
      fbSpd e f = 0 ∧ rd e (FB.FSTAT f) = rd s.dev (FB.FSTAT f) ||| bit 27 ∧ (fbGet e f).hist = []
        ∧ Others s.dev.fb e.fb f ∧ Only { s.dev with fb := e.fb } e [FB.FSPD f, FB.FSTAT f])) ∧
  (∀ (s : State) (f : Fin 24) (o : Nat) (v : Word) (r : Reg) (m : Word), s.pwr.root = true → gateOpen s.dev 12 = true →
    o < 0x400 → fbTicked f o v = some (r, m, false) →
    Does (.fbConfigWrite (0x40130000 + 0x400 * f + o) v) s (fun e => PendingTo s.dev e r (v &&& m)))

/-- On an enabled SSI interface, with no flag chosen as a feedback fault, a trigger of the selected source, or FCMD.SWT
where software is the source, starts a reading where none is under way and A is high; one that comes during a reading or its
wait is counted and flagged and starts none. The reading's last bit puts the decoded value, cut to its length, into FSSID
and begins the wait, and where A stays high it is discarded with an error instead; the wait ends with the interface free for
the next trigger. (R121, R122) -/
def Obligations.SsiReadings : Prop :=
  (∀ (s : State) (f : Fin 24), s.pwr.root = true → fbMode s.dev f = 5 → fbState s.dev f = 1 ∨ fbState s.dev f = 2 →
    gf s.dev (FB.FSSI f) FB.FSSI_TSEL ≠ 0 → gf s.dev (FB.FSSI f) FB.FSSI_TSEL ≠ 2 → (fbGet s.dev f).ssi = 0 →
    Does (.ssiTrigger f true) s (fun e =>
      (fbGet e f).ssi = 1 ∧ (fbGet e f).ssiT = e.now
        ∧ (fbGet e f).ssiDue
            = e.now + (gf s.dev (FB.FSSI f) FB.FSSI_LEN + 1) * (4 * (gf s.dev (FB.FSSI f) FB.FSSI_DIV + 1))
        ∧ Others s.dev.fb e.fb f ∧ e = { advanceTo s.dev e.now with fb := e.fb })) ∧
  (∀ (s : State) (f : Fin 24) (h : Bool), s.pwr.root = true → fbMode s.dev f = 5 →
    fbState s.dev f = 1 ∨ fbState s.dev f = 2 → gf s.dev (FB.FSSI f) FB.FSSI_TSEL ≠ 0 →
    gf s.dev (FB.FSSI f) FB.FSSI_TSEL ≠ 2 → (fbGet s.dev f).ssi ≠ 0 → rd s.dev (FB.FSUP f) &&& 0x1FFF = 0 →
    Does (.ssiTrigger f h) s (fun e =>
      FlagUp s.dev e (FB.FSTAT f) 10 (gf s.dev (FB.FSEL f) FB.FSEL_IE) (64 + f)
        ∧ gf e (FB.FERRC f) FB.FERRC_DROP = min (gf s.dev (FB.FERRC f) FB.FERRC_DROP + 1) (ftop FB.FERRC_DROP)
        ∧ Only s.dev e [FB.FSTAT f, FB.FERRC f, ipend (64 + f)])) ∧
  (∀ (s : State) (f : Fin 24), s.pwr.root = true → gateOpen s.dev 12 = true → fbMode s.dev f = 5 →
    fbState s.dev f = 1 ∨ fbState s.dev f = 2 → gf s.dev (FB.FSSI f) FB.FSSI_TSEL = 2 → (fbGet s.dev f).ssi = 0 →
    Does (.swt f true) s (fun e =>
      (fbGet e f).ssi = 1 ∧ s.dev.now < e.now ∧ Others s.dev.fb e.fb f
        ∧ e = { advanceTo (advance s.dev 1) e.now with fb := e.fb })) ∧
  (∀ (s : State) (f : Fin 24) (raw : Word), s.pwr.root = true → (fbGet s.dev f).ssi = 1 → fbState s.dev f = 2 →
    rd s.dev (FB.FSUP f) &&& 0x1FFF = 0 → gf s.dev (FB.FSSI f) FB.FSSI_GRAY = 0 →
    Does (.ssiReadingDone f raw false) s (fun e =>
      (rd e (FB.FSSID f)).toNat = raw.toNat % 2 ^ gf s.dev (FB.FSSI f) FB.FSSI_LEN ∧ (fbGet e f).ssi = 2 ∧ MemStays s.dev e)) ∧
  (∀ (s : State) (f : Fin 24) (raw : Word), s.pwr.root = true → (fbGet s.dev f).ssi = 1 →
    rd s.dev (FB.FSUP f) &&& 0x1FFF = 0 →
    Does (.ssiReadingDone f raw true) s (fun e =>
      FlagUp s.dev e (FB.FSTAT f) 5 (gf s.dev (FB.FSEL f) FB.FSEL_IE) (64 + f) ∧ (fbGet e f).ssi = 2
        ∧ Only { advanceTo s.dev (fbGet s.dev f).ssiDue with fb := e.fb } e [FB.FSTAT f, FB.FERRB f, ipend (64 + f)])) ∧
  (∀ (s : State) (f : Fin 24), s.pwr.root = true → (fbGet s.dev f).ssi = 2 →
    Does (.ssiMonoEnd f) s (fun e =>
      (fbGet e f).ssi = 0 ∧ Others s.dev.fb e.fb f ∧ e = { advanceTo s.dev (fbGet s.dev f).ssiDue with fb := e.fb }))

/-- A STARTING interface that needs no sample, or has its first, becomes RUNNING with speed 0, an empty edge history and its
standstill bit as it was, after its starting time. A STOPPING one with its items handed over and no reading under way
becomes OFF, its claims other than pins released, or STARTING where EN is 1. A new sine and cosine pair of which a half is
VOID sets the interface's flag 11 and leaves the position registers; one whose amplitude lies inside the limits, whose fine
angle lies at most 1,024 behind the counted position, and that at most 4 edges overtook, sets FSPOS to the fine position.
(R125, R131, R133, R144) -/
def Obligations.FeedbackStartsAndStops : Prop :=
  (∀ (s : State) (f : Fin 24), s.pwr.root = true → fbState s.dev f = 1 →
    ((fbGet s.dev f).got = true ∨ (fbSc s.dev f = false ∧ fbMode s.dev f ≠ 5)) →
    Does (.fbStartDone f) s (fun e =>
      fbState e f = 2 ∧ fbSpd e f = 0 ∧ bitOf e (FB.FSTAT f) 27 = bitOf s.dev (FB.FSTAT f) 27 ∧ (fbGet e f).hist = []
        ∧ Others s.dev.fb e.fb f
        ∧ Only { advanceTo s.dev (fbGet s.dev f).due with fb := e.fb } e [FB.FSTAT f, FB.FSPD f, FB.FANG f])) ∧
  (∀ (s : State) (f : Fin 24), s.pwr.root = true → fbState s.dev f = 3 → (fbGet s.dev f).items = [] →
    (fbGet s.dev f).ssi ≠ 1 → gf s.dev (FB.FCTL f) FB.FCTL_EN = 0 →
    Does (.fbStopDone f) s (fun e =>
      fbState e f = 0 ∧ (∀ c ∈ e.claims, c.owner = ownFb f → c.res < 0x1000) ∧ Others s.dev.fb e.fb f
        ∧ Only { s.dev with fb := e.fb, claims := e.claims } e [FB.FSTAT f])) ∧
  (∀ (s : State) (f : Fin 24), s.pwr.root = true → fbState s.dev f = 3 → (fbGet s.dev f).items = [] →
    (fbGet s.dev f).ssi ≠ 1 → gf s.dev (FB.FCTL f) FB.FCTL_EN = 1 →
    Does (.fbStopDone f) s (fun e =>
      fbState e f = 1 ∧ Others s.dev.fb e.fb f ∧ Only { s.dev with fb := e.fb } e [FB.FSTAT f, FB.FPOS f])) ∧
  (∀ (s : State) (f : Fin 24) (a b : ResSt), s.pwr.root = true → fbSc s.dev f = true → fbState s.dev f = 2 →
    fbHalf s.dev f FB.FSC_SCONV FB.FSC_SSEQ FB.FSC_SENT = some a →
    fbHalf s.dev f FB.FSC_CCONV FB.FSC_CSEQ FB.FSC_CENT = some b → (fbGet s.dev f).pair ≠ some (a.inst, b.inst) →
    max a.inst b.inst - min a.inst b.inst ≤ 96 → (a.void || b.void) = true → rd s.dev (FB.FSUP f) &&& 0x1FFF = 0 →
    Does (.sincosPair f) s (fun e =>
      FlagUp s.dev e (FB.FSTAT f) 11 (gf s.dev (FB.FSEL f) FB.FSEL_IE) (64 + f) ∧ Others s.dev.fb e.fb f
        ∧ Only { advanceTo s.dev e.now with fb := e.fb } e [FB.FSTAT f, ipend (64 + f)])) ∧
  (∀ (s : State) (f : Fin 24) (a b : ResSt) (S C delta : Int) (pos : Nat), s.pwr.root = true → fbSc s.dev f = true →
    fbState s.dev f = 2 → fbHalf s.dev f FB.FSC_SCONV FB.FSC_SSEQ FB.FSC_SENT = some a →
    fbHalf s.dev f FB.FSC_CCONV FB.FSC_CSEQ FB.FSC_CENT = some b → (fbGet s.dev f).pair ≠ some (a.inst, b.inst) →
    max a.inst b.inst - min a.inst b.inst ≤ 96 → a.void = false → b.void = false → rd s.dev (FB.FSUP f) &&& 0x1FFF = 0 →
    S = fbSigned s.dev f (sint a.w / 65536 - fgetS FB.FSCOFS_SOFS (rd s.dev (FB.FSCOFS f))) →
    C = sint b.w / 65536 - fgetS FB.FSCOFS_COFS (rd s.dev (FB.FSCOFS f)) →
    pos = (fbPosAt s.dev f (max a.inst b.inst)).toNat →
    delta = (((fineAngle s.dev S C).1 : Int) - 1024 * ((pos / 1024 % 4 : Nat) : Int) + 2048) % 4096 - 2048 →
    -1024 ≤ delta → (32768 * gf s.dev (FB.FSC f) FB.FSC_AMIN : Int) ^ 2 ≤ (S * S + C * C) * 65536 →
    (S * S + C * C) * 65536 ≤ (32768 * gf s.dev (FB.FSC f) FB.FSC_AMAX : Int) ^ 2 →
    ((fbGet s.dev f).log.filter (fun e => e.2.2 && decide (max a.inst b.inst < e.1))).length ≤ 4 →
    Does (.sincosPair f) s (fun e => rd e (FB.FSPOS f) = ofInt ((pos / 1024 * 1024 : Nat) + delta) ∧ MemStays s.dev e))

/-- A running triad's counter returns to 0 at its period start, with its flag set and the up slope shown; where the update
point is the period start and the shadows are not locked, every leg then works with the duty of its LDUTY. At the stop point
of a STOPPING triad every output is inactive and the counter stands. An up-down counter reaches its top at the centre with
its flag and the down slope. A STARTING triad becomes RUNNING with its counter at PHASE, and a stopped one becomes OFF, its
claims other than pins released, or STARTING where EN is 1. (R152, R153, R162, R165, R168, R173, R174) -/
def Obligations.TriadCountsAndUpdates : Prop :=
  (∀ (s : State) (t : Fin 16) (k : Nat), s.pwr.root = true → (triGet s.dev t).run = true → triToStart s.dev t = some k →
    triState s.dev t ≠ 3 →
    Does (.periodStart t) s (fun e =>
      triCount e t = 0 ∧ (triGet e t).run = true ∧ bitOf e (TRIAD.TSTAT t) 0 = true ∧ bitOf e (TRIAD.TSTAT t) 29 = false
        ∧ (fget TRIAD.TCFG_UPD (triGet s.dev t).cfg = 0 → triLocked s.dev t = false →
            ∀ j : Fin 3, (legGet e t j).op = (rd s.dev (TRIAD.LDUTY t j)).toNat)
        ∧ MemStays s.dev e)) ∧
  (∀ (s : State) (t : Fin 16) (k : Nat), s.pwr.root = true → (triGet s.dev t).run = true → triToStart s.dev t = some k →
    triState s.dev t = 3 →
    Does (.periodStart t) s (fun e =>
      (triGet e t).run = false ∧ (∀ j : Fin 3, legHigh e t j = false ∧ legLow e t j = false)
        ∧ (triGet e t).due = e.now + 128 ∧ Others s.dev.tri e.tri t
        ∧ Only { advanceTo s.dev e.now with tri := e.tri, leg := e.leg } e
            [TRIAD.LSTAT t 0, TRIAD.LSTAT t 1, TRIAD.LSTAT t 2])) ∧
  (∀ (s : State) (t : Fin 16) (k : Nat), s.pwr.root = true → (triGet s.dev t).run = true → triToCentre s.dev t = some k →
    s.dev.now ≤ (triGet s.dev t).t0 + k * triClk s.dev t →
    Does (.centre t) s (fun e =>
      triCount e t = (triGet s.dev t).top ∧ bitOf e (TRIAD.TSTAT t) 1 = true ∧ bitOf e (TRIAD.TSTAT t) 29 = true
        ∧ Others s.dev.tri e.tri t ∧ MemStays s.dev e)) ∧
  (∀ (s : State) (t : Fin 16), s.pwr.root = true → triState s.dev t = 1 →
    Does (.triadStartDone t) s (fun e =>
      triState e t = 2 ∧ (triGet e t).run = true ∧ triCount e t = gf s.dev (TRIAD.TPHS t) TRIAD.TPHS_PHASE
        ∧ (triGet s.dev t).due ≤ e.now ∧ Others s.dev.tri e.tri t ∧ MemStays s.dev e)) ∧
  (∀ (s : State) (t : Fin 16), s.pwr.root = true → triState s.dev t = 3 → (triGet s.dev t).run = false →
    Does (.triadStopDone t) s (fun e =>
      (gf s.dev (TRIAD.TCTL t) TRIAD.TCTL_EN = 1 → triState e t = 1 ∧ e.claims = s.dev.claims)
        ∧ (gf s.dev (TRIAD.TCTL t) TRIAD.TCTL_EN ≠ 1 →
            triState e t = 0 ∧ ∀ c ∈ e.claims, c.owner = ownTriad t → c.res < 0x1000)
        ∧ Others s.dev.tri e.tri t
        ∧ Only { advanceTo s.dev (triGet s.dev t).due with tri := e.tri, claims := e.claims } e [TRIAD.TSTAT t]))

/-- Say a leg is safe to switch where its two outputs are not both active, a side that waits for its dead time has the other
side off, and a low side that waits in LOWON has the high side off, no side waiting and the leg in its safe state. Then the
edges of REF, the end of a dead time and the turn-on in LOWON of that leg each complete and keep this; the end of a dead
time turns on exactly the side that waited, and the turn-on in LOWON the low side, where no standby twin holds the outputs.
(R156, R157, R161, R175) -/
def Obligations.LegsNeverShootThrough : Prop :=
  ∀ (s : State) (t : Fin 16) (j : Fin 3), s.pwr.root = true → LegInv s.dev t j →
    Does (.refEdge t j) s (fun e => LegInv e t j ∧ MemStays s.dev e
      ∧ ((triGet s.dev t).run = true → refEdgeAt s.dev t j ≠ none → (legGet e t j).ref = !(legGet s.dev t j).ref)) ∧
    Does (.deadTimeEnd t j) s (fun e => LegInv e t j
      ∧ ∀ (h : Bool) (x : Nat), (legGet s.dev t j).wait = some (h, x) → twinHold s.dev = false →
          rd e (TRIAD.LSTAT t j) = rd s.dev (TRIAD.LSTAT t j) ||| bit (if h then 1 else 0) ∧ (legGet e t j).wait = none
            ∧ Only { advanceTo s.dev ((x + 31) / 32) with leg := e.leg } e [TRIAD.LSTAT t j]) ∧
    Does (.lowonTurnOn t j) s (fun e => LegInv e t j
      ∧ ∀ x : Nat, (legGet s.dev t j).low = some x → twinHold s.dev = false →
          rd e (TRIAD.LSTAT t j) = rd s.dev (TRIAD.LSTAT t j) ||| bit 0 ∧ (legGet e t j).low = none
            ∧ Only { advanceTo s.dev ((x + 31) / 32) with leg := e.leg } e [TRIAD.LSTAT t j])

/-- An asserted trip line brings every leg that selects it into its safe state with the trip cause. TCMD.SAFE brings all
three legs of its triad there with the software cause; TCMD.RELEASE withdraws that cause and leaves every leg in its safe
state until a period start. RSWT adds its bits to the software latches of the lines and nothing else. A write to LDUTY
stores the duty, and outside the IMMEDIATE update mode nothing else. (R175, R178, R179, R188, R189, R190) -/
def Obligations.SafeStatesAreEntered : Prop :=
  (∀ (s : State) (k : Fin 8), s.pwr.root = true → tripLine s.dev k = true →
    Does (.tripLineAssert k) s (fun e =>
      (∀ (t : Fin 16) (j : Fin 3), (gf s.dev (TRIAD.LCFG t j) TRIAD.LCFG_TRIPM).testBit k = true →
          legSafe e t j = true ∧ bitOf e (TRIAD.LSTAT t j) 4 = true) ∧ MemStays s.dev e)) ∧
  (∀ (s : State) (t : Fin 16), s.pwr.root = true → gateOpen s.dev 11 = true →
    Does (.tcmdSafe t) s (fun e =>
      (∀ j : Fin 3, legSafe e t j = true ∧ bitOf e (TRIAD.LSTAT t j) 6 = true) ∧ MemStays s.dev e
        ∧ RegsStay s.dev e [TRIAD.TCMD t, TRIAD.LSTAT t 0, TRIAD.LSTAT t 1, TRIAD.LSTAT t 2, TRIAD.TSTAT t, TRIAD.TERR t,
            ipend (96 + t)])) ∧
  (∀ (s : State) (t : Fin 16), s.pwr.root = true → gateOpen s.dev 11 = true →
    Does (.tcmdRelease t) s (fun e =>
      (∀ j : Fin 3, bitOf e (TRIAD.LSTAT t j) 6 = false ∧ legSafe e t j = legSafe s.dev t j)
        ∧ Only s.dev e [TRIAD.TCMD t, TRIAD.LSTAT t 0, TRIAD.LSTAT t 1, TRIAD.LSTAT t 2])) ∧
  (∀ (s : State) (v : Word), s.pwr.root = true → gateOpen s.dev 10 = true →
    Does (.rswt v) s (fun e =>
      (∀ k : Fin 8, bitOf e RIND.RILAT (8 + k) = (bitOf s.dev RIND.RILAT (8 + k) || v.getLsbD k))
        ∧ (∀ k : Fin 8, bitOf e RIND.RILAT k = bitOf s.dev RIND.RILAT k) ∧ Only s.dev e [RIND.RILAT])) ∧
  (∀ (s : State) (t : Fin 16) (j : Fin 3) (v : Word), s.pwr.root = true → gateOpen s.dev 11 = true →
    Does (.lDutyWrite t j v) s (fun e =>
      (rd e (TRIAD.LDUTY t j)).toNat = v.toNat % 2 ^ 22 ∧ MemStays s.dev e
        ∧ (fget TRIAD.TCFG_UPD (triGet s.dev t).cfg ≠ 4 → Only s.dev e [TRIAD.LDUTY t j]))) ∧
  (∀ (s : State) (t : Fin 16) (o : Nat) (v : Word) (r : Reg) (m : Word), s.pwr.root = true → gateOpen s.dev 11 = true →
    o < 0x400 → triTicked s.dev t o v = some (r, m, false) →
    Does (.triadConfigWrite (0x40120000 + 0x400 * t + o) v) s (fun e => PendingTo s.dev e r (v &&& m)))

/-- An enabled side of a RUNNING window that rises sets its event and its latch, counts up and sets WINF; when it falls its
event ends and its latch stays. A write to WSTAT of a window with CLR 0 clears the latches written as 1 whose event is not
active, and no other. A window becomes RUNNING at the end of STARTING, and OFF, or STARTING where EN is 1, at the end of
STOPPING; the settling hold of its filter ends by its own event. A TRIP broadcast of another unit adds the lines that RIMAP
gives its code to the import latches, and stores code and pip. (R183, R184, R185, R186, R187, R193, R199) -/
def Obligations.WindowsLatchAndClear : Prop :=
  (∀ (s : State) (w : Fin 48) (hi : Bool), s.pwr.root = true → winState s.dev w = 2 →
    gf s.dev (RIND.WCFG w) (if hi then RIND.WCFG_HIEN else RIND.WCFG_LOEN) = 1 →
    bitOf s.dev (RIND.WSTAT w) (if hi then 1 else 0) = false →
    Does (.windowEvent w hi) s (fun e =>
      rd e (RIND.WSTAT w) = rd s.dev (RIND.WSTAT w) ||| bit (if hi then 1 else 0) ||| bit (if hi then 3 else 2)
        ∧ gf e (RIND.WCNT w) (if hi then RIND.WCNT_HI else RIND.WCNT_LO)
            = min (gf s.dev (RIND.WCNT w) (if hi then RIND.WCNT_HI else RIND.WCNT_LO) + 1)
                (ftop (if hi then RIND.WCNT_HI else RIND.WCNT_LO))
        ∧ bitOf e RIND.RSTAT 0 = true
        ∧ Only { advanceTo s.dev e.now with win := e.win } e [RIND.WSTAT w, RIND.WCNT w, RIND.RSTAT, ipend 56])) ∧
  (∀ (s : State) (w : Fin 48) (hi : Bool), s.pwr.root = true →
    Does (.windowEventEnd w hi) s (fun e =>
      bitOf e (RIND.WSTAT w) (if hi then 1 else 0) = false
        ∧ bitOf e (RIND.WSTAT w) (if hi then 3 else 2) = bitOf s.dev (RIND.WSTAT w) (if hi then 3 else 2)
        ∧ MemStays s.dev e)) ∧
  (∀ (s : State) (w : Fin 48) (v : Word), s.pwr.root = true → gateOpen s.dev 10 = true →
    gf s.dev (RIND.WCFG w) RIND.WCFG_CLR = 0 →
    Does (.windowLatchClear w v) s (fun e =>
      bitOf e (RIND.WSTAT w) 3
          = (bitOf s.dev (RIND.WSTAT w) 3 && !(v.getLsbD 3 && !bitOf s.dev (RIND.WSTAT w) 1))
        ∧ bitOf e (RIND.WSTAT w) 2
          = (bitOf s.dev (RIND.WSTAT w) 2 && !(v.getLsbD 2 && !bitOf s.dev (RIND.WSTAT w) 0))
        ∧ (∀ u : Fin 48, u ≠ w → rd e (RIND.WSTAT u) = rd s.dev (RIND.WSTAT u)) ∧ MemStays s.dev e)) ∧
  (∀ (s : State) (w : Fin 48), s.pwr.root = true → winState s.dev w = 1 →
    Does (.windowStartDone w) s (fun e =>
      winState e w = 2 ∧ Only (advanceTo s.dev (winGet s.dev w).due) e [RIND.WSTAT w])) ∧
  (∀ (s : State) (w : Fin 48), s.pwr.root = true → winState s.dev w = 3 →
    Does (.windowStopDone w) s (fun e =>
      winState e w = (if gf s.dev (RIND.WCFG w) RIND.WCFG_EN = 1 then 1 else 0) ∧ Others s.dev.win e.win w
        ∧ Only { advanceTo s.dev (winGet s.dev w).due with win := e.win } e [RIND.WSTAT w])) ∧
  (∀ (s : State) (w : Fin 48) (t : Nat), s.pwr.root = true → (winGet s.dev w).hold = some t →
    Does (.windowDacSettled w) s (fun e =>
      (winGet e w).hold = none ∧ Others s.dev.win e.win w ∧ e = { advanceTo s.dev t with win := e.win })) ∧
  (∀ (s : State) (code : BitVec 3) (pip : BitVec 9) (k : Fin 8), s.pwr.root = true → pip.toNat ≠ ownPip s.dev →
    Does (.tripImport code pip) s (fun e =>
      bitOf e RIND.RILAT k
          = (bitOf s.dev RIND.RILAT k
              || bitOf s.dev (if code.toNat < 4 then RIND.RIMAP0 else RIND.RIMAP1) (8 * (code.toNat % 4) + k))
        ∧ gf e RIND.RLAST RIND.RLAST_CODE = code.toNat ∧ gf e RIND.RLAST RIND.RLAST_PIP = pip.toNat
        ∧ Only s.dev e [RIND.RILAT, RIND.RLAST, RIND.RCNT, RIND.RSTAT, ipend 56])) ∧
  (∀ (s : State) (o : Nat) (v : Word) (r : Reg) (m : Word), s.pwr.root = true → gateOpen s.dev 10 = true →
    o < 0x800 → rindTicked o v = some (r, m, false) →
    Does (.rindConfigWrite (0x40110000 + o) v) s (fun e => PendingTo s.dev e r (v &&& m)))

/-- When the Park stage of a set ends, the engine shows the set's instant and spread. With DRIVE and the hook enabled it
then counts the hook sequence up, shows the hook as open and raises its hook source; with the hook off it goes on to the
shadow write at 64 FABRIC cycles. A GO with the open hook's sequence number before the deadline releases it, with the
override values exactly where its override bit is 1; a GO with nothing to release only counts and flags HKLATE; at the
deadline the hook is released without override, counted and flagged. (R225, R226, R227, R228, R742) -/
def Obligations.LoopEngineHook : Prop :=
  (∀ (s : State) (n : Fin 16) (x : LeSet), s.pwr.root = true → (leGet s.dev n).comp = some x → x.stage = 0 →
    fget LE.LCTL_DRIVE (x.reg (LE.LCTL n)) = 1 →
    Does (.leHookPoint n) s (fun e =>
      rd e (LE.LTS n) = x.ts ∧ rd e (LE.LSKEW n) = BitVec.ofNat 32 x.skew
        ∧ e.now = max s.dev.now (x.t0 + 27 * fabDiv s.dev)
        ∧ (fget LE.LHOOK_HKEN (x.reg (LE.LHOOK n)) = 1 →
            gf e (LE.LHSEQ n) LE.LHSEQ_SEQ = (gf s.dev (LE.LHSEQ n) LE.LHSEQ_SEQ + 1) % 2 ^ 16
              ∧ bitOf e (LE.LHSEQ n) 16 = true ∧ bitOf e (LE.LSTAT n) 25 = true
              ∧ bitOf e (ipend (128 + n)) ((128 + n) % 32) = true ∧ (leGet e n).comp.map LeSet.stage = some 1)
        ∧ (fget LE.LHOOK_HKEN (x.reg (LE.LHOOK n)) = 0 →
            (leGet e n).comp.map (fun y => (y.stage, y.due)) = some (2, x.t0 + 64 * fabDiv s.dev))
        ∧ Others s.dev.le e.le n ∧ MemStays s.dev e)) ∧
  (∀ (s : State) (n : Fin 16) (x : LeSet) (v : Word), s.pwr.root = true → gateOpen s.dev 13 = true →
    (leGet s.dev n).comp = some x → x.stage = 1 → s.dev.now ≤ leDeadline s.dev n x → v.getLsbD 0 = true →
    fget LE.LHCMD_SEQ v = gf s.dev (LE.LHSEQ n) LE.LHSEQ_SEQ →
    Does (.go n v) s (fun e =>
      (leGet e n).comp.map (fun y => (y.stage, y.duties))
          = some (2, if v.getLsbD 1 then some (rd s.dev (LE.LHOD n), rd s.dev (LE.LHOQ n)) else none)
        ∧ bitOf e (LE.LHSEQ n) 16 = false ∧ bitOf e (LE.LSTAT n) 25 = false ∧ Others s.dev.le e.le n
        ∧ Only { s.dev with le := e.le } e [LE.LHCMD n, LE.LHSEQ n, LE.LSTAT n])) ∧
  (∀ (s : State) (n : Fin 16) (v : Word), s.pwr.root = true → gateOpen s.dev 13 = true →
    (leGet s.dev n).comp = none → v.getLsbD 0 = true →
    Does (.go n v) s (fun e =>
      FlagUp s.dev e (LE.LSTAT n) 8 (gf s.dev (LE.LSEL n) LE.LSEL_IE) (112 + n)
        ∧ gf e (LE.LERRB n) LE.LERRB_HKLATE = min (gf s.dev (LE.LERRB n) LE.LERRB_HKLATE + 1) (ftop LE.LERRB_HKLATE)
        ∧ Only s.dev e [LE.LHCMD n, LE.LERRB n, LE.LSTAT n, ipend (112 + n)])) ∧
  (∀ (s : State) (n : Fin 16) (x : LeSet), s.pwr.root = true → (leGet s.dev n).comp = some x → x.stage = 1 →
    Does (.hkmiss n) s (fun e =>
      (leGet e n).comp.map (fun y => (y.stage, y.duties)) = some (2, none) ∧ (leGet e n).bad = true
        ∧ gf e (LE.LERRB n) LE.LERRB_HKMISS = min (gf s.dev (LE.LERRB n) LE.LERRB_HKMISS + 1) (ftop LE.LERRB_HKMISS)
        ∧ bitOf e (LE.LSTAT n) 7 = true ∧ bitOf e (LE.LSTAT n) 25 = false ∧ Others s.dev.le e.le n
        ∧ Only { advanceTo s.dev (leDeadline s.dev n x) with le := e.le } e
            [LE.LERRB n, LE.LSTAT n, LE.LHSEQ n, ipend (112 + n)]))

/-- At the shadow write of a released set the engine counts the set, and while its safe request stands it writes none of its
triad's duties. LCMD.IRST clears both integrators and nothing else. LCMD.RESUME withdraws the safe request where no cause
stands, and does nothing where one does. A write to LSWTS latches the software angle triple. A STARTING engine that does not
drive becomes RUNNING with no software triple; a STOPPING one with no computation under way becomes OFF, its claims other
than pins released, or STARTING with its integrators cleared where EN is 1. A write to a ticked register sets its pending
copy alone. (R212, R216, R219, R220, R230, R232, R233, R235, R237) -/
def Obligations.LoopEngineShadowsAndCommands : Prop :=
  (∀ (s : State) (n : Fin 16) (x : LeSet), s.pwr.root = true → (leGet s.dev n).comp = some x → x.stage = 2 →
    Does (.leShadowWrite n) s (fun e =>
      rd e (LE.LSETS n) = rd s.dev (LE.LSETS n) + 1 ∧ bitOf e (LE.LSTAT n) 0 = true ∧ e.now = max s.dev.now x.due
        ∧ ((leGet s.dev n).wait = none → (leGet e n).comp = none)
        ∧ (bitOf s.dev (LE.LSTAT n) 29 = true →
            ∀ j : Fin 3, rd e (TRIAD.LDUTY (leTri s.dev n) j) = rd s.dev (TRIAD.LDUTY (leTri s.dev n) j))
        ∧ Others s.dev.le e.le n ∧ MemStays s.dev e)) ∧
  (∀ (s : State) (n : Fin 16), s.pwr.root = true → gateOpen s.dev 13 = true →
    Does (.irst n) s (fun e =>
      rd e (LE.LINTD n) = 0 ∧ rd e (LE.LINTQ n) = 0 ∧ Only s.dev e [LE.LINTD n, LE.LINTQ n])) ∧
  (∀ (s : State) (n : Fin 16), s.pwr.root = true → gateOpen s.dev 13 = true → leCause s.dev n = false →
    Does (.resume n) s (fun e =>
      bitOf e (LE.LSTAT n) 29 = false
        ∧ (bitOf s.dev (LE.LSTAT n) 29 = true → ∀ j : Fin 3, bitOf e (TRIAD.LSTAT (leTri s.dev n) j) 5 = false)
        ∧ Only s.dev e (LE.LSTAT n :: (List.range 3).map (TRIAD.LSTAT (leTri s.dev n))))) ∧
  (∀ (s : State) (n : Fin 16), s.pwr.root = true → leCause s.dev n = true → exec (.resume n) s = .next s) ∧
  (∀ (s : State) (n : Fin 16) (v : Word), s.pwr.root = true → gateOpen s.dev 13 = true →
    Does (.lswtsWrite n v) s (fun e =>
      rd e (LE.LSWTS n) = v ∧ (leGet e n).sw = some (rd s.dev (LE.LSWANG n), rd s.dev (LE.LSWSPD n), v)
        ∧ Others s.dev.le e.le n ∧ Only { s.dev with le := e.le } e [LE.LSWTS n])) ∧
  (∀ (s : State) (n : Fin 16), s.pwr.root = true → leState s.dev n = 1 → leDrive s.dev n = false →
    Does (.leStartDone n) s (fun e =>
      leState e n = 2 ∧ (leGet e n).sw = none ∧ Others s.dev.le e.le n
        ∧ Only { advanceTo s.dev (leGet s.dev n).due with le := e.le } e [LE.LSTAT n])) ∧
  (∀ (s : State) (n : Fin 16), s.pwr.root = true → leState s.dev n = 3 → (leGet s.dev n).comp = none →
    Does (.leStopDone n) s (fun e =>
      (gf s.dev (LE.LCTL n) LE.LCTL_EN = 1 →
          leState e n = 1 ∧ rd e (LE.LINTD n) = 0 ∧ rd e (LE.LINTQ n) = 0 ∧ e.claims = s.dev.claims)
        ∧ (gf s.dev (LE.LCTL n) LE.LCTL_EN ≠ 1 →
            leState e n = 0 ∧ ∀ c ∈ e.claims, c.owner = ownLe n → c.res < 0x1000)
        ∧ Others s.dev.le e.le n
        ∧ Only { advanceTo s.dev (leGet s.dev n).due with le := e.le, claims := e.claims } e
            [LE.LSTAT n, LE.LINTD n, LE.LINTQ n, LE.LHSEQ n])) ∧
  (∀ (s : State) (n : Fin 16) (o : Nat) (v : Word) (r : Reg) (m : Word) (q : Bool), s.pwr.root = true →
    gateOpen s.dev 13 = true → o < 0x400 → leTicked n o v = some (r, m, false, q) →
    Does (.leConfigWrite (0x40140000 + 0x400 * n + o) v) s (fun e => PendingTo s.dev e r (v &&& m)))

/-- A delivery takes the last result of an entry that the crossbar still owes, 8 FABRIC cycles after it left the pipeline,
and it is owed no longer. A RUNNING loop engine that uses the entry in one of its slots and still misses another slot's
result holds the result in each slot that names the entry. (R95, R203, R207) -/
def Obligations.CrossbarDeliversOnce : Prop :=
  ∀ (s : State) (n : Fin 8) (mon : Bool) (i : Fin 16) (r : ResSt), s.pwr.root = true →
    find (adcGet s.dev n).res ((if mon then 16 else 0) + i) = some r → r.xbar = true →
    Does (.xbarDeliver n mon i) s (fun e =>
      (find (adcGet e n).res ((if mon then 16 else 0) + i)).map ResSt.xbar = some false ∧ Others s.dev.adc e.adc n
        ∧ MemStays s.dev e
        ∧ ∀ (m : Fin 16) (k : Fin 4) (j : Fin 4), leState s.dev m = 2 → leRole (rd s.dev (LE.LROLE m)) k ≠ 0 →
            leSlotByte (rd s.dev (LE.LSLOT m)) k = (if mon then 128 else 0) + 16 * n + i →
            leRole (rd s.dev (LE.LROLE m)) j ≠ 0 →
            leSlotByte (rd s.dev (LE.LSLOT m)) j ≠ (if mon then 128 else 0) + 16 * n + i →
            find (leGet s.dev m).slots j = none →
            find (leGet e m).slots k = some r)

/-- With the Press reachable and no job in hand, an output of an active lane that has its 2 × Mc samples takes them from the
lane, and each context that runs on that lane, started before the output's instant, has one input more; no other lane
changes. A STARTING context that is not suspended becomes RUNNING once 32 outputs of its own stages and, in order mode, an
angle item have come, and nothing else changes. (R240, R241, R245, R247, R251, R254) -/
def Obligations.LanesFeedContexts : Prop :=
  (∀ (s : State) (c : Fin 128) (x : Word), s.pwr.root = true → laneActive s.dev c = true → gateOpen s.dev 14 = true →
    2 * gf s.dev (PRESS.LNCFG c) PRESS.LNCFG_MC ≤ (look s.dev.lane c {}).n → s.dev.jobs = [] →
    Does (.laneOutput c x) s (fun e =>
      (look e.lane c {}).n = (look s.dev.lane c {}).n - 2 * gf s.dev (PRESS.LNCFG c) PRESS.LNCFG_MC
        ∧ Others s.dev.lane e.lane c
        ∧ ∀ k : Nat, k ∈ ctxLive s.dev → (ctxLive s.dev).count k = 1 → gf s.dev (CTX.CCTL k) CTX.CCTL_CHAN = c →
            ctxTakes s.dev k = true →
            (ctxGet s.dev k).start < (look s.dev.lane c {}).inst
              - 3 * (look s.dev.lane c {}).len * (5 * (gf s.dev (PRESS.LNCFG c) PRESS.LNCFG_MC - 1)
                  + 254 * gf s.dev (PRESS.LNCFG c) PRESS.LNCFG_MC) →
            (ctxGet e k).nIn = (ctxGet s.dev k).nIn + 1)) ∧
  (∀ (s : State) (c : Fin 1024), s.pwr.root = true → ctxState s.dev c = 1 → ctxSusp s.dev c = false →
    32 ≤ (ctxGet s.dev c).nOut → (ctxOrder s.dev c = false ∨ (ctxGet s.dev c).grid.got = true) →
    Does (.contextRunning c) s (fun e => ctxState e c = 2 ∧ Only s.dev e [CTX.CSTAT c]))

/-- An angle item leaves its interface's queue, and every order-mode context that takes it then holds its timestamp. The
next target of a RUNNING context with 16 stream samples after it leaves the targets; where its number is a multiple of the
samples per revolution or a block is in progress, and no job waits for its window pass, its resampled value joins the block
and its place in the block ring. With no other job in hand, a complete block of a class 0 context whose average does not
start again counts in CNBLK, and exactly one job is released, with the block's samples. (R136, R258, R261, R263, R264, R283,
R294) -/
def Obligations.OrderTargetsAndBlocks : Prop :=
  (∀ (s : State) (f : Fin 24) (it : AngItem) (l : List AngItem), s.pwr.root = true → (fbGet s.dev f).items = it :: l →
    Does (.angleItem f) s (fun e =>
      (fbGet e f).items = l ∧ Others s.dev.fb e.fb f ∧ MemStays s.dev e
        ∧ (gateOpen s.dev 14 = true → ∀ c : Nat, c ∈ ctxLive s.dev → ctxTakes s.dev c = true → ctxOrder s.dev c = true →
            gf s.dev (CTX.CPATH c) CTX.CPATH_FB = f →
            (ctxGet e c).grid.got = true ∧ (ctxGet e c).grid.ts = it.ts ∧ (ctxGet e c).grid.raw = it.pos))) ∧
  (∀ (s : State) (c : Fin 1024) (t : Target) (l : List Target), s.pwr.root = true →
    (ctxGet s.dev c).grid.tgts = t :: l → ctxState s.dev c = 2 → ctxSusp s.dev c = false →
    16 ≤ ((ctxGet s.dev c).strm.filter (fun x => decide (t.t < x.t))).length →
    (∀ j ∈ s.dev.jobs, j.ctx = c.val → j.pass ≠ 0) →
    ((ctxGet s.dev c).blk ≠ [] ∨ ctxOrder s.dev c = false ∨ t.j % ctxNr s.dev c = 0) →
    Does (.orderTarget c) s (fun e =>
      (ctxGet e c).grid.tgts = l
        ∧ ∃ v : Word, (ctxGet e c).blk = ⟨v, t.t, t.j, t.nr, t.gap⟩ :: (ctxGet s.dev c).blk
            ∧ rdW e (ringKey s.dev c ((ctxGet s.dev c).first + (ctxGet s.dev c).blk.length)) = v
            ∧ v = orderValue s.dev c t
                (((ctxGet s.dev c).strm.filter (fun x => decide (t.t < x.t))).reverse.take 16
                  ++ ((ctxGet s.dev c).strm.filter (fun x => decide (x.t ≤ t.t))).take 16))) ∧
  (∀ (s : State) (c : Fin 1024), s.pwr.root = true → ctxState s.dev c = 2 → ctxSusp s.dev c = false →
    blkLen (rd s.dev (CTX.CPATH c)) ≤ (ctxGet s.dev c).blk.length → s.dev.jobs = [] → s.dev.eng = [] →
    gf s.dev (CTX.CCTL c) CTX.CCTL_CLASS = 0 → gf s.dev (CTX.CPATH c) CTX.CPATH_RTRIG = 0 →
    Does (.blockComplete c) s (fun e =>
      rd e (CTX.CNBLK c) = rd s.dev (CTX.CNBLK c) + 1 ∧ e.jobSeq = s.dev.jobSeq + 1
        ∧ e.jobs.map Job.ctx = [c.val]
        ∧ e.jobs.map Job.smp = [(ctxGet s.dev c).blk.reverse.take (blkLen (rd s.dev (CTX.CPATH c)))]
        ∧ MemStays s.dev e))

/-- At the end of a pass that is not the last, the engine's job has one pass more behind it and that pass's cycles less to
go; at the end of its last pass the job is gone. Either way it ends at the pass's start plus the pass's length in FABRIC
cycles; the pass end changes nothing but the jobs and engines, and so does the end of a job that belongs to no average any
more, beside the registers that show the context's jobs. (R269, R270, R284, R308) -/
def Obligations.FftEnginesAdvanceJobs : Prop :=
  (∀ (s : State) (u : Fin 2) (j : Job) (t : Nat), s.pwr.root = true → engJob s.dev u = some (j, t) → jobLast j = false →
    Does (.jobPassEnd u) s (fun e =>
      (∃ k ∈ e.jobs, k = { j with pass := j.pass + 1, rem := j.rem - jobPassLen j })
        ∧ e.now = max s.dev.now (t + jobPassLen j * fabDiv s.dev)
        ∧ e = { advanceTo s.dev e.now with jobs := e.jobs, eng := e.eng })) ∧
  (∀ (s : State) (u : Fin 2) (j : Job) (t : Nat), s.pwr.root = true → engJob s.dev u = some (j, t) → jobLast j = true →
    j.avgNo = 0 →
    Does (.jobComplete u) s (fun e =>
      e.jobs = s.dev.jobs.filter (fun k => k.id != j.id) ∧ e.now = max s.dev.now (t + jobPassLen j * fabDiv s.dev)
        ∧ Only { advanceTo s.dev e.now with jobs := e.jobs, eng := e.eng } e [CTX.CPEND j.ctx, CTX.CDEAD j.ctx])) ∧
  (∀ (s : State) (u : Fin 2) (j : Job) (t : Nat), s.pwr.root = true → engJob s.dev u = some (j, t) → jobLast j = true →
    Does (.jobComplete u) s (fun e =>
      e.jobs = s.dev.jobs.filter (fun k => k.id != j.id) ∧ e.now = max s.dev.now (t + jobPassLen j * fabDiv s.dev)))

/-- With the Press reachable: a write to a context word that can be written sets the pending copy of that word alone; one
that holds a forbidden value sets the Press's error flag and leaves every pending copy. A write to a lane's LNCFG with a
legal Mc, and one to a ticked register of the output stage, set the pending copy alone. (R248, R290, R291, R332) -/
def Obligations.PressConfigurationIsPending : Prop :=
  (∀ (s : State) (a c o : Nat) (v : Word), s.pwr.root = true → gateOpen s.dev 14 = true → ctxAddr a = some (c, o) →
    ctxMask o ≠ 0 → ctxWordBad o v = false →
    Does (.contextConfigWrite a v) s (fun e => PendingTo s.dev e (ctxRegAt c (4 * (o / 4))) (v &&& ctxMask o))) ∧
  (∀ (s : State) (a c o : Nat) (v : Word), s.pwr.root = true → gateOpen s.dev 14 = true → ctxAddr a = some (c, o) →
    ctxMask o ≠ 0 → ctxWordBad o v = true →
    Does (.contextConfigWrite a v) s (fun e =>
      FlagUp s.dev e PRESS.PSTAT 0 (gf s.dev PRESS.PSEL PRESS.PSEL_IE) 57 ∧ Only s.dev e [PRESS.PSTAT, ipend 57])) ∧
  (∀ (s : State) (c : Fin 128) (v : Word), s.pwr.root = true → gateOpen s.dev 14 = true →
    2 ≤ fget PRESS.LNCFG_MC v → fget PRESS.LNCFG_MC v ≤ 1024 →
    Does (.contextConfigWrite (0x40200100 + 4 * c) v) s (fun e => PendingTo s.dev e (PRESS.LNCFG c) (v &&& 0x800007FF))) ∧
  (∀ (s : State) (o : Nat) (v : Word) (r : Reg) (m : Word), s.pwr.root = true → gateOpen s.dev 14 = true →
    o < 0x800 → poutTicked s.dev o v = some (r, m, false) →
    Does (.poutConfigWrite (0x40210000 + o) v) s (fun e => PendingTo s.dev e r (v &&& m)))

/-- While the host side is down, the oldest queued result leaves the queue, and where it fits the spill region it becomes
the newest result there. A scheduled definition that is due moves its next tick on by its period and, where it does not wait
already and a place is free, waits with the schedule as its source. A waiting snapshot whose lanes have all reached the end
of its window, with no copy under way and no space held, starts its copy with the next number where it fits, and is dropped
and counted where it does not. At the end of a copy the snapshot waits for its descriptor and its flag is set. None of them
writes outside DDR5. (R311, R312, R322, R324, R325, R326, R327, R328) -/
def Obligations.ResultsSpillAndSnapshotsCopy : Prop :=
  (∀ (s : State) (r : OqRes) (l : List OqRes), s.pwr.root = true → hostUp s.dev = false →
    gf s.dev POUT.SPLEN POUT.SPLEN_LEN ≠ 0 → ddrRunning s.dev = true → s.dev.oq = r :: l →
    Does .spillWrite s (fun e =>
      e.oq = l
        ∧ (r.recs.length ≤ gf s.dev POUT.SPLEN POUT.SPLEN_LEN →
            ∃ old, e.spill = old ++ [⟨r.ring, r.recs.length, s.dev.spSlot⟩] ∧ old <:+ s.dev.spill)
        ∧ ∀ k, k < 2 ^ 44 → rdByte e k = rdByte s.dev k)) ∧
  (∀ (st : State) (s : Fin 16), st.pwr.root = true → gf st.dev (POUT.SNCFG s) POUT.SNCFG_EN = 1 →
    gf st.dev (POUT.SNCFG s) POUT.SNCFG_SCHED = 1 → atOrPast (tnoLow st.dev) (rd st.dev (POUT.SNNEXT s)) = true →
    (∀ x ∈ st.dev.snWait, x.sdef ≠ s.val) → st.dev.snWait.length < 4 →
    Does (.snapshotSchedule s) st (fun e =>
      rd e (POUT.SNNEXT s) = rd st.dev (POUT.SNNEXT s) + rd st.dev (POUT.SNPER s)
        ∧ (∃ x : SnapSt, e.snWait = st.dev.snWait ++ [x] ∧ x.sdef = s ∧ x.src = 1 ∧ x.merged = false)
        ∧ Only { st.dev with snWait := e.snWait } e [POUT.SNNEXT s])) ∧
  (∀ (st : State) (s : Fin 16) (x : SnapSt), st.pwr.root = true → st.dev.snWait.find? (fun y => y.sdef = s.val) = some x →
    st.dev.snCopy = none → st.dev.snHeld = [] → st.dev.snReady = [] → x.lanes.all (snReached st.dev x) = true →
    ddrRunning st.dev = true →
    Does (.snapshotCopyStart s) st (fun e =>
      (∀ y ∈ e.snWait, y.sdef ≠ s.val)
        ∧ ((snLayout (64 + 32 * (snLanes st.dev x).length) (snLanes st.dev x)).2
              ≤ 64 * gf st.dev POUT.SNLEN POUT.SNLEN_LEN →
            e.snCopy.map (fun y => (y.sdef, y.seq, y.t)) = some (x.sdef, st.dev.snSeq, x.t)
              ∧ e.snSeq = (st.dev.snSeq + 1) % 2 ^ 32
              ∧ e = { st.dev with snWait := e.snWait, snCopy := e.snCopy, snPos := e.snPos, snSeq := e.snSeq })
        ∧ (64 * gf st.dev POUT.SNLEN POUT.SNLEN_LEN
              < (snLayout (64 + 32 * (snLanes st.dev x).length) (snLanes st.dev x)).2 →
            e.snCopy = none ∧ FlagUp st.dev e POUT.OSTAT 6 (gf st.dev POUT.OSEL POUT.OSEL_IE) 58
              ∧ Only { st.dev with snWait := e.snWait } e [POUT.OSTAT, POUT.SNDROP, ipend 58]))) ∧
  (∀ (s : State) (x : SnapSt), s.pwr.root = true → s.dev.snCopy = some x →
    Does .snapshotCopyDone s (fun e =>
      e.snCopy = none ∧ e.snReady = s.dev.snReady ++ [x]
        ∧ FlagUp s.dev e POUT.OSTAT 7 (gf s.dev POUT.OSEL POUT.OSEL_IE) 58
        ∧ (∀ k, k < 2 ^ 44 → rdByte e k = rdByte s.dev k) ∧ RegsStay s.dev e [POUT.OSTAT, ipend 58]))

/-- MOV, ADD, SUB, MUL, MAC, DIV, REM, NEG, ABS, AND, OR, XOR, NOT, SHL, SHR, SHA, ROT, CMP, TAG, UNTAG, TCHK, CVT, SINCOS
and ATAN2 (the table dataOps): a core that may run the instruction, in a legal shape, with sources of any form that give
their words, and a result of the instruction's table that traps on no IEEE exception, with destinations that are slots,
writes the result to the slots and the flags, and goes to the next instruction; no memory, no other core and no register
beside AFLAGS changes (and DBGPC of a halted core). With a destination in SRAM that no resident frame covers, and a place
free in the store buffer, the store joins the buffer in place of the slot's change (of a follower: nothing is stored).
(R335, R342, R351, R353, R357, R358, R359, R362, R364, R365, R367, R374) -/
def Obligations.DataInstructionsComplete : Prop :=
  (∀ (s : State) (c : Fin 8) (i : Insn) (cmd : Instr) (f : Form) (g : Dev → List (Nat × Src) → Try Result) (d : Dev)
    (rs : List Role) (ls : List Loc) (xs : List Src) (r : Result),
    s.pwr.root = true → (cmd, f, g) ∈ dataOps c i → d = blkClear s.dev c → Ready s.dev c i → legalRoles d c f i = some rs →
    Operands d c rs i ls xs → g d (sources rs ls xs) = .ok r → trapOf d c r.ieee = none →
    (∀ q ∈ pick isDst rs ls, ∃ z : Nat, q.2 = .slot z) →
    Does cmd s (fun e =>
      Ran d e c { coreGet d c with pc := nextPc d c i, frames := frameWith (coreGet d c).frames (slotDests rs ls r.outs) }
          [CORE.AFLAGS c]
        ∧ rd e (CORE.AFLAGS c) = aflAfter (rd d (CORE.AFLAGS c)) r)) ∧
  (∀ (s : State) (c : Fin 8) (i : Insn) (cmd : Instr) (f : Form) (g : Dev → List (Nat × Src) → Try Result) (d : Dev)
    (rs : List Role) (ls : List Loc) (xs : List Src) (r : Result) (k a : Nat) (t : TWord),
    s.pwr.root = true → (cmd, f, g) ∈ dataOps c i → d = blkClear s.dev c → Ready s.dev c i → legalRoles d c f i = some rs →
    Operands d c rs i ls xs → g d (sources rs ls xs) = .ok r → trapOf d c r.ieee = none →
    pick isDst rs ls = [(k, .mem a)] → r.outs = [t] → inSram a = true → frameFind (coreGet d c) a = none →
    (coreGet d c).sb.length < 4 →
    Does cmd s (fun e =>
      Ran d e c
          { coreGet d c with
            pc := nextPc d c i
            sb := if isFollower d c then (coreGet d c).sb else (coreGet d c).sb ++ [(a, t)]
            l1 := if isFollower d c then (coreGet d c).l1 else (l1Store (coreGet d c) a t).l1 }
          [CORE.AFLAGS c]
        ∧ rd e (CORE.AFLAGS c) = aflAfter (rd d (CORE.AFLAGS c)) r))

/-- INT and NAT sums, differences and products are exact where they fit; beyond it the plain variant is an overflow fault,
.W keeps the low 32 bits and .S takes the nearest limit and sets SAT. FIX sums saturate in the plain variant. ANGLE and
COUNT wrap in every variant; a difference of two ANGLEs is FIX, of two COUNTs INT. A FIX product is rounded from 62 fraction
bits. INT division truncates and divides by 0 with a divide fault; FIX divided by 0 saturates by its sign. SHL multiplies,
SHR and SHA divide by a power of two downwards, with counts of any size. COUNT and ANGLE compare by the sign of their
difference. (R351, R352, R353, R354, R357, R359, R361, R362, R366) -/
def Obligations.ArithmeticByTag : Prop :=
  (∀ (v : Nat) (a b : Word), -(2 ^ 31) ≤ a.toInt + b.toInt → a.toInt + b.toInt < 2 ^ 31 →
    aluAdd v ⟨.int, a⟩ ⟨.int, b⟩ = .ok { t := ⟨.int, a + b⟩ }) ∧
  (∀ a b : Word, 2 ^ 31 ≤ a.toInt + b.toInt →
    aluAdd 0 ⟨.int, a⟩ ⟨.int, b⟩ = .error .overflow ∧ aluAdd 1 ⟨.int, a⟩ ⟨.int, b⟩ = .ok { t := ⟨.int, a + b⟩ }
      ∧ aluAdd 2 ⟨.int, a⟩ ⟨.int, b⟩ = .ok { t := ⟨.int, 0x7FFFFFFF⟩, sat := true }
      ∧ aluAdd 0 ⟨.fix, a⟩ ⟨.fix, b⟩ = .ok { t := ⟨.fix, 0x7FFFFFFF⟩, sat := true }) ∧
  (∀ a b : Word, a.toNat < b.toNat →
    aluSub 0 ⟨.nat, a⟩ ⟨.nat, b⟩ = .error .overflow ∧ aluSub 1 ⟨.nat, a⟩ ⟨.nat, b⟩ = .ok { t := ⟨.nat, a - b⟩ }
      ∧ aluSub 2 ⟨.nat, a⟩ ⟨.nat, b⟩ = .ok { t := ⟨.nat, 0⟩, sat := true }) ∧
  (∀ (v : Nat) (a b : Word),
    aluSub v ⟨.angle, a⟩ ⟨.angle, b⟩ = .ok { t := ⟨.fix, a - b⟩ } ∧ aluAdd v ⟨.angle, a⟩ ⟨.fix, b⟩ = .ok { t := ⟨.angle, a + b⟩ }
      ∧ aluSub v ⟨.count, a⟩ ⟨.count, b⟩ = .ok { t := ⟨.int, a - b⟩ }
      ∧ aluMul v ⟨.angle, a⟩ ⟨.nat, b⟩ = .ok { t := ⟨.angle, a * b⟩ }
      ∧ aluNeg v ⟨.angle, a⟩ = .ok { t := ⟨.angle, -a⟩ }) ∧
  (∀ (v : Nat) (a b x : Word), a.toInt * b.toInt < 2 ^ 62 → x.toInt = (a.toInt * b.toInt + 2 ^ 30) / 2 ^ 31 →
    aluMul v ⟨.fix, a⟩ ⟨.fix, b⟩ = .ok { t := ⟨.fix, x⟩ }) ∧
  (∀ (v : Nat) (a b : Word), b ≠ 0 → a ≠ 0x80000000 →
    aluDiv v ⟨.int, a⟩ ⟨.int, b⟩ = .ok { t := ⟨.int, a.sdiv b⟩ } ∧ aluRem ⟨.int, a⟩ ⟨.int, b⟩ = .ok { t := ⟨.int, a.srem b⟩ }) ∧
  (∀ (v : Nat) (a : Word),
    aluDiv v ⟨.int, a⟩ ⟨.int, 0⟩ = .error .divide ∧ aluRem ⟨.int, a⟩ ⟨.int, 0⟩ = .error .divide
      ∧ (0 < a.toInt → aluDiv v ⟨.fix, a⟩ ⟨.fix, 0⟩ = .ok { t := ⟨.fix, 0x7FFFFFFF⟩, sat := true })
      ∧ (a.toInt < 0 → aluDiv v ⟨.fix, a⟩ ⟨.fix, 0⟩ = .ok { t := ⟨.fix, 0x80000000⟩, sat := true })) ∧
  (∀ (a : Word) (n : Word), aluShr ⟨.bits, a⟩ ⟨.nat, n⟩ = .ok { t := ⟨.bits, a >>> n.toNat⟩ }
      ∧ aluSha ⟨.int, a⟩ ⟨.nat, n⟩ = .ok { t := ⟨.int, a.sshiftRight n.toNat⟩ }
      ∧ aluShl 0 ⟨.bits, a⟩ ⟨.nat, n⟩ = .ok { t := ⟨.bits, a <<< n.toNat⟩ }
      ∧ aluRot ⟨.bits, a⟩ ⟨.nat, n⟩ = .ok { t := ⟨.bits, a.rotateLeft (n.toNat % 32)⟩ }) ∧
  (∀ a b : Word, aluCmp ⟨.count, a⟩ ⟨.count, b⟩ = some (if a = b then 0 else if (a - b).msb then 1 else 2, 0)
      ∧ aluCmp ⟨.int, a⟩ ⟨.int, b⟩ = some (if a = b then 0 else if a.slt b then 1 else 2, 0)
      ∧ aluCmp ⟨.bits, a⟩ ⟨.bits, b⟩ = some (if a = b then 0 else 3, 0))

/-- A core on its own that loads from an SRAM word free of errors, with no L1 line, no resident frame and no buffered store
in the way, has that tagged word in its slot. A MOV from a post-increment operand writes the base slot raised by 4 and then
the destination slot. The oldest buffered store of a core, to SRAM, completes: its word is in memory with its tag and no
other byte or tag changes; with nothing buffered nothing happens. SYNC goes on where nothing waits, and does nothing but
clear a stopped block where a store waits. (R341, R344, R348, R374, R391, R392, R438, R489) -/
def Obligations.LoadsStoresAndOrdering : Prop :=
  (∀ (s : State) (c : Fin 8) (i : Insn) (d : Dev) (z : Fin 64) (a : Word), s.pwr.root = true → d = blkClear s.dev c →
    Ready s.dev c i → paired d (c / 2) = false → i.v = 0 → i.x = 0 → i.ops = [.frame z, .absolute a] →
    inSram a.toNat = true → accessOk d c 1 a.toNat 0 = .ok () → look d.ecc (a.toNat / 4) 0 = 0 → l1On d c a.toNat = false →
    frameFind (coreGet d c) a.toNat = none → sbMeets (coreGet d c) a.toNat = false →
    plainSrc 1 (rdTW d a.toNat) = .ok () →
    Does (.mov c i) s (fun e =>
      Ran d e c { coreGet d c with pc := nextPc d c i, frames := frameWith (coreGet d c).frames [(z, rdTW d a.toNat)] } [])) ∧
  (∀ (s : State) (c : Fin 8) (i : Insn) (d : Dev) (z b : Fin 64) (a : Word) (t : TWord), s.pwr.root = true →
    d = blkClear s.dev c → Ready s.dev c i → i.v = 0 → i.x = 0 → i.ops = [.frame z, .postInc b] →
    slotGet d c b = ⟨.addr, a⟩ → accessOk d c 1 a.toNat 0 = .ok () → portRead d c a.toNat = (d, .ok t) →
    a.toNat ≠ fp d c + 4 * b → plainSrc 1 t = .ok () →
    Does (.mov c i) s (fun e =>
      Ran d e c
        { coreGet d c with pc := nextPc d c i, frames := frameWith (coreGet d c).frames [(b.val, ⟨.addr, a + 4⟩), (z.val, t)] } [])) ∧
  (∀ (s : State) (c : Fin 8) (a : Nat) (t : TWord) (l : List (Nat × TWord)), s.pwr.root = true →
    (coreGet s.dev c).sb = (a, t) :: l → inSram a = true → a % 4 = 0 →
    Does (.storeCompletion c) s (fun e =>
      rdTW e a = t ∧ (∀ k : Nat, k / 4 ≠ a / 4 → rdByte e k = rdByte s.dev k ∧ rdTag e k = rdTag s.dev k)
        ∧ coreGet e c = { coreGet s.dev c with sb := l } ∧ Others s.dev.core e.core c
        ∧ e = { s.dev with mem := e.mem, mtag := e.mtag, ecc := e.ecc, wback := e.wback, core := e.core })) ∧
  (∀ (s : State) (c : Fin 8), s.pwr.root = true → (coreGet s.dev c).sb = [] →
    Does (.storeCompletion c) s (fun e => e = s.dev)) ∧
  (∀ (s : State) (c : Fin 8) (i : Insn) (d : Dev), s.pwr.root = true → d = blkClear s.dev c → Ready s.dev c i →
    i.v = 0 → i.x = 0 → i.ops = [] →
    Does (.sync c i) s (fun e =>
      if storesWait d c then e = d else Ran d e c { coreGet d c with pc := nextPc d c i } []))

/-- Where the exception can be taken (no double fault), a data instruction of dataOps takes exception 3 with code 3 where
its own bytes may not be executed, exception 0 where it is illegal, and the exception that its table gives (a tag, divide or
overflow fault, with its code and operand) at its own PC; an IEEE exception whose trap is enabled is exception 9. TRAP with
a number takes exception 13 with that number as its code, the next PC saved. Each entry saves PC, status, FP, stack
register, progress and privilege in save set 0, and starts the handler in a new frame at its privilege with FAULT set.
(R340, R350, R374, R380, R406, R407, R414, R416, R422) -/
def Obligations.FaultsEnterTheirHandler : Prop :=
  (∀ (s : State) (c : Fin 8) (i : Insn) (cmd : Instr) (f : Form) (g : Dev → List (Nat × Src) → Try Result) (d : Dev) (b : Nat),
    s.pwr.root = true → (cmd, f, g) ∈ dataOps c i → d = blkClear s.dev c → coreFree s.dev c = true → CanEnter d c 3 →
    mpuBad d c (privN d c) 2 (coreGet d c).pc.toNat (insnLen i) = some b →
    Does cmd s (fun e => Excepted d e c 3 3 0 b (coreGet d c).pc)) ∧
  (∀ (s : State) (c : Fin 8) (i : Insn) (cmd : Instr) (f : Form) (g : Dev → List (Nat × Src) → Try Result) (d : Dev),
    s.pwr.root = true → (cmd, f, g) ∈ dataOps c i → d = blkClear s.dev c → Ready s.dev c i → legalRoles d c f i = none →
    CanEnter d c 0 → Does cmd s (fun e => Excepted d e c 0 0 0 0 (coreGet d c).pc)) ∧
  (∀ (s : State) (c : Fin 8) (i : Insn) (cmd : Instr) (f : Form) (g : Dev → List (Nat × Src) → Try Result) (d : Dev)
    (rs : List Role) (ls : List Loc) (xs : List Src) (k code o fa : Nat),
    s.pwr.root = true → (cmd, f, g) ∈ dataOps c i → d = blkClear s.dev c → Ready s.dev c i → legalRoles d c f i = some rs →
    Operands d c rs i ls xs → g d (sources rs ls xs) = .error (.exc k code o fa) → k < 16 → CanEnter d c k →
    Does cmd s (fun e => Excepted d e c k code o fa (coreGet d c).pc)) ∧
  (∀ (s : State) (c : Fin 8) (i : Insn) (cmd : Instr) (f : Form) (g : Dev → List (Nat × Src) → Try Result) (d : Dev)
    (rs : List Role) (ls : List Loc) (xs : List Src) (r : Result) (b : Nat),
    s.pwr.root = true → (cmd, f, g) ∈ dataOps c i → d = blkClear s.dev c → Ready s.dev c i → legalRoles d c f i = some rs →
    Operands d c rs i ls xs → g d (sources rs ls xs) = .ok r → trapOf d c r.ieee = some b → CanEnter d c 9 →
    Does cmd s (fun e => Excepted d e c 9 b 0 0 (coreGet d c).pc)) ∧
  (∀ (s : State) (c : Fin 8) (i : Insn) (d : Dev) (t n : Nat), s.pwr.root = true → d = blkClear s.dev c → Ready s.dev c i →
    (legalRoles d c (immForm i) i).isSome = true → immOf i = some (t, n) → CanEnter d c 13 →
    Does (.trap c i) s (fun e => Excepted d e c 13 n 0 0 (nextPc d c i)))

/-- BCC with a good target goes to it where its condition holds and to the next instruction where not. CALL starts a new
frame of 256 bytes below, whose first word is the return address as CODE and whose others are VOID, and goes to its target;
where four frames are resident already, all in SRAM, the oldest is written to its addresses and no other memory changes. RET
goes to the address in slot 0 and makes the frame above the current one again, reading it from memory where it is not
resident. (R349, R363, R373, R385, R386, R387, R388, R389, R390) -/
def Obligations.JumpsCallsAndReturns : Prop :=
  (∀ (s : State) (c : Fin 8) (i : Insn) (d : Dev) (sp : Spec) (l : Loc) (t : Nat), s.pwr.root = true → d = blkClear s.dev c →
    Ready s.dev c i → legalRoles d c { roles := [[.target]], xs := fun x => x < 11 } i = some [.target] → i.ops = [sp] →
    formAll c 0 [(.target, sp)] [] d = (d, .ok ([l], [])) → targetOf d c l = .ok t →
    Does (.bcc c i) s (fun e =>
      Ran d e c { coreGet d c with pc := if condHolds d c i.x.toNat then w32 t else nextPc d c i } [])) ∧
  (∀ (s : State) (c : Fin 8) (i : Insn) (d : Dev) (sp : Spec) (l : Loc) (t a : Nat), s.pwr.root = true →
    d = blkClear s.dev c → Ready s.dev c i → legalRoles d c { roles := [[.target]] } i = some [.target] → i.ops = [sp] →
    formAll c 0 [(.target, sp)] [] d = (d, .ok ([l], [])) → targetOf d c l = .ok t →
    a = (fp d c + 2 ^ 32 - 256) % 2 ^ 32 → frameOk d c (privN d c) a = .ok () → (∀ f ∈ (coreGet d c).frames, f.1 ≠ a) →
    ((coreGet d c).frames.length < 4 →
      Does (.call c i) s (fun e =>
        Ran d e c
            { coreGet d c with
              pc := w32 t
              frames := (a, tCode (nextPc d c i) :: List.replicate 63 tVoid) :: (coreGet d c).frames }
            [CORE.FP c]
          ∧ rd e (CORE.FP c) = w32 a))
    ∧ (∀ (b : Nat) (ws : List TWord) (fs : List (Nat × List TWord)), (coreGet d c).frames = fs ++ [(b, ws)] → fs.length = 3 →
        ws.length = 64 → b % 4 = 0 → (∀ k : Nat, k < 64 → inSram (b + 4 * k) = true) → isFollower d c = false →
        Does (.call c i) s (fun e =>
          (coreGet e c).pc = w32 t ∧ rd e (CORE.FP c) = w32 a
            ∧ (coreGet e c).frames = (a, tCode (nextPc d c i) :: List.replicate 63 tVoid) :: fs
            ∧ (∀ k : Nat, k < 64 → rdTW e (b + 4 * k) = ws.getD k tVoid)
            ∧ ∀ x : Nat, (x < b ∨ b + 256 ≤ x) → rdByte e x = rdByte d x ∧ rdTag e x = rdTag d x))) ∧
  (∀ (s : State) (c : Fin 8) (i : Insn) (d : Dev) (t a : Nat), s.pwr.root = true → d = blkClear s.dev c → Ready s.dev c i →
    i.v = 0 → i.x = 0 → i.ops = [] → targetOf d c (.slot 0) = .ok t → a = (fp d c + 256) % 2 ^ 32 →
    (∀ (f g : Nat × List TWord) (fs : List (Nat × List TWord)), (coreGet d c).frames = f :: g :: fs → g.1 = a →
      Does (.ret c i) s (fun e =>
        Ran d e c { coreGet d c with pc := w32 t, frames := g :: fs } [CORE.FP c] ∧ rd e (CORE.FP c) = w32 a))
    ∧ (∀ (f : Nat × List TWord) (d2 : Dev) (ws : List TWord), (coreGet d c).frames = [f] →
        frameRead c a 64 d = (d2, .ok ws) →
        Does (.ret c i) s (fun e =>
          (coreGet e c).pc = w32 t ∧ rd e (CORE.FP c) = w32 a ∧ (coreGet e c).frames = [(a, ws)])))

/-- RETI through the save set of its level, or set 0 in a fault handler and for a launch, restores PC, status without FAULT,
AFLAGS, FP, the stack register of the handler's privilege and the progress, and ends the recorded service of its level. GATE
whose descriptor passes every check stores its four linkage words, enters the frame below them with the return address and
the arguments, and continues at the entry with the gate's privilege. GRET with a good linkage record returns to the caller's
frame, privilege and IE. No byte of memory changes (linkage words wait in the store buffer). (R399, R411, R412, R413, R423,
R424, R425, R426, R482) -/
def Obligations.HandlersReturnAndGatesCross : Prop :=
  (∀ (s : State) (c : Fin 8) (i : Insn) (d : Dev) (set cp : Nat) (f g : Nat × List TWord) (fs : List (Nat × List TWord)),
    s.pwr.root = true → d = blkClear s.dev c → Ready s.dev c i → i.v = 0 → i.x = 0 → i.ops = [] →
    retiSet d c = .ok (set, cp) → (coreGet d c).wft = false → (coreGet d c).frames = f :: g :: fs →
    g.1 = (rd d (CORE.SSFP c set)).toNat → g.1 ≠ fp d c →
    Does (.reti c i) s (fun e =>
      Ran d e c
          { coreGet d c with
            pc := rd d (CORE.SSPC c set)
            frames := g :: fs
            prog := (rd d (CORE.SSPRG c set)).toNat }
          [CORE.STATUS c, CORE.AFLAGS c, CORE.FP c, CORE.SP c (privN d c), ICU.IACTL c set,
            ICU.IACT (gf d (ICU.IACTL c set) ICU.IACTL_SRC / 32)]
        ∧ rd e (CORE.STATUS c) = fset stFault (rd d (CORE.SSST c set) &&& 0x0000CFE0) 0
        ∧ rd e (CORE.AFLAGS c) = BitVec.ofNat 32 (fget stAfl (rd d (CORE.SSST c set))) &&& aflMask
        ∧ rd e (CORE.FP c) = rd d (CORE.SSFP c set) ∧ rd e (CORE.SP c (privN d c)) = rd d (CORE.SSSP c set)
        ∧ (set ≠ 0 → isFollower d c = false → gf d (ICU.IACTL c set) ICU.IACTL_V = 1 →
            rd e (ICU.IACTL c set) = 0 ∧ srcActive e (gf d (ICU.IACTL c set) ICU.IACTL_SRC) = false))) ∧
  (∀ (s : State) (c : Fin 8) (i : Insn) (d : Dev) (t n l a : Nat) (g : Gate) (w1 w3 : TWord), s.pwr.root = true →
    d = blkClear s.dev c → Ready s.dev c i → (legalRoles d c (immForm i) i).isSome = true → immOf i = some (t, n) →
    (t = 2 ∨ t = 15) → n < gf d (CORE.GTLEN c) CORE.GTLEN_LEN →
    portWords c 4 ((rd d (CORE.GTBASE c)).toNat + 16 * n) d = (d, .ok [g.entry, w1, g.stack, w3]) → w1.w = g.w1 → w3.w = g.w3 →
    g.w1.getLsbD 24 = true → g.wf = true → gateCheck d c g = .ok () →
    l = (gateStack d c g + 2 ^ 32 - 16) % 2 ^ 32 → a = (l + 2 ^ 32 - 256) % 2 ^ 32 → gateRoom d c g l = .ok () →
    (∀ k : Nat, k < 4 → inSram ((l + 4 * k) % 2 ^ 32) = true ∧ frameFind (coreGet d c) ((l + 4 * k) % 2 ^ 32) = none) →
    (coreGet d c).sb = [] → (coreGet d c).l1 = [] → (coreGet d c).frames.length < 4 → (∀ f ∈ (coreGet d c).frames, f.1 ≠ a) →
    Does (.gate c i) s (fun e =>
      Ran d e c
          { coreGet d c with
            pc := g.entry.w
            sb := if isFollower d c then [] else
              [(l, tAddr (rd d (CORE.FP c))), ((l + 4) % 2 ^ 32, if g.stk = 1 then tAddr (rd d (CORE.SP c g.tpriv)) else tVoid),
                ((l + 8) % 2 ^ 32, tBits (statusNow d c)), ((l + 12) % 2 ^ 32, tBits (w32 (n % 256 + 2 ^ 8 * privN d c)))]
            frames := (a, tCode (nextPc d c i) :: ((List.range g.narg).map (fun k => slotGet d c (k + 1))
              ++ List.replicate (63 - g.narg) tVoid)) :: (coreGet d c).frames }
          [CORE.STATUS c, CORE.FP c, CORE.SP c g.tpriv]
        ∧ rd e (CORE.STATUS c) = fset stPriv (rd d (CORE.STATUS c)) g.tpriv ∧ rd e (CORE.FP c) = w32 a
        ∧ rd e (CORE.SP c g.tpriv) = (if g.stk = 1 then w32 a else rd d (CORE.SP c g.tpriv)))) ∧
  (∀ (s : State) (c : Fin 8) (i : Insn) (d : Dev) (t : Nat) (w0 w1 w2 w3 : TWord) (f g : Nat × List TWord)
    (fs : List (Nat × List TWord)), s.pwr.root = true → d = blkClear s.dev c → Ready s.dev c i → i.v = 0 → i.x = 0 → i.ops = [] →
    portWords c 4 (fp d c + 256) d = (d, .ok [w0, w1, w2, w3]) → w0.tag = .addr → (w1.tag = .addr ∨ w1.tag = .void) →
    w2.tag = .bits → w3.tag = .bits → privN d c ≤ fget stPriv w2.w → targetOf d c (.slot 0) = .ok t →
    (coreGet d c).frames = f :: g :: fs → g.1 = w0.w.toNat → g.1 ≠ fp d c →
    Does (.gret c i) s (fun e =>
      Ran d e c { coreGet d c with pc := w32 t, frames := g :: fs } [CORE.STATUS c, CORE.FP c, CORE.SP c (privN d c)]
        ∧ rd e (CORE.STATUS c) = fset stIe (fset stPriv (rd d (CORE.STATUS c)) (fget stPriv w2.w)) (fget stIe w2.w)
        ∧ rd e (CORE.FP c) = w0.w
        ∧ rd e (CORE.SP c (privN d c)) = (if w1.tag = .addr then w1.w else rd d (CORE.SP c (privN d c)))))

/-- A block instruction that starts afresh on a core with no entry presented runs to its end. BMOV between slots copies as
if it read all its source first. BFILL of slots sets each to the value; of SRAM words it buffers a store for each, up to
four. BCRC leaves in its accumulator the fold of exactly the bytes asked for. VMAC of INT words whose partial sums fit
leaves the accumulator plus the products' sum. Nothing else changes but the PC. (R335, R369, R370, R371, R372, R397, R398,
R400) -/
def Obligations.BlockInstructionsRunTheirElements : Prop :=
  (∀ (s : State) (c : Fin 8) (i : Insn) (d : Dev) (z y : Nat) (n : Word), s.pwr.root = true → d = blkClear s.dev c →
    coreFree s.dev c = true → mpuBad s.dev c (privN s.dev c) 2 (coreGet s.dev c).pc.toNat (insnLen i) = none →
    gf s.dev (CORE.STATUS c) stBlk = 0 → legalRoles s.dev c { roles := [[.area, .area, .src]] } i = some [.area, .area, .src] →
    blkForm c i [.area, .area, .src] s.dev = (s.dev, .ok ([⟨.void, w32 z⟩, ⟨.void, w32 y⟩, ⟨.nat, n⟩], [])) →
    z + n.toNat ≤ 64 → y + n.toNat ≤ 64 → fp d c + 256 ≤ 2 ^ 32 →
    Does (.bmov c i) s (fun e =>
      Ran d e c
        { coreGet d c with
          pc := nextPc d c i
          frames := frameWith (coreGet d c).frames ((List.range n.toNat).map (fun k => (z + k, slotGet d c (y + k)))) } [])) ∧
  (∀ (s : State) (c : Fin 8) (i : Insn) (d : Dev) (z : Nat) (v : TWord) (n : Word), s.pwr.root = true →
    d = blkClear s.dev c → coreFree s.dev c = true →
    mpuBad s.dev c (privN s.dev c) 2 (coreGet s.dev c).pc.toNat (insnLen i) = none → gf s.dev (CORE.STATUS c) stBlk = 0 →
    legalRoles s.dev c { roles := [[.area, .src, .src]] } i = some [.area, .src, .src] → plainSrc 1 v = .ok () →
    (blkForm c i [.area, .src, .src] s.dev = (s.dev, .ok ([⟨.void, w32 z⟩, v, ⟨.nat, n⟩], [])) → z + n.toNat ≤ 64 →
      Does (.bfill c i) s (fun e =>
        Ran d e c
          { coreGet d c with
            pc := nextPc d c i
            frames := frameWith (coreGet d c).frames ((List.range n.toNat).map (fun k => (z + k, v))) } []))
    ∧ (blkForm c i [.area, .src, .src] s.dev = (s.dev, .ok ([⟨.addr, w32 z⟩, v, ⟨.nat, n⟩], [])) → n.toNat ≤ 4 →
        (∀ k : Nat, k < n.toNat → inSram (z + 4 * k) = true ∧ accessOk s.dev c 0 (z + 4 * k) 1 = .ok ()
          ∧ frameFind (coreGet d c) (z + 4 * k) = none) →
        (coreGet d c).sb = [] → (coreGet d c).l1 = [] → isFollower d c = false →
        Does (.bfill c i) s (fun e =>
          Ran d e c
            { coreGet d c with
              pc := nextPc d c i
              sb := (List.range n.toNat).map (fun k => (z + 4 * k, v)) } []))) ∧
  (∀ (s : State) (c : Fin 8) (i : Insn) (d : Dev) (z y : Nat) (n : Word) (x : Word), s.pwr.root = true →
    d = blkClear s.dev c → coreFree s.dev c = true →
    mpuBad s.dev c (privN s.dev c) 2 (coreGet s.dev c).pc.toNat (insnLen i) = none → gf s.dev (CORE.STATUS c) stBlk = 0 →
    legalRoles s.dev c { roles := [[.area, .area, .src]], xs := fun x => x < 3 } i = some [.area, .area, .src] →
    blkForm c i [.area, .area, .src] s.dev = (s.dev, .ok ([⟨.void, w32 z⟩, ⟨.void, w32 y⟩, ⟨.nat, n⟩], [])) →
    z < 64 → 4 * y + n.toNat ≤ 256 → 0 < n.toNat → (z < y ∨ 4 * y + n.toNat ≤ 4 * z) → slotGet d c z = tBits x →
    Does (.bcrc c i) s (fun e =>
      Ran d e c
        { coreGet d c with
          pc := nextPc d c i
          frames := frameWith (coreGet d c).frames
            [(z, tBits (crcFold i.x.toNat x (((List.range ((n.toNat + 3) / 4)).flatMap
              (fun k => leBytes 4 (slotGet d c (y + k)).w.toNat)).take n.toNat)))] } [])) ∧
  (∀ (s : State) (c : Fin 8) (i : Insn) (d : Dev) (z p q : Nat) (x : Word) (u v : Nat → Word), s.pwr.root = true →
    d = blkClear s.dev c → coreFree s.dev c = true →
    mpuBad s.dev c (privN s.dev c) 2 (coreGet s.dev c).pc.toNat (insnLen i) = none → gf s.dev (CORE.STATUS c) stBlk = 0 →
    legalRoles s.dev c { roles := [[.area, .area, .area]], xs := fun _ => true, unit := some 1 } i = some [.area, .area, .area] →
    blkForm c i [.area, .area, .area] s.dev = (s.dev, .ok ([⟨.void, w32 z⟩, ⟨.void, w32 p⟩, ⟨.void, w32 q⟩], [])) →
    z < 64 → p + i.x.toNat < 64 → q + i.x.toNat < 64 → (z < p ∨ p + i.x.toNat < z) → (z < q ∨ q + i.x.toNat < z) →
    slotGet d c z = ⟨.int, x⟩ →
    (∀ k : Nat, k ≤ i.x.toNat → slotGet d c (p + k) = ⟨.int, u k⟩ ∧ slotGet d c (q + k) = ⟨.int, v k⟩) →
    (∀ k : Nat, k ≤ i.x.toNat + 1 →
      -(2 ^ 31) ≤ x.toInt + ((List.range k).map (fun j => (u j).toInt * (v j).toInt)).sum
        ∧ x.toInt + ((List.range k).map (fun j => (u j).toInt * (v j).toInt)).sum < 2 ^ 31) →
    Does (.vmac c i) s (fun e =>
      Ran d e c
        { coreGet d c with
          pc := nextPc d c i
          frames := frameWith (coreGet d c).frames
            [(z, ⟨.int, BitVec.ofInt 32
              (x.toInt + ((List.range (i.x.toNat + 1)).map (fun j => (u j).toInt * (v j).toInt)).sum)⟩)] } []))

/-- FLUSHI and CHKPT only go on, CHKPT of a PAIRED core with its signature window closed; WFT waits where it stands. A write
to FP spills every resident frame and fills the new one; to TKB takes legal values only; INVAL empties the L1; DETM changes
its bit alone; STATUS changes IE alone; a write to FVECk of the control block gives the entry, and one that System code may
not make takes exception 4. A presented interrupt enters its handler with the state saved in the set of its level. (R51,
R378, R389, R391, R392, R403, R407, R408, R417, R418, R419, R436) -/
def Obligations.CoresOwnRegistersAndInterrupts : Prop :=
  (∀ (s : State) (c : Fin 8) (i : Insn) (d : Dev), s.pwr.root = true → d = blkClear s.dev c → Ready s.dev c i →
    i.v = 0 → i.x = 0 → i.ops = [] →
    Does (.flushi c i) s (fun e => Ran d e c { coreGet d c with pc := nextPc d c i } [])
    ∧ Does (.chkpt c i) s (fun e =>
        Ran d e c { coreGet d c with pc := nextPc d c i } []
          ∧ (isLeader d c = true → (pairGet e (c / 2)).lw = (pairGet d (c / 2)).lw ++ [(coreGet d c).sig]
              ∧ (pairGet e (c / 2)).num = (pairGet d (c / 2)).num + 1 ∧ (coreGet e c).since = 0)
          ∧ (isFollower d c = true → (pairGet e (c / 2)).fw = (pairGet d (c / 2)).fw ++ [(coreGet d c).sig]
              ∧ (coreGet e c).since = 0))
    ∧ (isFollower d c = false →
        Does (.wft c i) s (fun e =>
          coreGet e c = { coreGet d c with wft := true, wftAt := (coreGet d c).pc, nest := 0, seen := false }
            ∧ Others d.core e.core c ∧ e = { d with core := e.core }))) ∧
  (∀ (s : State) (c : Fin 8) (v : Word), s.pwr.root = true → coreFree s.dev c = true →
    (∀ (d1 d2 : Dev) (ws : List TWord), accessOk s.dev c 0 0x4041100C 1 = .ok () →
      d1 = (coreGet s.dev c).frames.foldl (frameSpill c) s.dev → frameRead c v.toNat 64 d1 = (d2, .ok ws) →
      Does (.fpWrite c v) s (fun e =>
        rd e (CORE.FP c) = v ∧ coreGet e c = { coreGet d2 c with frames := [(v.toNat, ws)] } ∧ Others d2.core e.core c
          ∧ RegsStay d2 e [CORE.FP c] ∧ e = { d2 with regs := e.regs, core := e.core }))
    ∧ (accessOk s.dev c 0 0x4041001C 1 = .ok () →
        Does (.tkbWrite c v) s (fun e =>
          rd e (CORE.TKB c) = (if fget CORE.TKB_SZ v < 8 ∨ 13 < fget CORE.TKB_SZ v ∨ 4 < fget CORE.TKB_NLOG v
              then rd s.dev (CORE.TKB c) else v &&& 0xFFFFFF07) ∧ Only s.dev e [CORE.TKB c]))
    ∧ (accessOk s.dev c 0 0x40411024 1 = .ok () →
        Does (.inval c) s (fun e => coreGet e c = { coreGet s.dev c with l1 := [] } ∧ Others s.dev.core e.core c
          ∧ e = { s.dev with core := e.core }))
    ∧ (∀ b : Bool, accessOk s.dev c 0 0x40411004 1 = .ok () → gf s.dev (CORE.CCTL c) CORE.CCTL_L1EN = 1 →
        Does (.detmChange c b) s (fun e =>
          rd e (CORE.CCTL c) = fset CORE.CCTL_DETM (rd s.dev (CORE.CCTL c)) (if b then 1 else 0) &&& 0xF
            ∧ Only s.dev e [CORE.CCTL c]))
    ∧ (accessOk s.dev c 0 0x40411000 1 = .ok () →
        Does (.statusWrite c v) s (fun e =>
          rd e (CORE.STATUS c) = fset stIe (rd s.dev (CORE.STATUS c)) (fget stIe v) ∧ Only s.dev e [CORE.STATUS c]))
    ∧ (∀ k : Fin 16, accessOk s.dev c 0 (0x40411040 + 4 * k) 1 = .ok () →
        Does (.controlBlockWrite c (0x40411040 + 4 * k) v) s (fun e =>
          rd e (CORE.FVEC c k) = v ∧ vecVoid e (CORE.FVEC c k) = false
            ∧ RegsStay s.dev e [CORE.FVEC c k] ∧ e = { s.dev with regs := e.regs, tags := e.tags }))
    ∧ (∀ k : Fin 16, priv s.dev c = 1 → CanEnter s.dev c 4 →
        Does (.controlBlockWrite c (0x40411040 + 4 * k) v) s (fun e => Excepted s.dev e c 4 2 0 0 (coreGet s.dev c).pc))) ∧
  (∀ (s : State) (c : Fin 8) (q : EntrySt) (h : Nat), s.pwr.root = true → isFollower s.dev c = false →
    (coreGet s.dev c).ent = some q → q.lvl < 16 → h = gf s.dev (CORE.HPRIV c) CORE.HPRIV_IPRIV →
    mpuBad s.dev c h 1 (entryFp s.dev c h) 256 = none →
    Does (.interruptEntry c) s (fun e =>
      Saved s.dev e c q.lvl h (coreGet s.dev c).pc ∧ InHandler s.dev e c h q.vec ∧ level e c = q.lvl
        ∧ Others s.dev.core e.core c
        ∧ ((coreGet s.dev c).frames.length < 4 → MemStays s.dev e ∧ RegsStay s.dev e (setRegs c q.lvl ++
            [CORE.STATUS c, CORE.FP c, CORE.SP c h]))))

/-- Equal signatures of the oldest window both cores have closed count in PWINCNT and leave the queues, with the stores of
that window (none, or one, which is made). Unequal ones, and a slip timeout of a PAIRED pair, take both cores to exception
14 in the leader's state with the cause and signatures in the pair's registers. A watchdog starts with its full count and
then takes only WARN; the two keys in turn from one core reload it; at count 0 it resets its pair to its entry, as a double
fault's pair reset does. A legal write to PCTL, PWIN or POCWIN is pending; an illegal one sets the pair's error flag. (R428,
R437, R440, R444, R445, R446, R447, R448, R449, R467, R683, R684) -/
def Obligations.PairsCompareDivergeAndReset : Prop :=
  (∀ (s : State) (p : Fin 4) (a : BitVec 64) (la lb : List (BitVec 64)), s.pwr.root = true →
    (pairGet s.dev p).lw = a :: la → (pairGet s.dev p).fw = a :: lb →
    Does (.windowCompare p) s (fun e => ∃ d1 : Dev,
      rd d1 (PAIRC.PWINCNT p) = rd s.dev (PAIRC.PWINCNT p) + 1 ∧ RegsStay s.dev d1 [PAIRC.PWINCNT p, PAIRC.PSTAT p]
        ∧ Others s.dev.pair d1.pair p ∧ d1 = { s.dev with regs := d1.regs, pair := d1.pair }
        ∧ pairGet d1 p = { pairGet s.dev p with
            lw := la
            fw := lb
            oq := (pairGet s.dev p).oq.filter (fun x => x.1 != (pairGet s.dev p).num - ((pairGet s.dev p).lw.length)) }
        ∧ ((∀ x ∈ (pairGet s.dev p).oq, x.1 ≠ (pairGet s.dev p).num - (pairGet s.dev p).lw.length) → e = d1)
        ∧ (∀ (m : Nat) (t : TWord),
            (pairGet s.dev p).oq.filter (fun x => x.1 = (pairGet s.dev p).num - (pairGet s.dev p).lw.length) =
              [((pairGet s.dev p).num - (pairGet s.dev p).lw.length, m, t)] → e = storeDone d1 (Fin.ofNat 8 (2 * p)) m t))) ∧
  (∀ (s : State) (p : Fin 4) (a b : BitVec 64) (la lb : List (BitVec 64)), s.pwr.root = true →
    (pairGet s.dev p).lw = a :: la → (pairGet s.dev p).fw = b :: lb → a ≠ b → CanEnter s.dev (2 * p) 14 →
    Does (.windowCompare p) s (fun e => Diverged s.dev e p 1 a b)) ∧
  (∀ (s : State) (p : Fin 4), s.pwr.root = true → paired s.dev p = true → CanEnter s.dev (2 * p) 14 →
    Does (.slipTimeout p) s (fun e => Diverged s.dev e p 3 (coreGet s.dev (2 * p)).sig (coreGet s.dev (2 * p + 1)).sig)) ∧
  (∀ (s : State) (p : Fin 4) (v : Word), s.pwr.root = true →
    ((pairGet s.dev p).run = false → fget PAIRC.PWDCFG_EN v = 1 →
      Does (.watchdogStart p v) s (fun e =>
        rd e (PAIRC.PWDCFG p) = v &&& 0xC0FFFFFF ∧ rd e (PAIRC.PWDCNT p) = w32 (fget PAIRC.PWDCFG_LIMIT (v &&& 0xC0FFFFFF))
          ∧ pairGet e p = { pairGet s.dev p with run := true, done := [] }
          ∧ RegsStay s.dev e [PAIRC.PWDCFG p, PAIRC.PWDCNT p] ∧ e = { s.dev with regs := e.regs, pair := e.pair }))
    ∧ ((pairGet s.dev p).run = true →
        Does (.watchdogStart p v) s (fun e =>
          rd e (PAIRC.PWDCFG p) = fset PAIRC.PWDCFG_WARN (rd s.dev (PAIRC.PWDCFG p)) (fget PAIRC.PWDCFG_WARN v)
            ∧ Only s.dev e [PAIRC.PWDCFG p]))) ∧
  (∀ (s : State) (c : Fin 8) (p : Fin 4), s.pwr.root = true →
    Does (.watchdogService c p 0xC35A) s (fun e =>
      pairGet e p = { pairGet s.dev p with key := some c.val } ∧ RegsStay s.dev e [PAIRC.PWDSVC p])
    ∧ ((pairGet s.dev p).key = some c.val → gf s.dev (PAIRC.PWDCFG p) PAIRC.PWDCFG_BOTH = 0 →
        Does (.watchdogService c p 0x5AC3) s (fun e =>
          rd e (PAIRC.PWDCNT p) = w32 (gf s.dev (PAIRC.PWDCFG p) PAIRC.PWDCFG_LIMIT)
            ∧ pairGet e p = { pairGet s.dev p with key := none, done := [] }
            ∧ RegsStay s.dev e [PAIRC.PWDSVC p, PAIRC.PWDCNT p]))) ∧
  (∀ (s : State) (p : Fin 4), s.pwr.root = true →
    ((pairGet s.dev p).run = true → gf s.dev (PAIRC.PWDCNT p) PAIRC.PWDCNT_LEFT = 0 → s.dev.boot.wd = false →
      Does (.watchdogExpiry p) s (fun e => PairIsReset s.dev e p 1))
    ∧ Does (.pairReset p false) s (fun e => PairIsReset s.dev e p 2)) ∧
  (∀ (s : State) (p : Fin 4) (o : Nat) (v : Word) (r : Reg) (m : Word) (bad : Bool), s.pwr.root = true → o < 0x40 →
    pairTicked (0x40 * p + o) v = some (r, m, bad, some p.val) →
    (bad = false → Does (.paircConfigWrite (0x40070000 + 0x40 * p + o) v) s (fun e => PendingTo s.dev e r (v &&& m)))
    ∧ (bad = true → Does (.paircConfigWrite (0x40070000 + 0x40 * p + o) v) s (fun e =>
        FlagUp s.dev e (PAIRC.PSTAT p) 3 (gf s.dev (PAIRC.PSEL p) PAIRC.PSEL_IE) (8 + p)
          ∧ Only s.dev e [PAIRC.PSTAT p, ipend (8 + p)])))

/-- A member that follows (RESYNC or STANDBY) takes a ticked write into its pending copy and nothing else; the heartbeat of
an ACTIVE partner shows it in TWSTAT and is remembered. A member ACTIVE since before this tick yields to an asserted
partner: it goes to RESYNC, its TWINACT is deasserted, every leg of its RUNNING triads is off, the flag is set and an event
is posted. SWITCH asks a STANDBY member for a switchover at the tick. REBIND of an ACTIVE member without a ready partner
starts the image of all ticked registers and the firmware area; of another it does nothing. (R450, R452, R453, R454, R457,
R461, R463, R468) -/
def Obligations.TwinItemsAndCommands : Prop :=
  (∀ (s : State) (a : Nat) (v : Word) (r : Reg), s.pwr.root = true → (twState s.dev = 2 ∨ twState s.dev = 3) →
    tickedAt a = some r →
    Does (.mirrorReceive (.write a v false)) s (fun e =>
      rdPend e r = v ∧ (∀ q : Reg, q.addr ≠ r.addr → rdPend e q = rdPend s.dev q) ∧ e = { s.dev with pend := e.pend })) ∧
  (∀ (s : State) (t : Word) (l : Byte) (v : BitVec 4) (n : BitVec 16), s.pwr.root = true →
    (twState s.dev = 2 ∨ twState s.dev = 3) →
    Does (.mirrorReceive (.heartbeat t 4 l v n)) s (fun e =>
      gf e PAIRC.TWSTAT PAIRC.TWSTAT_PEER = 1 ∧ gf e PAIRC.TWSTAT PAIRC.TWSTAT_PEERRDY = 1 ∧ e.twin.hb = some t
        ∧ e.twin.rline = l.setWidth 32 ∧ RegsStay s.dev e [PAIRC.TWSTAT] ∧ e = { s.dev with regs := e.regs, twin := e.twin })) ∧
  (∀ s : State, s.pwr.root = true → twState s.dev = 4 → s.dev.twin.fresh = false → s.dev.evHold.length < 32 →
    Does .yield s (fun e =>
      twState e = 2 ∧ gf e PAIRC.TWSTAT PAIRC.TWSTAT_ACT = 0 ∧ gf e PAIRC.TWSTAT PAIRC.TWSTAT_PEER = 1
        ∧ bitOf e PAIRC.TWSTAT 1 = true
        ∧ (∀ t j : Nat, t < 16 → j < 3 → (triGet s.dev t).run = true → legHigh e t j = false ∧ legLow e t j = false)
        ∧ (∃ x : HostEv, e.evHold = s.dev.evHold ++ [x] ∧ x.typ = 0x87) ∧ MemStays s.dev e)) ∧
  (∀ s : State, s.pwr.root = true →
    (twState s.dev = 3 → Does .switch s (fun e => e = { s.dev with twin := { s.dev.twin with sw := true } }))
    ∧ (twState s.dev ≠ 3 → twState s.dev ≠ 4 → Does .switch s (fun e => e = s.dev))
    ∧ (twState s.dev = 4 → gf s.dev PAIRC.TWSTAT PAIRC.TWSTAT_PEERRDY = 0 →
        Does .rebind s (fun e => e.twin = { s.dev.twin with image := twinImage s.dev }
          ∧ rd e PAIRC.TWRSZ = w32 ((twinImage s.dev).map mirSize).sum
          ∧ Only { s.dev with twin := e.twin } e [PAIRC.TWRSZ]))
    ∧ (twState s.dev ≠ 4 → Does .rebind s (fun e => e = s.dev)))

/-- A rise of a hardware source and each 1 written to ISET set exactly the pending bits of sources that exist. IVEC takes an
even vector and refuses an odd one with a flag. An arbitration presents the first source in the order of level and number to
the processor it picks: the source is active and no longer pending, and the processor's entry is under way with its level
and vector; an entry of lower level under way there is taken over, its source pending again. Where it is the only source
offered nothing else changes, but its group's hold-off starts where it has one; with none offered nothing changes. The end
of a hold-off clears HACT at its time. (R470, R472, R474, R475, R476, R477, R479, R480, R484, R488) -/
def Obligations.InterruptsArePresented : Prop :=
  (∀ (st : State) (s : Fin 1024), st.pwr.root = true →
    Does (.icuSourceRise s) st (fun e =>
      (s < 512 → srcReserved s = false → Rises st.dev e s ∧ Only st.dev e [ipend s])
        ∧ ((512 ≤ s.val ∨ srcReserved s = true) → e = st.dev))) ∧
  (∀ (s : State) (w : Fin 32) (v : Word), s.pwr.root = true →
    Does (.iset w v) s (fun e =>
      (∀ b : Nat, b < 32 → bitOf e (ICU.IPEND w) b = (bitOf s.dev (ICU.IPEND w) b || (v.getLsbD b && !srcReserved (32 * w + b))))
        ∧ Only s.dev e [ICU.IPEND w])) ∧
  (∀ (st : State) (s : Fin 1024) (v : Word), st.pwr.root = true →
    Does (.ivecWrite s v) st (fun e =>
      (v.getLsbD 0 = false → rd e (ICU.IVEC s) = v ∧ vecVoid e (ICU.IVEC s) = false
          ∧ RegsStay st.dev e [ICU.IVEC s] ∧ e = { st.dev with regs := e.regs, tags := e.tags })
        ∧ (v.getLsbD 0 = true → FlagUp st.dev e ICU.ISTAT 0 (gf st.dev ICU.ISEL ICU.ISEL_IE) 13
            ∧ Only st.dev e [ICU.ISTAT, ipend 13]))) ∧
  (∀ (st : State) (s c : Nat) (l : List Nat), st.pwr.root = true → srcOrder st.dev = s :: l →
    vecVoid st.dev (ICU.IVEC s) = false → procPick st.dev s [] = some c →
    (∀ (k : Nat) (q : EntrySt), (coreGet st.dev k).ent = some q → q.src < 1024 ∧ q.lvl < 16 ∧ q.src ≠ s) →
    Does .interruptPresentation st (fun e =>
      (coreGet e c).ent = some ⟨srcLevel st.dev s, s, rd st.dev (ICU.IVEC s)⟩ ∧ srcPending e s = false ∧ srcActive e s = true)) ∧
  (∀ (st : State) (s c : Nat), st.pwr.root = true → srcOrder st.dev = [s] →
    vecVoid st.dev (ICU.IVEC s) = false → procPick st.dev s [] = some c →
    ((coreGet st.dev c).ent = none →
      Does .interruptPresentation st (fun e =>
        coreGet e c = { coreGet st.dev c with ent := some ⟨srcLevel st.dev s, s, rd st.dev (ICU.IVEC s)⟩ }
          ∧ Others st.dev.core e.core c ∧ rd e (ICU.IACTL c (srcLevel st.dev s)) = w32 (2 ^ 31 + s)
          ∧ gf e (ICU.ICORE c) ICU.ICORE_SRC = s
          ∧ RegsStay st.dev e [ipend s, ICU.IACT (s / 32), ICU.IACTL c (srcLevel st.dev s), ICU.ICORE c, ICU.IGSEL (s / 16)]
          ∧ (gf st.dev (ICU.IHOLD (s / 16)) ICU.IHOLD_HOLD = 0 → rd e (ICU.IGSEL (s / 16)) = rd st.dev (ICU.IGSEL (s / 16)))
          ∧ (gf st.dev (ICU.IHOLD (s / 16)) ICU.IHOLD_HOLD ≠ 0 → gf e (ICU.IGSEL (s / 16)) ICU.IGSEL_HACT = 1
              ∧ find e.hold (s / 16) =
                  some (st.dev.now + gf st.dev (ICU.IHOLD (s / 16)) ICU.IHOLD_HOLD * 64 * fabDiv st.dev))))
    ∧ (∀ q : EntrySt, (coreGet st.dev c).ent = some q → q.src < 1024 → q.src ≠ s →
        Does .interruptPresentation st (fun e =>
          (coreGet e c).ent = some ⟨srcLevel st.dev s, s, rd st.dev (ICU.IVEC s)⟩ ∧ srcPending e q.src = true
            ∧ srcActive e q.src = false
            ∧ gf e ICU.ITKCNT ICU.ITKCNT_CNT = min (gf st.dev ICU.ITKCNT ICU.ITKCNT_CNT + 1) (ftop ICU.ITKCNT_CNT)))) ∧
  (∀ st : State, st.pwr.root = true → srcOrder st.dev = [] → Does .interruptPresentation st (fun e => e = st.dev)) ∧
  (∀ (st : State) (g : Fin 64), st.pwr.root = true →
    (∀ t : Nat, find st.dev.hold g = some t →
      Does (.holdoffEnd g) st (fun e =>
        gf e (ICU.IGSEL g) ICU.IGSEL_HACT = 0 ∧ e.now = max st.dev.now t ∧ find e.hold g = none
          ∧ Only { advanceTo st.dev t with hold := e.hold } e [ICU.IGSEL g]))
    ∧ (find st.dev.hold g = none → Does (.holdoffEnd g) st (fun e => e = st.dev)))

/-- PROGRAM of a line that is erased and not forbidden stores the eight tagged words of the buffer and nothing else; ERASE
writes its BEGIN record to the journal, and at its end the sector reads erased, with no change outside it and the journal. A
command that has to wait is refused with code 1. SUSPEND and AUTO_SUSPEND ask for a suspension, which ends the operation and
keeps the erase; RESUME and AUTO_RESUME run it on. MARGIN reports the lowest line that fails; SWAP counts one more bank
swap; RDP takes an allowed level, and the lowering to level 0 ends with flash and SRAM erased and a unit reset of cause 5.
(R498, R505, R506, R507, R508, R509, R510, R511, R515, R516, R518, R519) -/
def Obligations.FlashCommandsAndTheirEnds : Prop :=
  (∀ (s : State) (a : Nat), s.pwr.root = true → a = 32 * gf s.dev FLASHC.FLADDR FLASHC.FLADDR_ADDR → s.dev.fl.op = 0 →
    s.dev.flSusp = none →
    (flForbidden s.dev a = false → flLineSet s.dev (flBank s.dev a) (flOff a) = false →
      Does .program s (fun e =>
        (∀ k : Nat, k < 8 → rdTW e (flKey s.dev a + 4 * k) = (flBuffer s.dev).getD k tVoid)
          ∧ (∀ x : Nat, (x < flKey s.dev a ∨ flKey s.dev a + 32 ≤ x) → rdByte e x = rdByte s.dev x ∧ rdTag e x = rdTag s.dev x)
          ∧ flLineSet e (flBank s.dev a) (flOff a) = true ∧ e.fl.op = 1 ∧ gf e FLASHC.FLSTAT FLASHC.FLSTAT_OP = 1
          ∧ RegsStay s.dev e [FLASHC.FLSTAT]))
    ∧ (flForbidden s.dev a = false →
        Does .erase s (fun e =>
          e.fl.op = 2 ∧ e.fl.sec = flSec s.dev a ∧ gf e FLASHC.FLSTAT FLASHC.FLSTAT_OP = 2
            ∧ RegsStay s.dev e [FLASHC.FLSTAT, FLASHC.FLJSTAT]
            ∧ (2 ≤ jFree s.dev (jCur s.dev (flBank s.dev a)) → jSeq s.dev (flBank s.dev a) + 1 < 2 ^ 32 →
                jRecord e (jCur s.dev (flBank s.dev a)) (jNext s.dev (jCur s.dev (flBank s.dev a))) =
                  some (2, jSeq s.dev (flBank s.dev a) + 1, flSec s.dev a % 256)
                ∧ ∀ x : Nat, (x < keyFlash (flBank s.dev a) (254 * 65536) ∨ keyFlash (flBank s.dev a) (256 * 65536) ≤ x) →
                    rdByte e x = rdByte s.dev x ∧ rdTag e x = rdTag s.dev x)))
    ∧ (flForbidden s.dev a = false →
        Does .margin s (fun e => e.fl = { op := 3, addr := a, sec := flSec s.dev a, start := s.dev.now }
          ∧ gf e FLASHC.FLSTAT FLASHC.FLSTAT_OP = 3 ∧ Only { s.dev with fl := e.fl } e [FLASHC.FLSTAT]))
    ∧ (gf s.dev FLASHC.FLBOOT FLASHC.FLBOOT_ROM = 1 → s.dev.swaps < 4096 →
        Does .swap s (fun e => e.fl.op = 4 ∧ gf e FLASHC.FLSTAT FLASHC.FLSTAT_OP = 3
          ∧ Only { s.dev with fl := e.fl } e [FLASHC.FLSTAT]))
    ∧ (rdpAllowed s.dev = true → gf s.dev FLASHC.FLRDPKEY FLASHC.FLRDPKEY_NEW ≠ 0 →
        Does .rdp s (fun e => e = { s.dev with rdpNext := gf s.dev FLASHC.FLRDPKEY FLASHC.FLRDPKEY_NEW }))
    ∧ (rdpAllowed s.dev = true → gf s.dev FLASHC.FLRDPKEY FLASHC.FLRDPKEY_NEW = 0 →
        Does .rdp s (fun e => e.fl.op = 5 ∧ e.scrubMark = true
          ∧ Only { s.dev with fl := e.fl, scrubMark := true } e [FLASHC.FLSTAT]))) ∧
  (∀ s : State, s.pwr.root = true → s.dev.fl.op ≠ 0 →
    ∀ c ∈ [Instr.program, .erase, .margin, .swap, .rdp],
      Does c s (fun e => rd e FLASHC.FLCERR = 1 ∧ FlagUp s.dev e FLASHC.FLSTAT 2 (gf s.dev FLASHC.FLSEL FLASHC.FLSEL_IE) 160
        ∧ Only s.dev e [FLASHC.FLSTAT, FLASHC.FLCERR, ipend 160])) ∧
  (∀ s : State, s.pwr.root = true → s.dev.flSusp = none →
    (s.dev.fl.op = 1 →
      Does .programDone s (fun e =>
        e.fl.op = 0 ∧ FlagUp (sf s.dev FLASHC.FLSTAT FLASHC.FLSTAT_OP 0) e FLASHC.FLSTAT 0 (gf s.dev FLASHC.FLSEL FLASHC.FLSEL_IE) 160
          ∧ Only { s.dev with fl := e.fl } e [FLASHC.FLSTAT, ipend 160]))
    ∧ (s.dev.fl.op = 2 → s.dev.fl.sec < 512 → s.dev.fl.sec % 256 < 254 → 1 ≤ jFree s.dev (jCur s.dev (s.dev.fl.sec / 256)) →
        Does .eraseDone s (fun e =>
          e.fl.op = 0 ∧ gf e FLASHC.FLSTAT FLASHC.FLSTAT_OP = 0 ∧ bitOf e FLASHC.FLSTAT 0 = true
            ∧ flLines e s.dev.fl.sec = []
            ∧ (∀ x : Nat, x < 65536 →
                rdByte e (keyFlash (s.dev.fl.sec / 256) (s.dev.fl.sec % 256 * 65536) + x) = 0
                  ∧ rdTag e (keyFlash (s.dev.fl.sec / 256) (s.dev.fl.sec % 256 * 65536) + x) = .void)
            ∧ (∀ x : Nat, (x < keyFlash (s.dev.fl.sec / 256) (s.dev.fl.sec % 256 * 65536)
                  ∨ keyFlash (s.dev.fl.sec / 256) (s.dev.fl.sec % 256 * 65536) + 65536 ≤ x) →
                (x < keyFlash (s.dev.fl.sec / 256) (254 * 65536) ∨ keyFlash (s.dev.fl.sec / 256) (256 * 65536) ≤ x) →
                rdByte e x = rdByte s.dev x ∧ rdTag e x = rdTag s.dev x)))
    ∧ (s.dev.fl.op = 2 → s.dev.fl.ask ≠ 0 →
        Does .eraseSuspended s (fun e =>
          e.fl.op = 0 ∧ e.flSusp = some { addr := s.dev.fl.addr, sec := s.dev.fl.sec, by_ := s.dev.fl.ask, lastRd := s.dev.now }
            ∧ gf e FLASHC.FLSTAT FLASHC.FLSTAT_SUSP = 1 ∧ bitOf e FLASHC.FLSTAT 1 = true
            ∧ Only { s.dev with fl := e.fl, flSusp := e.flSusp } e [FLASHC.FLSTAT, ipend 160]))
    ∧ (s.dev.fl.op = 2 → Does .suspend s (fun e => e = { s.dev with fl := { s.dev.fl with ask := 1 } }))
    ∧ (s.dev.fl.op ≠ 2 →
        Does .suspend s (fun e => rd e FLASHC.FLCERR = 5 ∧ bitOf e FLASHC.FLSTAT 2 = true
          ∧ Only s.dev e [FLASHC.FLSTAT, FLASHC.FLCERR, ipend 160]))
    ∧ (∀ (fail : Bool) (line : BitVec 11), s.dev.fl.op = 3 →
        Does (.marginDone fail line) s (fun e =>
          e.fl.op = 0 ∧ gf e FLASHC.FLSTAT FLASHC.FLSTAT_OP = 0 ∧ bitOf e FLASHC.FLSTAT 0 = true ∧ MemStays s.dev e
            ∧ (fail = false → flLines s.dev s.dev.fl.sec = [] →
                gf e FLASHC.FLMARG FLASHC.FLMARG_FAIL = 0 ∧ e.suspect = s.dev.suspect.filter (· != s.dev.fl.sec))
            ∧ (fail = true → flLines s.dev s.dev.fl.sec = [] →
                gf e FLASHC.FLMARG FLASHC.FLMARG_FAIL = 1 ∧ gf e FLASHC.FLMARG FLASHC.FLMARG_LINE = line.toNat
                  ∧ bitOf e FLASHC.FLSTAT 4 = true)
            ∧ (flLines s.dev s.dev.fl.sec ≠ [] → gf e FLASHC.FLMARG FLASHC.FLMARG_FAIL = 1 ∧ bitOf e FLASHC.FLSTAT 4 = true)
            ∧ RegsStay s.dev e [FLASHC.FLSTAT, FLASHC.FLMARG, ipend 160]))
    ∧ (s.dev.fl.op = 4 →
        Does .swapDone s (fun e =>
          e.swaps = s.dev.swaps + 1 ∧ gf e FLASHC.FLBOOT FLASHC.FLBOOT_SWAPS = (s.dev.swaps + 1) % 65536 ∧ e.fl.op = 0
            ∧ bitOf e FLASHC.FLSTAT 0 = true
            ∧ Only { s.dev with fl := e.fl, swaps := e.swaps } e [FLASHC.FLSTAT, FLASHC.FLBOOT, ipend 160]))
    ∧ (s.dev.fl.op = 5 →
        Does .rdpLowering s (fun e =>
          (∀ x : Nat, (x < 2 ^ 44 ∨ 2 ^ 45 ≤ x) → rdByte e x = 0 ∧ rdTag e x = .void)
            ∧ rd e FLASHC.FLRDP = 0 ∧ rd e SYSCFG.RSTCAUSE = 5 ∧ e.fl.op = 0 ∧ e.flProg = []))) ∧
  (∀ (s : State) (x : EraseSt), s.pwr.root = true → s.dev.flSusp = some x → s.dev.fl.op = 0 →
    Does .resumeErase s (fun e =>
      e.fl = { op := 2, addr := x.addr, sec := x.sec, start := s.dev.now } ∧ e.flSusp = none
        ∧ gf e FLASHC.FLSTAT FLASHC.FLSTAT_OP = 2 ∧ gf e FLASHC.FLSTAT FLASHC.FLSTAT_SUSP = 0
        ∧ Only { s.dev with fl := e.fl, flSusp := none } e [FLASHC.FLSTAT])
    ∧ (x.by_ = 2 →
        Does .autoResume s (fun e =>
          e.fl.op = 2 ∧ e.fl.sec = x.sec ∧ e.flSusp = none ∧ e.now = max s.dev.now (x.lastRd + 64 * fabDiv s.dev)
            ∧ gf e FLASHC.FLSTAT FLASHC.FLSTAT_SUSP = 0 ∧ RegsStay s.dev e [FLASHC.FLSTAT]))) ∧
  (∀ (s : State) (a : Nat), s.pwr.root = true → inFlash a = true → s.dev.fl.op = 2 → s.dev.fl.sec / 256 = flBank s.dev a →
    s.dev.fl.ask = 0 → gf s.dev FLASHC.FLCTL FLASHC.FLCTL_AUTOSUS = 1 →
    Does (.autoSuspend a) s (fun e => e = { s.dev with fl := { s.dev.fl with ask := 2 } }))

/-- A write-back clears the error of its word and changes no content; a scrub of a good line changes nothing but its place
and the time, and one correctable error is counted, reported and due for write-back (of DDR5: written back). The DDRC
becomes RUNNING with or without a zero fill, is OFF when stopped or when training fails, and RUNNING again after a retrain.
Writes to DCFG and DWIN are pending or set the error flag. A RUNNING check-value unit folds exactly the bytes its filter
takes, with its guard word; CVRUN and CVEXP do what R540 and R541 say; a legal configuration write is pending. (R495, R497,
R519, R522, R523, R524, R525, R526, R530, R539, R540, R541) -/
def Obligations.MemoryUpkeepAndCheckValues : Prop :=
  (∀ (s : State) (k : Nat) (l : List Nat), s.pwr.root = true → s.dev.wback = k :: l →
    Does .sramWriteback s (fun e => look e.ecc k 0 = 0 ∧ Others s.dev.ecc e.ecc k
      ∧ e = { s.dev with wback := l, ecc := e.ecc })) ∧
  (∀ (s : State) (n x : Nat), s.pwr.root = true → n = gf s.dev DDRC.SMCTL DDRC.SMCTL_SCRDIV → n ≠ 0 →
    x = 0x4000000 + 4 * s.dev.scrS → (∀ k : Nat, k < 3 → look s.dev.ecc (x + k + 1) 0 = 0) →
    (look s.dev.ecc x 0 = 0 →
      Does .sramScrub s (fun e =>
        e = { advance s.dev (n * fabDiv s.dev) with scrS := (s.dev.scrS + 1) % 786432 }))
    ∧ (look s.dev.ecc x 0 = 1 → x ∉ s.dev.wback → gateOpen s.dev 16 = true →
        Does .sramScrub s (fun e =>
          e.wback = s.dev.wback ++ [x] ∧ rd e DDRC.SMEADDR = w32 (4 * x)
            ∧ gf e DDRC.SMECC DDRC.SMECC_CE = min (gf s.dev DDRC.SMECC DDRC.SMECC_CE + 1) (ftop DDRC.SMECC_CE)
            ∧ FlagUp s.dev e DDRC.SMSTAT 0 (gf s.dev DDRC.SMSEL DDRC.SMSEL_IE) 177
            ∧ RegsStay s.dev e [DDRC.SMECC, DDRC.SMEADDR, DDRC.SMSTAT, ipend 177] ∧ MemStays s.dev e))) ∧
  (∀ (s : State) (n x : Nat), s.pwr.root = true → n = gf s.dev DDRC.DSCRUB DDRC.DSCRUB_DIV → n ≠ 0 →
    ddrRunning s.dev = true → s.dev.ddrUnk = false → x = keyDdr (64 * s.dev.scrD) / 4 →
    (∀ k : Nat, k < 15 → look s.dev.ecc (x + k + 1) 0 = 0) →
    (look s.dev.ecc x 0 = 0 →
      Does .ddrScrub s (fun e =>
        e = { advance s.dev (n * 64 * fabDiv s.dev) with scrD := (s.dev.scrD + 1) % (ddrCap s.dev / 64) }))
    ∧ (look s.dev.ecc x 0 = 1 →
        Does .ddrScrub s (fun e =>
          look e.ecc x 0 = 0 ∧ MemStays s.dev e
            ∧ gf e DDRC.DECC DDRC.DECC_CE = min (gf s.dev DDRC.DECC DDRC.DECC_CE + 1) (ftop DDRC.DECC_CE)
            ∧ FlagUp s.dev e DDRC.DSTAT 2 (gf s.dev DDRC.DSEL DDRC.DSEL_IE) 176))) ∧
  (∀ (s : State) (r hot : Bool), s.pwr.root = true →
    Does (.ddrRefresh r) s (fun e => e = s.dev)
    ∧ Does (.deviceTemperatureHot hot) s (fun e =>
        gf e DDRC.DTEMP DDRC.DTEMP_HOT = (if hot then 1 else 0) ∧ Only s.dev e [DDRC.DTEMP])) ∧
  (∀ s : State, s.pwr.root = true →
    (gf s.dev DDRC.DSTAT DDRC.DSTAT_STATE = 1 → gf s.dev DDRC.DCTL DDRC.DCTL_EN = 1 →
      Does (.ddrcStartDone true) s (fun e =>
        gf e DDRC.DSTAT DDRC.DSTAT_STATE = 2 ∧ bitOf e DDRC.DSTAT 0 = true ∧ RegsStay s.dev e [DDRC.DSTAT, ipend 176]
          ∧ (gf s.dev DDRC.DCTL DDRC.DCTL_ZFILL = 0 → s.dev.scrubMark = false → MemStays s.dev e ∧ e.ddrUnk = s.dev.ddrUnk)
          ∧ ((gf s.dev DDRC.DCTL DDRC.DCTL_ZFILL = 1 ∨ s.dev.scrubMark = true) → e.ddrUnk = false ∧ e.scrubMark = false
              ∧ (∀ x : Nat, x < 2 ^ 36 → rdByte e (keyDdr x) = 0) ∧ ∀ x : Nat, x < 2 ^ 44 → rdByte e x = rdByte s.dev x)))
    ∧ (gf s.dev DDRC.DSTAT DDRC.DSTAT_STATE = 1 →
        Does (.ddrcStartDone false) s (fun e =>
          gf e DDRC.DSTAT DDRC.DSTAT_STATE = 0 ∧ bitOf e DDRC.DSTAT 1 = true ∧ Only s.dev e [DDRC.DSTAT, ipend 176]))
    ∧ (gf s.dev DDRC.DSTAT DDRC.DSTAT_STATE = 3 → gf s.dev DDRC.DCTL DDRC.DCTL_EN = 0 →
        Does .ddrcStopDone s (fun e =>
          gf e DDRC.DSTAT DDRC.DSTAT_STATE = 0 ∧ gf e DDRC.DSTAT DDRC.DSTAT_SREF = 1 ∧ Only s.dev e [DDRC.DSTAT]))
    ∧ (s.dev.ddrRetrain = true →
        Does .ddrcRetrainDone s (fun e =>
          gf e DDRC.DSTAT DDRC.DSTAT_STATE = 2 ∧ gf e DDRC.DSTAT DDRC.DSTAT_SREF = 0
            ∧ Only { s.dev with ddrRetrain := false } e [DDRC.DSTAT]))) ∧
  (∀ (s : State) (v : Word) (w : Fin 16), s.pwr.root = true → gateOpen s.dev 16 = true →
    (fget DDRC.DCFG_DENS v ≠ 3 → Does (.dcfgWrite v) s (fun e => PendingTo s.dev e DDRC.DCFG (v &&& 0x7B)))
    ∧ (fget DDRC.DCFG_DENS v = 3 → Does (.dcfgWrite v) s (fun e =>
        FlagUp s.dev e DDRC.DSTAT 5 (gf s.dev DDRC.DSEL DDRC.DSEL_IE) 176 ∧ Only s.dev e [DDRC.DSTAT, ipend 176]))
    ∧ (1 ≤ fget DDRC.DWIN_DTAG v → fget DDRC.DWIN_DTAG v ≤ 9 →
        Does (.dwinWrite w v) s (fun e => PendingTo s.dev e (DDRC.DWIN w) (v &&& 0x8F0001FF)))
    ∧ ((fget DDRC.DWIN_DTAG v = 0 ∨ 10 ≤ fget DDRC.DWIN_DTAG v) → Does (.dwinWrite w v) s (fun e =>
        FlagUp s.dev e DDRC.DSTAT 5 (gf s.dev DDRC.DSEL DDRC.DSEL_IE) 176 ∧ Only s.dev e [DDRC.DSTAT, ipend 176]))) ∧
  (∀ (s : State) (u : Fin 8) (it : CvuItem), s.pwr.root = true → gateOpen s.dev 15 = true →
    gf s.dev (CVU.CVSTAT u) CVU.CVSTAT_STATE = 2 →
    (cvTake s.dev u it = none → Does (.cvuItemFold u it) s (fun e => e = s.dev))
    ∧ (∀ l g : List Byte, cvTake s.dev u it = some (l, g) →
        (cvBuffered s.dev u + l.length + g.length ≤ 512 →
          Does (.cvuItemFold u it) s (fun e =>
            rd e (CVU.CVRUN u) = crcFold (gf s.dev (CVU.CVCFG u) CVU.CVCFG_POLY) (rd s.dev (CVU.CVRUN u)) (g ++ l)
              ∧ rd e (CVU.CVICNT u) = rd s.dev (CVU.CVICNT u) + 1
              ∧ Only { s.dev with cvBusy := e.cvBusy } e [CVU.CVRUN u, CVU.CVICNT u]))
        ∧ (512 < cvBuffered s.dev u + l.length + g.length →
            Does (.cvuItemFold u it) s (fun e =>
              FlagUp s.dev e (CVU.CVSTAT u) 2 (gf s.dev (CVU.CVSEL u) CVU.CVSEL_IE) (192 + u)
                ∧ gf e (CVU.CVLOST u) CVU.CVLOST_CNT = min (gf s.dev (CVU.CVLOST u) CVU.CVLOST_CNT + 1) (ftop CVU.CVLOST_CNT)
                ∧ Only s.dev e [CVU.CVSTAT u, CVU.CVLOST u, ipend (192 + u)])))) ∧
  (∀ (s : State) (u : Fin 8) (v : Word), s.pwr.root = true → gateOpen s.dev 15 = true →
    (gf s.dev (CVU.CVCFG u) CVU.CVCFG_GUARD = 0 → gf s.dev (CVU.CVCFG u) CVU.CVCFG_POLY ≠ 2 →
      Does (.cvrunWrite u v) s (fun e => rd e (CVU.CVRUN u) = v ∧ Only s.dev e [CVU.CVRUN u]))
    ∧ (gf s.dev (CVU.CVCFG u) CVU.CVCFG_GUARD = 1 → gf s.dev (CVU.CVCFG u) CVU.CVCFG_SRC = 1 →
        gf s.dev (CVU.CVCFG u) CVU.CVCFG_POLY ≠ 2 →
        Does (.cvrunWrite u v) s (fun e =>
          rd e (CVU.CVRUN u) = crcFold (gf s.dev (CVU.CVCFG u) CVU.CVCFG_POLY) v
              (guardWord (ownPip s.dev) (gf s.dev (CVU.CVCTX u) CVU.CVCTX_CTX) (rd s.dev (CVU.CVSEQ u)).toNat)
            ∧ rd e (CVU.CVSEQ u) = rd s.dev (CVU.CVSEQ u) + 1
            ∧ Only { s.dev with cvBusy := e.cvBusy } e [CVU.CVRUN u, CVU.CVSEQ u]))
    ∧ Does (.cvexpWrite u v) s (fun e =>
        rd e (CVU.CVEXP u) = v
          ∧ FlagUp s.dev e (CVU.CVSTAT u) (if v = cvRes s.dev u then 0 else 1) (gf s.dev (CVU.CVSEL u) CVU.CVSEL_IE) (192 + u)
          ∧ Only s.dev e [CVU.CVEXP u, CVU.CVSTAT u, ipend (192 + u)])
    ∧ (gf s.dev (CVU.CVSTAT u) CVU.CVSTAT_STATE = 3 →
        Does (.cvuStopDone u) s (fun e =>
          gf e (CVU.CVSTAT u) CVU.CVSTAT_STATE = (if gf s.dev (CVU.CVCFG u) CVU.CVCFG_EN = 1 then 2 else 0)
            ∧ e.now = max s.dev.now (look s.dev.cvBusy u 0) ∧ Only (advanceTo s.dev e.now) e [CVU.CVSTAT u]))
    ∧ (∀ (o : Nat) (r : Reg) (m : Word), o < 0x40 → cvTicked u o = some (r, m) →
        (cvBad s.dev u o v = false →
          Does (.cvuConfigWrite (0x40060000 + 0x40 * u + o) v) s (fun e => PendingTo s.dev e r (v &&& m)))
        ∧ (cvBad s.dev u o v = true →
            Does (.cvuConfigWrite (0x40060000 + 0x40 * u + o) v) s (fun e =>
              FlagUp s.dev e (CVU.CVSTAT u) 3 (gf s.dev (CVU.CVSEL u) CVU.CVSEL_IE) (192 + u)
                ∧ Only s.dev e [CVU.CVSTAT u, ipend (192 + u)]))))

/-- A fetched entry, or one read again after 1 µs, is held for execution when its phase, version and type are right; a wrong
phase is counted and at the fourth stops the ring, as a wrong major version does; an unknown type completes with status 2.
NOP, COMMIT, WRITE, READ, SNAPSHOT, MBOX and IMAGE_BLOCK have their effect and then complete: WRITE after its writes in
order, READ with the words read, each refused as a whole where the masks bar an address; MBOX with status 5 where the last
message is unread; IMAGE_BLOCK after its lines are programmed. (R574, R575, R576, R577, R578, R579, R580, R581, R591, R593,
R702) -/
def Obligations.RingsFetchAndExecuteDescriptors : Prop :=
  (∀ (s : State) (r : Fin 12) (x : Desc) (c : Instr) (d : Dev), s.pwr.root = true → fetchable s.dev r = true →
    recovery s.dev = false → (ringGet s.dev r).orphan = false →
    (((ringGet s.dev r).wrong = 0 ∧ c = .descriptorFetch r true x ∧ d = s.dev)
      ∨ ((ringGet s.dev r).wrong ≠ 0 ∧ c = .descriptorReread r true x ∧ d = advance s.dev 600)) →
    (dByte x 0x3F % 2 = phaseOf s.dev r (ringIdx s.dev r) → dByte x 1 / 16 = gf s.dev HOST.HFMT HOST.HFMT_RMAJ →
      (typeGood r (dByte x 0) = true →
        Does c s (fun e => (ringGet e r).desc = some x ∧ (ringGet e r).wrong = 0 ∧ e = { d with hostSt := e.hostSt }))
      ∧ (typeGood r (dByte x 0) = false → Does c s (fun e => Completed d e r x 2 0 [] none)))
    ∧ (dByte x 0x3F % 2 = phaseOf s.dev r (ringIdx s.dev r) → dByte x 1 / 16 ≠ gf s.dev HOST.HFMT HOST.HFMT_RMAJ →
        Does c s (fun e => RingStopped d e r 3))
    ∧ (dByte x 0x3F % 2 ≠ phaseOf s.dev r (ringIdx s.dev r) →
        ((ringGet s.dev r).wrong < 3 →
          Does c s (fun e => (ringGet e r).wrong = (ringGet s.dev r).wrong + 1 ∧ (ringGet e r).desc = none
            ∧ e = { d with hostSt := e.hostSt }))
        ∧ (3 ≤ (ringGet s.dev r).wrong → Does c s (fun e => RingStopped d e r 2)))) ∧
  (∀ (s : State) (r : Fin 12) (x : Desc) (t : Nat), s.pwr.root = true → hostUp s.dev = true → (ringGet s.dev r).desc = some x →
    (ringGet s.dev r).orphan = false → dByte x 0 = t →
    (t = 1 → Does (.nop r) s (fun e => Completed s.dev e r x 0 0 [] none))
    ∧ (t = 2 → dByte x 0x10 ≤ 2 → ∀ q : Dev × List Nat, q = armOp s.dev (maskGroups (dHalf x 8)) (dWord x 3) →
        Does (.commit r) s (fun e => ∃ d1 : Dev,
          RegsStay q.1 d1 [] ∧ d1.evHold = q.1.evHold ∧ (dByte x 0x10 = 0 → d1 = q.1)
            ∧ Completed d1 e r x (if q.2 = [] then 0 else 1)
                (if q.2 = [] then 0 else gf q.1 (TICK.CGCTL (leastOf q.2 15)) TICK.CGCTL_LATEMODE) [] (some (dHalf x 8))))
    ∧ (t = 2 → 2 < dByte x 0x10 → Does (.commit r) s (fun e => Completed s.dev e r x 4 0 [] none))
    ∧ (t = 5 → dByte x 4 ≤ 15 →
        Does (.snapshot r) s (fun e => Completed
          (snTrigger s.dev (dByte x 4) 2 (if (dWord x 2).toNat + 2 ^ 32 * (dWord x 3).toNat = 0 then s.dev.tb.toNat
            else (dWord x 2).toNat + 2 ^ 32 * (dWord x 3).toNat) 0xFFFF 0) e r x 0 0 [] none))
    ∧ (t = 5 → 15 < dByte x 4 → Does (.snapshot r) s (fun e => Completed s.dev e r x 4 0 [] none))
    ∧ (t = 6 → gf s.dev CXLC.MBXINST CXLC.MBXINST_FULL = 0 →
        Does (.mbox r) s (fun e =>
          (∀ k : Nat, k < 11 → rd e (CXLC.MBXIN k) = dWord x (2 + k)) ∧ rd e CXLC.MBXINST = w32 (2 ^ 31 + dHalf x 2)
            ∧ FlagUp s.dev e CXLC.CXSTAT 4 (gf s.dev CXLC.CXSEL CXLC.CXSEL_IE) 224
            ∧ rd e (HOST.RIDX r) = rd s.dev (HOST.RIDX r) + 1 ∧ (ringGet e r).desc = none
            ∧ RegsStay s.dev e ([HOST.RIDX r, CXLC.MBXINST, CXLC.CXSTAT, ipend 224] ++ (List.range 11).map CXLC.MBXIN)))
    ∧ (t = 6 → gf s.dev CXLC.MBXINST CXLC.MBXINST_FULL = 1 → Does (.mbox r) s (fun e => Completed s.dev e r x 5 0 [] none))) ∧
  (∀ (s : State) (r : Fin 12) (x : Desc) (l : List (Nat × Word × Word)), s.pwr.root = true → hostUp s.dev = true →
    (ringGet s.dev r).desc = some x → (ringGet s.dev r).orphan = false → dByte x 0 = 3 → 1 ≤ dByte x 4 → dByte x 4 ≤ 6 →
    l = (List.range (dByte x 4)).map (fun j => (j, dWord x (2 + 2 * j), dWord x (3 + 2 * j))) →
    (∀ d1 : Dev, (∀ e ∈ l, recovery s.dev = true ∨ hostAllows s.dev true e.2.1 = true) → hostWriteEach l s.dev = (d1, none) →
      s.dev.boot.stage ≠ 1 → d1.boot.stage ≠ 1 →
      Does (.write r) s (fun e => Completed d1 e r x 0 0 [] none))
    ∧ (∀ j : Nat, recovery s.dev = false → (l.find? (fun e => !hostAllows s.dev true e.2.1)).map (·.1) = some j →
        Does (.write r) s (fun e => Completed s.dev e r x 3 j [] none))) ∧
  (∀ (s : State) (r : Fin 12) (x : Desc) (l : List (Nat × Word)), s.pwr.root = true → hostUp s.dev = true →
    (ringGet s.dev r).desc = some x → (ringGet s.dev r).orphan = false → dByte x 0 = 4 → 1 ≤ dByte x 4 → dByte x 4 ≤ 11 →
    l = (List.range (dByte x 4)).map (fun j => (j, dWord x (2 + j))) →
    (∀ (d1 : Dev) (ws : List Word), (∀ e ∈ l, hostAllows s.dev false e.2 = true) → hostReadEach l s.dev = (d1, ws, none) →
      Does (.read r) s (fun e => Completed d1 e r x 0 0 ws none))
    ∧ (∀ j : Nat, (l.find? (fun e => !hostAllows s.dev false e.2)).map (·.1) = some j →
        Does (.read r) s (fun e => Completed s.dev e r x 3 j [] none))) ∧
  (∀ (s : State) (r : Fin 12) (x : Desc) (buf : List Byte) (off len : Nat), s.pwr.root = true → hostUp s.dev = true →
    (ringGet s.dev r).desc = some x → (ringGet s.dev r).orphan = false → dByte x 0 = 0x10 → off = (dWord x 1).toNat → len = (dWord x 2).toNat →
    off % 32 = 0 → len % 32 = 0 → 32 ≤ len → len ≤ 65536 → off + len ≤ 0xF80000 →
    (∀ d1 d2 : Dev,
      (if (dByte x 0x0C).testBit 0 then
          imageErase ((List.range ((off + len - 1) / 65536 + 1 - off / 65536)).map (fun i => 2 ^ 24 + 65536 * (off / 65536 + i))) s.dev
        else (s.dev, none)) = (d1, none) →
      imageLines buf len ((List.range (len / 32)).map (fun i => (i, 2 ^ 24 + off + 32 * i))) d1 = (d2, none) →
      Does (.imageBlock r true buf) s (fun e => Completed d2 e r x 0 0 [] none))
    ∧ Does (.imageBlock r false buf) s (fun e => Completed s.dev e r x 7 0 [] none))

/-- The oldest event, result or snapshot descriptor that fits is written as the next entry of its ring; its GO makes the
index cover it, a bad one stops the ring and what was on its way waits again. The status line shows all indices; a covered
count fires its vector once, as a message or pending. A snooped line is read again; the read brings the ring's host index
where it is legal, and stops the ring where not; the poll reads every held line again. RCFG starts a ring from index 0 or
refuses it, HFMT takes a supported format while all rings are off, and a doorbell address in use is not changed. (R566,
R567, R568, R570, R571, R572, R582, R583, R585, R587, R593, R594) -/
def Obligations.RingsDeliverAndAreSetUp : Prop :=
  (∀ (s : State) (q : HostEv) (l : List HostEv), s.pwr.root = true → served s.dev = true → ringOn s.dev 2 = true →
    0 < ringRoom s.dev 2 → s.dev.hostSt.rstDone = none → s.dev.evHold = q :: l →
    Does .eventPost s (fun e =>
      e.evHold = l ∧ e.evDrop = false ∧ RegsStay s.dev e [] ∧ (ringGet e 2).next = (ringGet s.dev 2).next + 1
        ∧ (ringGet e 2).fly = (ringGet s.dev 2).fly ++
            [{ upto := (ringGet s.dev 2).next + 1, addr := ringBase s.dev 2 + 64 * ((ringGet s.dev 2).next.toNat % ringN s.dev 2),
               bytes := descBytes s.dev 2 (eventBytes s.dev q), ev := some q }])) ∧
  (∀ s : State, s.pwr.root = true → s.dev.evHold.length < 32 →
    Does .fwMsg s (fun e => e = { s.dev with evHold := s.dev.evHold ++
      [{ typ := 0x85, body := (List.range 11).map (fun k => rd s.dev (CXLC.MBXOUT k)) }] })) ∧
  (∀ (s : State) (r : Fin 12) (f : RingFly) (l : List RingFly), s.pwr.root = true → (ringGet s.dev r).fly = f :: l →
    Does (.itomwrGo r true) s (fun e =>
      rd e (HOST.RIDX r) = f.upto ∧ (ringGet e r).fly = l ∧ RegsStay s.dev e [HOST.RIDX r] ∧ e.hostSt.dirty = true)
    ∧ Does (.itomwrGo r false) s (fun e => (ringGet e r).fly = [] ∧
        RingStopped ((f :: l).foldr (fun f d => flyKeep d f) (ringPut s.dev r { ringGet s.dev r with fly := [] })) e r 4)) ∧
  (∀ s : State, s.pwr.root = true → s.dev.hostSt.dirty = true → served s.dev = true → rd s.dev HOST.HSTLO ≠ 0 →
    Does .statusLineWrite s (fun e =>
      e.hostSt.stat = statWords s.dev (s.dev.hostSt.statN + 1) ∧ e.hostSt.statN = s.dev.hostSt.statN + 1
        ∧ e.hostSt.dirty = false ∧ e = { s.dev with hostSt := e.hostSt })) ∧
  (∀ (s : State) (v : Fin 32) (x : VecSt), s.pwr.root = true → x = look s.dev.hostSt.vec v {} → x.p ≠ 0 → x.cov = x.p →
    max 1 (gf s.dev (HOST.VMOD v) HOST.VMOD_CNT) ≤ x.p →
    Does (.msixFire v) s (fun e =>
      (look e.hostSt.vec v {}).p = 0 ∧ e = { s.dev with hostSt := e.hostSt }
        ∧ (vecMasked s.dev v = false → (look e.hostSt.vec v {}).sent = x.sent + 1 ∧ e.hostSt.pba.getLsbD v = false)
        ∧ (vecMasked s.dev v = true → (look e.hostSt.vec v {}).sent = x.sent ∧ e.hostSt.pba.getLsbD v = true))) ∧
  (∀ (s : State) (k : Fin 8) (x : OqRes), s.pwr.root = true → hostWrites s.dev = true → ringOn s.dev (4 + k) = true →
    s.dev.spill.find? (fun y => y.ring = k.val) = none → s.dev.oq.find? (fun y => y.ring = k.val) = some x →
    x.recs.length ≤ ringRoom s.dev (4 + k) →
    Does (.curdRecordWrite k) s (fun e =>
      e.oq = s.dev.oq.erase x ∧ RegsStay s.dev e [POUT.OQFILL]
        ∧ (ringGet e (4 + k)).next = (ringGet s.dev (4 + k)).next + w32 x.recs.length
        ∧ (ringGet e (4 + k)).fly = (ringGet s.dev (4 + k)).fly ++
            [{ upto := (ringGet s.dev (4 + k)).next + w32 x.recs.length,
               addr := ringBase s.dev (4 + k) + 256 * ((ringGet s.dev (4 + k)).next.toNat % ringN s.dev (4 + k)),
               bytes := x.recs.flatten, res := some x }])) ∧
  (∀ (s : State) (x : SnapSt) (l : List SnapSt), s.pwr.root = true → s.dev.snReady = x :: l → hostWrites s.dev = true →
    ringOn s.dev 3 = true → 0 < ringRoom s.dev 3 →
    Does .snapReady s (fun e =>
      e.snReady = l ∧ e.snHeld = s.dev.snHeld ++ [((ringGet s.dev 3).next.toNat, x)] ∧ RegsStay s.dev e []
        ∧ (ringGet e 3).next = (ringGet s.dev 3).next + 1)) ∧
  (∀ (s : State) (line : Fin 64), s.pwr.root = true →
    (look s.dev.hostSt.line line 0 = 2 →
      Does (.doorbellSnoop line true) s (fun e => look e.hostSt.line line 0 = 1 ∧ e.hostSt.snp = 1
        ∧ e = { s.dev with hostSt := e.hostSt })
      ∧ Does (.doorbellSnoop line false) s (fun e => look e.hostSt.line line 0 = 2 ∧ e.hostSt.snp = 2
        ∧ e = { s.dev with hostSt := e.hostSt }))
    ∧ (∀ (r : Fin 12) (data : List Word) (p : Word), 1 ≤ look s.dev.hostSt.line line 0 → look s.dev.hostSt.line line 0 ≤ 2 →
        ringOn s.dev r = true → gf s.dev (HOST.RCFG r) HOST.RCFG_DBLINE = line →
        (∀ q : Nat, q < 12 → q ≠ r → ringOn s.dev q = false ∨ gf s.dev (HOST.RCFG q) HOST.RCFG_DBLINE ≠ line) →
        p = data.getD (gf s.dev (HOST.RCFG r) HOST.RCFG_DBWORD) 0 →
        (r < 2 → atOrPast p (ringHost s.dev r) = true → (p - ringIdx s.dev r).toNat ≤ ringN s.dev r →
          Does (.doorbellRead line data) s (fun e => rd e (HOST.RHIDX r) = p ∧ look e.hostSt.line line 0 = 2
            ∧ RegsStay s.dev e [HOST.RHIDX r] ∧ e = { s.dev with regs := e.regs, hostSt := e.hostSt }))
        ∧ (r < 2 → (atOrPast p (ringHost s.dev r) = false ∨ ringN s.dev r < (p - ringIdx s.dev r).toNat) →
            Does (.doorbellRead line data) s (fun e => RingStopped s.dev e r 1))
        ∧ (2 ≤ r.val → atOrPast p (ringHost s.dev r) = true → atOrPast (ringIdx s.dev r) p = true →
            Does (.doorbellRead line data) s (fun e => rd e (HOST.RHIDX r) = p ∧ RegsStay s.dev e [HOST.RHIDX r]))
        ∧ (2 ≤ r.val → (atOrPast p (ringHost s.dev r) = false ∨ atOrPast (ringIdx s.dev r) p = false) →
            Does (.doorbellRead line data) s (fun e => RingStopped s.dev e r 5)))
    ∧ (gf s.dev HOST.DBPOLL HOST.DBPOLL_US ≠ 0 →
        Does .doorbellPoll s (fun e => e = { s.dev with hostSt := e.hostSt }
          ∧ look e.hostSt.line line 0 = (if look s.dev.hostSt.line line 0 = 2 then 4 else look s.dev.hostSt.line line 0)))) ∧
  (∀ (s : State) (r : Fin 12) (v w : Word), s.pwr.root = true → served s.dev = true → recovery s.dev = false →
    (r.val ≠ 2 ∨ s.dev.hostSt.reject = none) → w = v &&& 0x81FFFFE0 →
    (fget HOST.RCFG_EN v = 1 → gf s.dev (HOST.RCFG r) HOST.RCFG_EN = 0 → ringRefused s.dev w = false →
      (ringGet s.dev r).desc = none → (ringGet s.dev r).fly = [] →
      Does (.ringEnable r v) s (fun e =>
        rd e (HOST.RCFG r) = w ∧ rd e (HOST.RIDX r) = 0 ∧ rd e (HOST.RHIDX r) = 0 ∧ rd e (HOST.RSTAT r) = 0
          ∧ bitOf e HOST.HSTAT (16 + r) = false ∧ ringGet e r = {}
          ∧ RegsStay s.dev e [HOST.RCFG r, HOST.RIDX r, HOST.RHIDX r, HOST.RSTAT r, HOST.HSTAT]))
    ∧ (fget HOST.RCFG_EN v = 1 → gf s.dev (HOST.RCFG r) HOST.RCFG_EN = 0 → ringRefused s.dev w = true →
        Does (.ringEnable r v) s (fun e =>
          gf e (HOST.RCFG r) HOST.RCFG_EN = 0 ∧ rd e (HOST.RSTAT r) = 6 ∧ bitOf e HOST.HSTAT 1 = true
            ∧ Only s.dev e [HOST.RCFG r, HOST.RSTAT r, HOST.HSTAT]))
    ∧ (fget HOST.RCFG_EN v = 0 →
        Does (.ringEnable r v) s (fun e =>
          rd e (HOST.RCFG r) = w ∧ bitOf e HOST.HSTAT (16 + r) = false ∧ (ringGet e r).desc = (ringGet s.dev r).desc
            ∧ RegsStay s.dev e [HOST.RCFG r, HOST.HSTAT]))) ∧
  (∀ (s : State) (v : Word), s.pwr.root = true → served s.dev = true → recovery s.dev = false →
    (ringsOff s.dev = true → fget HOST.HFMT_RMAJ v = 1 → fget HOST.HFMT_RMIN v ≤ 1 → fget HOST.HFMT_CMAJ v = 1 →
      fget HOST.HFMT_CMIN v ≤ 1 →
      Does (.hfmtWrite v) s (fun e => rd e HOST.HFMT = v ∧ gf e POUT.OFMT POUT.OFMT_MINOR = fget HOST.HFMT_CMIN v
        ∧ gf e POUT.OFMT POUT.OFMT_MAJOR = 1 ∧ Only s.dev e [HOST.HFMT, POUT.OFMT]))
    ∧ ((ringsOff s.dev = false ∨ fget HOST.HFMT_RMAJ v ≠ 1 ∨ fget HOST.HFMT_CMAJ v ≠ 1) →
        Does (.hfmtWrite v) s (fun e => bitOf e HOST.HSTAT 0 = true ∧ Only s.dev e [HOST.HSTAT]))) ∧
  (∀ (s : State) (k : Fin 64) (v : Word), s.pwr.root = true → served s.dev = true →
    ((∀ r : Nat, r < 12 → gf s.dev (HOST.RCFG r) HOST.RCFG_EN = 1 → gf s.dev (HOST.RCFG r) HOST.RCFG_DBLINE ≠ k) →
      Does (.doorbellAddressWrite (0x300 + 8 * k) v) s (fun e =>
        rd e (HOST.DBLO k) = v &&& 0xFFFFFFC0 ∧ Only s.dev e [HOST.DBLO k])
      ∧ Does (.doorbellAddressWrite (0x304 + 8 * k) v) s (fun e => rd e (HOST.DBHI k) = v ∧ Only s.dev e [HOST.DBHI k]))
    ∧ (∀ r : Fin 12, gf s.dev (HOST.RCFG r) HOST.RCFG_EN = 1 → gf s.dev (HOST.RCFG r) HOST.RCFG_DBLINE = k →
        Does (.doorbellAddressWrite (0x300 + 8 * k) v) s (fun e => bitOf e HOST.HSTAT 1 = true ∧ Only s.dev e [HOST.HSTAT])))

/-- Training ends at the widths and speeds both sides have; L1 is entered and left; the loss of the link, FLR, CXL Reset and
a hot reset reset the host side with their cause, every ring off and no completion waiting. A BAR0 read gives the register's
word and an access that is no aligned dword only an error. A decoder is committed or its error is shown; a memory access
through one reads or writes its 64 bytes of DDR5, and one through none is counted and poisoned. A granule goes to device
bias and its waiting lanes then write. A legal configuration write is pending. (R549, R551, R555, R556, R557, R558, R560,
R561, R588, R589, R590, R592) -/
def Obligations.CxlLinkMemoryAndResets : Prop :=
  (∀ (s : State) (w : Fin 4) (spd : Fin 6), s.pwr.root = true → gf s.dev CXLC.CXCFG CXLC.CXCFG_EN = 1 →
    (linkState s.dev = 0 ∨ linkState s.dev = 1) → spd ≠ 0 →
    Does (.cxlLinkUp w spd) s (fun e =>
      linkState e = 2 ∧ gf e CXLC.CXSTAT CXLC.CXSTAT_WIDTH = 2 ^ min w.val (gf s.dev CXLC.CXCFG CXLC.CXCFG_MAXW)
        ∧ gf e CXLC.CXSTAT CXLC.CXSTAT_SPEED = min spd.val (gf s.dev CXLC.CXCFG CXLC.CXCFG_MAXSPD)
        ∧ bitOf e CXLC.CXSTAT 0 = true ∧ RegsStay s.dev e [CXLC.CXSTAT, ipend 224])) ∧
  (∀ s : State, s.pwr.root = true →
    (linkState s.dev = 2 → Does .l1Entry s (fun e => linkState e = 3 ∧ Only s.dev e [CXLC.CXSTAT]))
    ∧ (linkState s.dev = 3 → Does .l1Exit s (fun e => linkState e = 2 ∧ Only s.dev e [CXLC.CXSTAT]))
    ∧ (linkState s.dev = 1 → Does .cxlLinkDown s (fun e => linkState e = 0 ∧ bitOf e CXLC.CXSTAT 1 = true
        ∧ Only s.dev e [CXLC.CXSTAT, ipend 224]))
    ∧ (hostUp s.dev = true →
        Does .cxlLinkDown s (fun e => HostIsReset s.dev e 3 ∧ linkState e = 0 ∧ bitOf e CXLC.CXSTAT 1 = true)
        ∧ Does .flr s (fun e => HostIsReset s.dev e 1 ∧ e.hostSt.hdm = s.dev.hostSt.hdm ∧ linkState e = linkState s.dev)
        ∧ Does .cxlReset s (fun e => HostIsReset s.dev e 4 ∧ e.hostSt.hdm = [] ∧ linkState e = linkState s.dev)
        ∧ Does .hotReset s (fun e => HostIsReset s.dev e 2 ∧ e.hostSt.hdm = [] ∧ linkState e = 1))) ∧
  (∀ (s : State) (r : Fin 12) (a n : Nat) (v : Option Word), s.pwr.root = true → served s.dev = true →
    Does (.bar0Access (0x10C + 0x20 * r) 4 none) s (fun e => e.hostSt.barData = rd s.dev (HOST.RIDX r) ∧ RegsStay s.dev e [])
    ∧ (∀ w : Word, Does (.bar0Access 0x10 4 (some w)) s (fun e =>
        gf e HOST.DBPOLL HOST.DBPOLL_US = w.toNat % 65536 ∧ Only s.dev e [HOST.DBPOLL]))
    ∧ ((n ≠ 4 ∨ a % 4 ≠ 0) →
        Does (.bar0Access a n v) s (fun e => bitOf e HOST.HSTAT 1 = true ∧ e.hostSt.barData = 0 ∧ RegsStay s.dev e [HOST.HSTAT]))) ∧
  (∀ (s : State) (base size skip ways gran : Nat), s.pwr.root = true →
    (size % 2 ^ 28 = 0 → size ≠ 0 → ways ∈ [1, 2, 4, 8] → gran ∈ [256, 512, 1024, 2048, 4096, 8192, 16384] →
      skip + size / ways ≤ ddrCap s.dev →
      Does (.hdmDecoderCommit 0 base size skip ways gran) s (fun e =>
        find e.hostSt.hdm 0 = some ⟨base, size, skip, ways, gran⟩ ∧ e = { s.dev with hostSt := e.hostSt }))
    ∧ (size % 2 ^ 28 ≠ 0 →
        Does (.hdmDecoderCommit 0 base size skip ways gran) s (fun e =>
          e.hostSt.hdm = s.dev.hostSt.hdm ∧ e.hostSt.hdmErr.getLsbD 0 = true ∧ e = { s.dev with hostSt := e.hostSt }))) ∧
  (∀ (s : State) (a x : Nat), s.pwr.root = true → memActive s.dev = true → hdmDpa s.dev (a / 64 * 64) = some x →
    (∀ b : List Byte, b.length = 64 →
      Does (.cxlMemAccess a (some b)) s (fun e =>
        rdBytes e (keyDdr x) 64 = b
          ∧ (∀ k : Nat, (k < keyDdr x ∨ keyDdr x + 64 ≤ k) → rdByte e k = rdByte s.dev k) ∧ RegsStay s.dev e [CXLC.BIASWR]))
    ∧ (s.dev.ddrUnk = false → (∀ i : Nat, i < 16 → look s.dev.ecc (keyDdr (x + 4 * i) / 4) 0 = 0) →
        Does (.cxlMemAccess a none) s (fun e =>
          e.hostSt.memData = some (rdBytes s.dev (keyDdr x) 64) ∧ e = { s.dev with hostSt := e.hostSt }))) ∧
  (∀ (s : State) (a : Nat) (w : Option (List Byte)), s.pwr.root = true →
    (memActive s.dev = false ∨ hdmDpa s.dev (a / 64 * 64) = none) →
    Does (.cxlMemAccess a w) s (fun e =>
      e.hostSt.memData = none ∧ gf e CXLC.MEMERR CXLC.MEMERR_CNT = min (gf s.dev CXLC.MEMERR CXLC.MEMERR_CNT + 1) (ftop CXLC.MEMERR_CNT)
        ∧ FlagUp s.dev e CXLC.CXSTAT 5 (gf s.dev CXLC.CXSEL CXLC.CXSEL_IE) 224 ∧ MemStays s.dev e)) ∧
  (∀ (s : State) (g : Nat), s.pwr.root = true →
    (look s.dev.bias g 0 = 0 →
      (∃ c ∈ granuleLanes s.dev g, ∀ x ∈ (celGranules s.dev c).takeWhile (· != g), look s.dev.bias x 0 ≠ 0) →
      hostUp s.dev = true →
      Does (.biasFlip g) s (fun e => look e.bias g 0 = 1 ∧ Others s.dev.bias e.bias g ∧ e = { s.dev with bias := e.bias }))
    ∧ (look s.dev.bias g 0 = 1 → (∀ c ∈ granuleLanes s.dev g, (look s.dev.cel c {}).hold = []) →
        Does (.biasFlipDone g) s (fun e => look e.bias g 0 = 2 ∧ Others s.dev.bias e.bias g
          ∧ e = { s.dev with bias := e.bias, cel := e.cel } ∧ ∀ c : Nat, look e.cel c {} = look s.dev.cel c {}))
    ∧ (∀ (c : Nat) (w : Word) (t : Nat), look s.dev.bias g 0 = 1 → granuleLanes s.dev g = [c] →
        (look s.dev.cel c {}).hold = [(w, t)] →
        (celBase s.dev c + 0x40 + 4 * ((look s.dev.cel c {}).count % celLen s.dev c)) / 2 ^ 21 = g →
        Does (.biasFlipDone g) s (fun e =>
          (look e.cel c {}).hold = [] ∧ (look e.cel c {}).count = (look s.dev.cel c {}).count + 1
            ∧ rdW e (keyDdr (celBase s.dev c + 0x40 + 4 * ((look s.dev.cel c {}).count % celLen s.dev c))) = w))) ∧
  (∀ (s : State) (o : Nat) (v : Word) (r : Reg) (m : Word) (bad : Bool), s.pwr.root = true → gateOpen s.dev 18 = true →
    o < 0x800 → cxlcTicked o v = some (r, m, bad) →
    (bad = false → Does (.cxlcConfigWrite (0x40090000 + o) v) s (fun e => PendingTo s.dev e r (v &&& m)))
    ∧ (bad = true → Does (.cxlcConfigWrite (0x40090000 + o) v) s (fun e =>
        FlagUp s.dev e CXLC.CXSTAT 6 (gf s.dev CXLC.CXSEL CXLC.CXSEL_IE) 224 ∧ Only s.dev e [CXLC.CXSTAT, ipend 224])))

/-- A port whose partner wakes trains; at the end it is refused for its wiring or is FULL, towards the parent with the HEAD
unit's time taken, slewed to or reported as too far. DREQ is answered with the own time. DRSP corrects the delay. A marker
from the parent gives the mean offset and gains or loses alignment; TJUMP closes a reported offset at the next one. A
slewing unit moves one step at a time and stops at 0. The loss of the parent link ends alignment; a link that goes down
drops and counts its queue. Sixteen coarse markers move the HUSK edges by at most one crystal cycle. (R598, R605, R606,
R607, R608, R609, R610, R611, R615, R632, R634, R638) -/
def Obligations.ChainLinksAndTime : Prop :=
  (∀ (s : State) (p : Fin 3), s.pwr.root = true → portSt s.dev p = 0 →
    (gf s.dev CHAIN.CHCFG CHAIN.CHCFG_PORTEN).testBit p = true → gateOpen s.dev 17 = true →
    Does (.partnerLeavesElectricalIdle p) s (fun e =>
      portSt e p = 1 ∧ look e.port p {} = {} ∧ FlagUp s.dev e CHAIN.CHSTAT 0 (gf s.dev CHAIN.CHSEL CHAIN.CHSEL_IE) 208
        ∧ RegsStay s.dev e [CHAIN.CHPSTAT p, CHAIN.CHSTAT, ipend 208])) ∧
  (∀ (s : State) (p : Fin 3) (x : Peer), s.pwr.root = true → portSt s.dev p = 1 →
    (wiringGood p x = false → Does (.linkTrained p x) s (fun e => portSt e p = 4 ∧ bitOf e CHAIN.CHSTAT 7 = true
      ∧ e.tb = s.dev.tb ∧ RegsStay s.dev e [CHAIN.CHPSTAT p, CHAIN.CHSTAT, ipend 208]))
    ∧ (wiringGood p x = true → x.parent = false → isHead s.dev = false →
        Does (.linkTrained p x) s (fun e => portSt e p = 2 ∧ e.tb = s.dev.tb ∧ parentPort e = parentPort s.dev))
    ∧ (wiringGood p x = true → x.parent = true → isHead s.dev = false →
        (s.dev.chain.aligned = false → 0 ≤ x.off →
          Does (.linkTrained p x) s (fun e => portSt e p = 2 ∧ parentPort e = some p.val
            ∧ e.tb = s.dev.tb + BitVec.ofInt 64 x.off ∧ e.tickno = x.tickno ∧ e.tphase = x.tphase))
        ∧ (s.dev.chain.aligned = true → x.off ≠ 0 → x.off.natAbs ≤ 16384 →
            Does (.linkTrained p x) s (fun e => portSt e p = 2 ∧ parentPort e = some p.val ∧ slewing e = true
              ∧ e.chain.off = 32 * x.off ∧ e.tb = s.dev.tb))
        ∧ (s.dev.chain.aligned = true → 16384 < x.off.natAbs →
            Does (.linkTrained p x) s (fun e => portSt e p = 2 ∧ parentPort e = some p.val ∧ bitOf e CHAIN.CHSTAT 4 = true
              ∧ e.chain.far = true ∧ e.tb = s.dev.tb)))) ∧
  (∀ (s : State) (p : Fin 3), s.pwr.root = true → (portUp s.dev p = true ∨ portSt s.dev p = 1) →
    Does (.dreq p) s (fun e => RegsStay s.dev e [] ∧ ∃ f : Frame, look e.chq p [] = look s.dev.chq p [] ++ [f]
      ∧ f.cls = 1 ∧ f.sub = 2 ∧ f.scope = 3 ∧ (f.payload.drop 8).take 8 = leBytes 8 s.dev.tb.toNat
      ∧ Others s.dev.chq e.chq p)) ∧
  (∀ (s : State) (p : Fin 3) (rtt : Nat) (f : Frame) (v : Int), s.pwr.root = true →
    v = (rtt : Int) - (ofLeBytes (f.payload.take 8) : Int) + (BitVec.ofNat 16 (gf s.dev (CHAIN.CHPASYM p) CHAIN.CHPASYM_ASYM)).toInt →
    (portSt s.dev p = 1 →
      Does (.drsp p rtt f) s (fun e => look e.port p {} = { look s.dev.port p {} with
          acc := (look s.dev.port p {}).acc + v
          n := (look s.dev.port p {}).n + 1 } ∧ e = { s.dev with port := e.port }))
    ∧ (portUp s.dev p = true → parentPort s.dev = some p.val →
        Does (.drsp p rtt f) s (fun e =>
          (look e.port p {}).d = (look s.dev.port p {}).d + (v * 32768 - (look s.dev.port p {}).d) / 16
            ∧ Only { s.dev with port := e.port } e [CHAIN.CHPDLY p]))) ∧
  (∀ (s : State) (p : Fin 3) (m : Marker) (l : List Int), s.pwr.root = true → parentPort s.dev = some p.val →
    portSt s.dev p = 2 → l = (m.eps :: s.dev.chain.eps).take 16 → s.dev.chain.fix = false →
    (s.dev.chain.jump = false →
      Does (.tickMarkerReceive p m) s (fun e =>
        rd e CHAIN.CHOFS = ofInt ((l.sum / (l.length : Int) + 50) / 100) ∧ e.chain.eps = l ∧ e.tb = s.dev.tb
          ∧ gf e CHAIN.CHSTAT CHAIN.CHSTAT_ALN =
              (if m.aln && !slewing s.dev && !s.dev.chain.far && decide ((l.sum / (l.length : Int)).natAbs ≤ 4500) then 1 else 0)
          ∧ RegsStay s.dev e [CHAIN.CHOFS, CHAIN.CHSTEP, CHAIN.CHSTAT, CHAIN.CHTERR, ipend 208]))
    ∧ (∀ k : Nat, s.dev.chain.jump = true → s.dev.chain.off / 32 = k →
        Does (.tickMarkerReceive p m) s (fun e =>
          e.tb = s.dev.tb + BitVec.ofNat 64 k ∧ e.chain.jump = false ∧ e.chain.far = false ∧ e.chain.off = 0
            ∧ e.tphase = (s.dev.tphase + k) % gf s.dev TICK.TICKPER TICK.TICKPER_PER
            ∧ e.tickno = s.dev.tickno + BitVec.ofNat 48 ((s.dev.tphase + k) / gf s.dev TICK.TICKPER TICK.TICKPER_PER)))) ∧
  (∀ s : State, s.pwr.root = true →
    (slewing s.dev = true →
      Does .slewStep s (fun e => e.now = max s.dev.now s.dev.chain.slewAt
        ∧ e.chain.off = (if 0 < s.dev.chain.off then s.dev.chain.off - 1 else if s.dev.chain.off < 0 then s.dev.chain.off + 1 else 0)
        ∧ (slewing e = true ↔ e.chain.off ≠ 0) ∧ RegsStay s.dev e [CHAIN.CHSTAT]))
    ∧ (gateOpen s.dev 17 = true → bitOf s.dev CHAIN.CHSTAT 4 = true → s.dev.chain.far = true →
        Does .tjump s (fun e => e = { s.dev with chain := { s.dev.chain with jump := true } }))
    ∧ (∀ p : Nat, parentPort s.dev = some p → s.dev.chain.lost = false → portSt s.dev p ≠ 0 →
        Does .parentLinkLoss s (fun e => portSt e p = 0 ∧ parentPort e = some p ∧ gf e CHAIN.CHSTAT CHAIN.CHSTAT_ALN = 0
          ∧ bitOf e CHAIN.CHSTAT 1 = true ∧ bitOf e CHAIN.CHSTAT 0 = true
          ∧ gf e CHAIN.CHTERR CHAIN.CHTERR_ALNL = min (gf s.dev CHAIN.CHTERR CHAIN.CHTERR_ALNL + 1) (ftop CHAIN.CHTERR_ALNL)
          ∧ RegsStay s.dev e [CHAIN.CHPSTAT p, CHAIN.CHSTAT, CHAIN.CHTERR, ipend 208]))
    ∧ (∀ p : Fin 3, s.dev.boot.stage ≠ 10 → Does (.portQueueDrop p) s (fun e => portSt e p = 0 ∧ look e.chq p [] = [] ∧ Others s.dev.chq e.chq p
        ∧ gf e (CHAIN.CHPERR p) CHAIN.CHPERR_LOST =
            min (gf s.dev (CHAIN.CHPERR p) CHAIN.CHPERR_LOST + (look s.dev.chq p []).length) (ftop CHAIN.CHPERR_LOST)
        ∧ RegsStay s.dev e [CHAIN.CHPSTAT p, CHAIN.CHSTAT, CHAIN.CHPERR p, ipend 208]))) ∧
  (∀ (s : State) (p : Fin 3) (x : Int), portSt s.dev p = 3 →
    (s.dev.chain.coarse.length < 15 →
      Does (.coarseMarkerReceive p x) s (fun e => e = { s.dev with chain := { s.dev.chain with coarse := x :: s.dev.chain.coarse } }))
    ∧ (15 ≤ s.dev.chain.coarse.length →
        Does (.coarseMarkerReceive p x) s (fun e => e.chain.coarse = [] ∧ (e.chain.husk - s.dev.chain.husk).natAbs ≤ 1
          ∧ e = { s.dev with chain := e.chain })))

/-- A bad frame is counted; a frame of chain or system scope that is no MGMT frame leaves unchanged on every other up port;
an ARM frame not seen before arms its groups. A port sends its first frame by class. An unacknowledged frame is repeated up
to three times, then counted as lost. A SYNC frame that differs is reported and with TKFIX corrected. A shelf block in time
is stored as BITS with its presence bit, a late one counted. Enumeration, MAPGO, joining, leaving and RELEASE keep the table
as R624 to R628 say. A legal configuration write is pending. (R602, R612, R614, R615, R616, R620, R624, R625, R626, R627,
R628, R637) -/
def Obligations.ChainFramesAndTopology : Prop :=
  (∀ (s : State) (p : Fin 3) (f : Frame), s.pwr.root = true → portUp s.dev p = true →
    Does (.frameReceive p false f) s (fun e =>
      gf e (CHAIN.CHPERR p) CHAIN.CHPERR_CRC = min (gf s.dev (CHAIN.CHPERR p) CHAIN.CHPERR_CRC + 1) (ftop CHAIN.CHPERR_CRC)
        ∧ Only s.dev e [CHAIN.CHPERR p])
    ∧ (f.cls ≠ 4 → (f.scope = 1 ∨ f.scope = 2) →
        Does (.frameReceive p true f) s (fun e =>
          (∀ q : Nat, q < 3 → look e.chq q [] = look s.dev.chq q [] ++ (if q ≠ p ∧ portUp s.dev q then [f] else []))
            ∧ e = { s.dev with chq := e.chq }))
    ∧ (f.cls = 4 → f.scope = 2 → f.sub = 3 →
        (f.src.toNat + (if f.nopip then 512 else 0), f.seq.toNat) ∉ s.dev.chain.seen →
        Does (.frameReceive p true f) s (fun e => ∃ d1 : Dev,
          e = (armOp d1 (maskGroups (ofLeBytes (f.payload.take 2))) (BitVec.ofNat 32 (ofLeBytes ((f.payload.drop 4).take 4)))).1
            ∧ d1 = { s.dev with chq := d1.chq, chain := d1.chain }
            ∧ (f.src.toNat + (if f.nopip then 512 else 0), f.seq.toNat) ∈ d1.chain.seen))
    ∧ (f.cls = 4 → f.scope = 2 → f.sub = 3 →
        (f.src.toNat + (if f.nopip then 512 else 0), f.seq.toNat) ∈ s.dev.chain.seen →
        Does (.frameReceive p true f) s (fun e => e = { s.dev with chq := e.chq }))) ∧
  (∀ (s : State) (p : Fin 3) (f : Frame), s.pwr.root = true → s.dev.boot.stage ≠ 10 → portUp s.dev p = true → firstOf (look s.dev.chq p []) = some f →
    (portSt s.dev p = 2 →
      Does (.frameSend p) s (fun e => look e.chq p [] = (look s.dev.chq p []).erase f ∧ Others s.dev.chq e.chq p
        ∧ e = { s.dev with chq := e.chq, chAck := e.chAck }))
    ∧ (portSt s.dev p = 3 → (f.cls = 2 ∨ f.cls = 3) →
        Does (.frameSend p) s (fun e => look e.chq p [] = (look s.dev.chq p []).erase f
          ∧ gf e (CHAIN.CHPERR p) CHAIN.CHPERR_LOST = min (gf s.dev (CHAIN.CHPERR p) CHAIN.CHPERR_LOST + 1) (ftop CHAIN.CHPERR_LOST)
          ∧ Only { s.dev with chq := e.chq } e [CHAIN.CHPERR p]))) ∧
  (∀ (s : State) (a : AckWait) (l : List AckWait), s.pwr.root = true → s.dev.chAck = a :: l →
    (a.tries < 3 → portUp s.dev a.port = true →
      Does .mgmtRetry s (fun e => e.now = max s.dev.now a.due ∧ look e.chq a.port [] = look s.dev.chq a.port [] ++ [a.frame]
        ∧ e.chAck = l ++ [{ a with due := e.now + 12000, tries := a.tries + 1 }] ∧ RegsStay s.dev e []))
    ∧ (3 ≤ a.tries →
        Does .mgmtRetry s (fun e => e.chAck = l
          ∧ gf e (CHAIN.CHPERR a.port) CHAIN.CHPERR_LOST =
              min (gf s.dev (CHAIN.CHPERR a.port) CHAIN.CHPERR_LOST + 1) (ftop CHAIN.CHPERR_LOST)
          ∧ RegsStay s.dev e [CHAIN.CHPERR a.port]))) ∧
  (∀ (s : State) (t : Nat) (f : Frame) (l : List (Nat × Frame)), s.pwr.root = true → s.dev.chTwice = (t, f) :: l →
    Does .mgmtSecondCopy s (fun e => e.chTwice = l ∧ e.now = max s.dev.now t ∧ RegsStay s.dev e []
      ∧ ∀ q : Nat, q < 3 → look e.chq q [] = look s.dev.chq q [] ++ (if portUp s.dev q then [f] else []))) ∧
  (∀ (s : State) (f : Frame) (n : Nat) (per : Word), s.pwr.root = true → n = ofLeBytes (f.payload.take 6) →
    per = BitVec.ofNat 32 (ofLeBytes ((f.payload.drop 8).take 4)) →
    (n = s.dev.tickno.toNat → per = rd s.dev TICK.TICKPER → Does (.syncReceive f) s (fun e => e = s.dev))
    ∧ ((n ≠ s.dev.tickno.toNat ∨ per ≠ rd s.dev TICK.TICKPER) →
        Does (.syncReceive f) s (fun e =>
          FlagUp s.dev e CHAIN.CHSTAT 3 (gf s.dev CHAIN.CHSEL CHAIN.CHSEL_IE) 208
            ∧ gf e CHAIN.CHTERR CHAIN.CHTERR_TK = min (gf s.dev CHAIN.CHTERR CHAIN.CHTERR_TK + 1) (ftop CHAIN.CHTERR_TK)
            ∧ (gf s.dev CHAIN.CHCFG CHAIN.CHCFG_TKFIX = 0 → Only s.dev e [CHAIN.CHSTAT, CHAIN.CHTERR, ipend 208])
            ∧ (gf s.dev CHAIN.CHCFG CHAIN.CHCFG_TKFIX = 1 → rd e TICK.TICKPER = per &&& 0x7FFFFF ∧ e.chain.fix = true)))) ∧
  (∀ (s : State) (f : Frame) (i a : Nat), s.pwr.root = true → inScope s.dev f = true → f.nopip = false →
    gf s.dev CHAIN.XCFG CHAIN.XCFG_SUB = 1 →
    f.src.toNat = gf s.dev CHAIN.XCFG CHAIN.XCFG_XLO + i → i < 32 → (rd s.dev CHAIN.XSUB).getLsbD i = true →
    a = 32768 * gf s.dev CHAIN.XRBASE CHAIN.XRBASE_ADDR + 8192 * (f.seq.toNat % 4) + 256 * i → f.payload.length ≤ 256 →
    (((tnoLow s.dev).setWidth 16 - f.seq).toNat < xlat s.dev →
      Does (.xdataReceive f) s (fun e =>
        (∀ k : Nat, 4 * k + 3 < f.payload.length →
            rdTW e (a + 4 * k) = tBits (BitVec.ofNat 32 (ofLeBytes ((f.payload.drop (4 * k)).take 4))))
          ∧ (∀ x : Nat, (x < a ∨ a + 256 ≤ x) → rdByte e x = rdByte s.dev x)
          ∧ bitOf e (CHAIN.XPRES (f.seq.toNat % 4)) i = true ∧ RegsStay s.dev e [CHAIN.XPRES (f.seq.toNat % 4)]))
    ∧ (xlat s.dev ≤ ((tnoLow s.dev).setWidth 16 - f.seq).toNat → ((tnoLow s.dev).setWidth 16 - f.seq).toNat < 32768 →
        Does (.xdataReceive f) s (fun e =>
          gf e CHAIN.XERR CHAIN.XERR_LATE = min (gf s.dev CHAIN.XERR CHAIN.XERR_LATE + 1) (ftop CHAIN.XERR_LATE)
            ∧ FlagUp s.dev e CHAIN.CHSTAT 5 (gf s.dev CHAIN.CHSEL CHAIN.CHSEL_IE) 208 ∧ MemStays s.dev e))) ∧
  (∀ (s : State) (l : List UnitInfo) (h : UnitInfo), s.pwr.root = true → isHead s.dev = true →
    l.find? (fun u => u.parent.isNone) = some h →
    (gf s.dev CHAIN.CHSTAT CHAIN.CHSTAT_ENUM < 2 → gf s.dev CHAIN.CHCFG CHAIN.CHCFG_MAPHOLD = 0 →
      Does (.enumeration l) s (fun e => Enumerated s.dev e l h []))
    ∧ (gf s.dev CHAIN.CHSTAT CHAIN.CHSTAT_ENUM < 2 → gf s.dev CHAIN.CHCFG CHAIN.CHCFG_MAPHOLD = 1 →
        Does (.enumeration l) s (fun e => gf e CHAIN.CHSTAT CHAIN.CHSTAT_ENUM = 1 ∧ e.chain.wait = some l
          ∧ Only { s.dev with chain := e.chain } e [CHAIN.CHSTAT]))
    ∧ (gateOpen s.dev 17 = true → s.dev.chain.wait = some l →
        Does .mapgo s (fun e => Enumerated s.dev e l h (savedMap s.dev)))) ∧
  (∀ s : State, s.pwr.root = true → gateOpen s.dev 17 = true → s.dev.chain.wait = none →
    Does .mapgo s (fun e => FlagUp s.dev e CHAIN.CHSTAT 9 (gf s.dev CHAIN.CHSEL CHAIN.CHSEL_IE) 208
      ∧ Only s.dev e [CHAIN.CHSTAT, ipend 208])) ∧
  (∀ (s : State) (l : List UnitInfo), s.pwr.root = true → isHead s.dev = true → gf s.dev CHAIN.CHSTAT CHAIN.CHSTAT_ENUM = 2 →
    (∀ (u : UnitInfo) (q : Nat), u ∈ l → pipHolder s.dev u.serial = none → joinPip s.dev l u = some q → q < 512 →
      (s.dev.chain.serial.map (·.1)).Nodup → (l.map (·.serial)).Nodup →
      (∀ v ∈ l, v.serial ≠ u.serial → (pipHolder s.dev v.serial).isSome = true) →
      Does (.unitAttach l) s (fun e => find e.chain.serial q = some u.serial.toNat
        ∧ gf e (CHAIN.CHTOPO q) CHAIN.CHTOPO_V = 1 ∧ bitOf e CHAIN.CHSTAT 2 = true ∧ MemStays s.dev e))
    ∧ (∀ q n : Nat, (q, n) ∈ s.dev.chain.serial → (∀ m : Nat, (q, m) ∈ s.dev.chain.serial → m = n) →
        (∀ u ∈ l, u.serial.toNat ≠ n) → gf s.dev (CHAIN.CHTOPO q) CHAIN.CHTOPO_V = 1 → q < 512 →
        (∀ v ∈ l, (pipHolder s.dev v.serial).isSome = true) →
        Does (.unitDeparture l) s (fun e => gf e (CHAIN.CHTOPO q) CHAIN.CHTOPO_V = 0
          ∧ gf e (CHAIN.CHTOPO q) CHAIN.CHTOPO_HELD = 1 ∧ bitOf e CHAIN.CHSTAT 2 = true ∧ MemStays s.dev e))) ∧
  (∀ (s : State) (q : Nat), s.pwr.root = true → gateOpen s.dev 17 = true → q = gf s.dev CHAIN.CHCMD CHAIN.CHCMD_PIP →
    (gf s.dev (CHAIN.CHTOPO q) CHAIN.CHTOPO_V = 0 → gf s.dev (CHAIN.CHTOPO q) CHAIN.CHTOPO_HELD = 1 →
      Does .release s (fun e => rd e (CHAIN.CHTOPO q) = 0 ∧ find e.chain.serial q = none ∧ bitOf e CHAIN.CHSTAT 2 = true
        ∧ RegsStay s.dev e [CHAIN.CHTOPO q, CHAIN.CHSTAT, ipend 208]))
    ∧ (gf s.dev (CHAIN.CHTOPO q) CHAIN.CHTOPO_V = 1 →
        Does .release s (fun e => bitOf e CHAIN.CHSTAT 9 = true ∧ Only s.dev e [CHAIN.CHSTAT, ipend 208]))) ∧
  (∀ (s : State) (o : Nat) (v : Word) (r : Reg) (m : Word) (bad : Bool), s.pwr.root = true → gateOpen s.dev 17 = true →
    o < 0x800 → chainTicked o v = some (r, m, bad) →
    (bad = false → Does (.chainConfigWrite (0x40080000 + o) v) s (fun e => PendingTo s.dev e r (v &&& m)))
    ∧ (bad = true → Does (.chainConfigWrite (0x40080000 + o) v) s (fun e =>
        FlagUp s.dev e CHAIN.CHSTAT 9 (gf s.dev CHAIN.CHSEL CHAIN.CHSEL_IE) 208 ∧ Only s.dev e [CHAIN.CHSTAT, ipend 208])))

/-- The crystal counts as stable, then the PLL locks: the root clocks run and low-rate links train. A raised voltage settles
at its instant. A write of 0 to a gate bit reads back at once and sets SGPEND, or leaves an opening to end first; the gate
closes once its block is off and opens again where a 1 was written meanwhile. A write of 1 starts 32 FABRIC cycles after
which the block is accessible, unless the gate is still closing. SCLREL releases every claim of an owner that is off and
none of one that is not. (R605, R639, R641, R645, R647, R649, R655, R663) -/
def Obligations.ClocksGatesAndClaims : Prop :=
  (∀ s : State, s.pwr.crystal = false → s.dev.off = false →
    exec .crystalStable s = .next { s with pwr := ⟨true, false, false, false, false⟩ }) ∧
  (∀ s : State, s.pwr.crystal = true → s.pwr.root = false → s.pwr.asleep = false → s.pwr.frozen = false →
    s.dev.tapWait = [] →
    ∃ e : Dev, exec .pllLock s = .next { s with pwr := ⟨true, true, true, false, false⟩, dev := e } ∧ MemStays s.dev e ∧ e.tb = s.dev.tb
      ∧ (∀ p : Nat, p < 3 → portSt e p = if portSt s.dev p = 3 then 1 else portSt s.dev p)
      ∧ RegsStay s.dev e [CHAIN.CHPSTAT 0, CHAIN.CHPSTAT 1, CHAIN.CHPSTAT 2, CHAIN.CHSTAT, ipend 208]) ∧
  (∀ (s : State) (v : Word) (t : Nat), s.pwr.root = true → s.dev.vset = some (v, t) →
    Does .voltageSettled s (fun e => e.vsetDone = true ∧ e.now = max s.dev.now t ∧ RegsStay s.dev e [] ∧ MemStays s.dev e)) ∧
  (∀ (s : State) (b : Fin 19), s.pwr.root = true →
    (gateOn s.dev b = true →
      Does (.sgateClose b) s (fun e => gateOn e b = false
        ∧ gateClosing e b = (gateClosing s.dev b || !gateOpening s.dev b) ∧ Only s.dev e [SYSCFG.SGATE, SYSCFG.SGPEND]))
    ∧ (gateOn s.dev b = false →
        Does (.sgateOpen b) s (fun e => gateOn e b = true
          ∧ gateOpening e b = (gateOpening s.dev b || !gateClosing s.dev b)
          ∧ (gateOpening s.dev b = false → gateClosing s.dev b = false → look e.gateDue b 0 = s.dev.now + 32 * fabDiv s.dev)
          ∧ Only { s.dev with gateDue := e.gateDue } e [SYSCFG.SGATE, SYSCFG.SGSTART]))
    ∧ (gateClosing s.dev b = true → blockOff s.dev b = true →
        Does (.gateClosed b) s (fun e => gateClosing e b = false ∧ gateOpen e b = false
          ∧ (gateOn s.dev b = false → Only { s.dev with gshut := e.gshut } e [SYSCFG.SGPEND])
          ∧ (gateOn s.dev b = true → gateOpening e b = true ∧ look e.gateDue b 0 = s.dev.now + 32 * fabDiv s.dev
              ∧ RegsStay s.dev e [SYSCFG.SGPEND, SYSCFG.SGSTART])))
    ∧ (blockOff s.dev b = false → Does (.gateClosed b) s (fun e => e = s.dev))
    ∧ (gateOpening s.dev b = true →
        Does (.gateOpened b) s (fun e => gateOpening e b = false ∧ gateOpen e b = true ∧ e.now = max s.dev.now (look s.dev.gateDue b 0)
          ∧ gateClosing e b = (gateClosing s.dev b || !gateOn s.dev b) ∧ RegsStay s.dev e [SYSCFG.SGSTART, SYSCFG.SGPEND]))) ∧
  (∀ (s : State) (o : BitVec 16), s.pwr.root = true →
    (ownerOff s.dev o.toNat = true →
      Does (.sclrel o) s (fun e => (∀ c : Claim, c ∈ e.claims ↔ c ∈ s.dev.claims ∧ c.owner ≠ o.toNat)
        ∧ rd e SYSCFG.SCLREL = o.setWidth 32 ∧ Only { s.dev with claims := e.claims } e [SYSCFG.SCLREL]))
    ∧ (ownerOff s.dev o.toNat = false →
        Does (.sclrel o) s (fun e => rd e SYSCFG.SCLREL = o.setWidth 32 ∧ Only s.dev e [SYSCFG.SCLREL])))

/-- A sleep request is refused with its code, 1 for a converter that is not OFF, or MODE becomes ENTERING. At the entry the
ports that are up go to low rate, the reference returns to the crystal, the root clocks stop with the time base at a HUSK
edge, and MODE is SLEEP. An enabled source that holds wakes the unit: WSRC, WAKING, WAKEF. A freeze at level 0 puts the legs
of every RUNNING triad in their safe state and FREEZING; outside RUN it is held; at other levels it is ignored. At FROZEN
the root clocks stop and results in the pipelines become VOID. The release ends FRZREQ and reads RELEASING. (R31, R632,
R642, R659, R661, R662, R664, R665, R666, R671) -/
def Obligations.SleepWakeAndFreeze : Prop :=
  (∀ s : State, s.pwr.root = true → huskMode s.dev = 0 →
    (∀ code : Nat, sleepRefuse s.dev = some code →
      Does .sleep s (fun e => gf e HUSK.HSTAT HUSK.HSTAT_REFUSE = code ∧ bitOf e HUSK.HSTAT 0 = true ∧ huskMode e = 0
        ∧ Only s.dev e [HUSK.HSTAT, ipend 240]))
    ∧ (∀ n : Nat, n < 8 → adcState s.dev n ≠ 0 → Does .sleep s (fun e => gf e HUSK.HSTAT HUSK.HSTAT_REFUSE = 1 ∧ huskMode e = 0))
    ∧ (sleepRefuse s.dev = none →
        Does .sleep s (fun e => huskMode e = 1 ∧ Only { s.dev with chain := { s.dev.chain with wake := false } } e [HUSK.HSTAT]))) ∧
  (∀ s : State, s.pwr.root = true → s.dev.entering = true →
    ∃ e : Dev, exec .sleepEntry s = .next { s with pwr := ⟨s.pwr.crystal, false, false, true, false⟩, dev := e }
      ∧ huskMode e = 2 ∧ bitOf e HUSK.HSTAT 1 = true ∧ e.entering = false ∧ gf e SYSCFG.SCSTAT SYSCFG.SCSTAT_REFSRC = 0
      ∧ (∀ p : Nat, p < 3 → portSt e p = if portUp s.dev p then 3 else portSt s.dev p) ∧ MemStays s.dev e
      ∧ (s.dev.tbHold = 0 → s.dev.tb.toNat + 15360 < 2 ^ 64 →
          e.tb.toNat % 15360 = 0 ∧ s.dev.tb.toNat ≤ e.tb.toNat ∧ e.tb.toNat < s.dev.tb.toNat + 15360)) ∧
  (∀ (s : State) (k : Fin 5), (huskMode s.dev = 2 ∧ s.pwr.asleep = true) ∨ huskMode s.dev = 1 → wakeHolds s.dev k = true →
    ∃ e : Dev, exec (.wake k) s = .next { s with pwr := { s.pwr with asleep := false }, dev := e }
      ∧ gf e HUSK.HSTAT HUSK.HSTAT_WSRC = k ∧ huskMode e = 3 ∧ bitOf e HUSK.HSTAT 2 = true ∧ e.entering = false
      ∧ e.chain.wake = false ∧ RegsStay s.dev e [HUSK.HSTAT, ipend 240]) ∧
  (∀ s : State, s.pwr.root = true →
    (rdpLevel s.dev = 0 → huskMode s.dev = 0 → frz s.dev = 0 →
      Does .freeze s (fun e => frz e = 1 ∧ gf e DBG.DBGCTL DBG.DBGCTL_FRZREQ = 1 ∧ gf e SYSCFG.SCSTAT SYSCFG.SCSTAT_REFSRC = 0
        ∧ (∀ t j : Nat, t < 16 → j < 3 → triState s.dev t = 2 → legSafe e t j = true)
        ∧ (∀ p : Nat, p < 3 → portSt e p = if portUp s.dev p then 3 else portSt s.dev p)))
    ∧ (rdpLevel s.dev = 0 → huskMode s.dev ≠ 0 →
        Does .freeze s (fun e => gf e DBG.DBGCTL DBG.DBGCTL_FRZREQ = 1 ∧ Only s.dev e [DBG.DBGCTL]))
    ∧ (rdpLevel s.dev ≠ 0 → Does .freeze s (fun e => e = s.dev))) ∧
  (∀ s : State, s.pwr.root = true → frz s.dev = 1 →
    ∃ e : Dev, exec .frozen s = .next { s with pwr := ⟨s.pwr.crystal, false, false, false, true⟩, dev := e }
      ∧ frz e = 2 ∧ ((∀ t j : Nat, (legGet s.dev t j).low = none) → RegsStay s.dev e [DBG.DBGSTAT]) ∧ MemStays s.dev e ∧ (∀ n : Nat, ∀ x ∈ (look e.adc n {}).fl, x.void = true)) ∧
  (∀ s : State, s.pwr.frozen = true → frz s.dev = 2 →
    ∃ e : Dev, exec .freezeRelease s = .next { s with pwr := { s.pwr with frozen := false }, dev := e }
      ∧ frz e = 3 ∧ gf e DBG.DBGCTL DBG.DBGCTL_FRZREQ = 0 ∧ Only s.dev e [DBG.DBGCTL, DBG.DBGSTAT])

/-- Each TAP instruction selects its data register; DBGACC acts as BYPASS above level 0, ends with an error for most
registers while FROZEN, and reads and writes otherwise. TBSNAP copies the time base. A memory access of an SRAM word moves
the word with its tag; a barred one ends with STATUS 3 and ACCERR; INC advances the address. HALT stops and resumes cores, a
leader's bit both. STEP lets a halted core run one instruction. A trace slot sends the oldest item and adds LOST where items
were lost; a lost item is counted. DBGMARK emits a marker only with TRCEN and TRMARK. DBGMSG sets MSGF. (R667, R668, R669,
R672, R673, R674, R675, R676, R677, R678) -/
def Obligations.DebuggerReachesTheUnit : Prop :=
  (∀ (s : State) (b : BitVec 753),
    Does (.extest b) s (fun e => e = { s.dev with jtagIr := 0, bsr := b })
    ∧ Does (.samplePreload b) s (fun e => e = { s.dev with jtagIr := 1, bsr := b })
    ∧ Does .idcode s (fun e => e = { s.dev with jtagIr := 2, tdr := (rd s.dev DBG.DBGID).setWidth 43 })
    ∧ Does .bypass s (fun e => e = { s.dev with jtagIr := 31, tdr := 0 })) ∧
  rd State.reset.dev DBG.DBGID = 0x272405A3 ∧
  (∀ (s : State) (w : Bool) (i : BitVec 10) (v : Word), s.pwr.root = true ∨ s.pwr.frozen = true →
    (rdpLevel s.dev ≠ 0 → Does (.dbgacc w i v) s (fun e => e = { s.dev with jtagIr := 31, tdr := 0 }))
    ∧ (rdpLevel s.dev = 0 → frz s.dev = 2 → 6 ≤ i.toNat →
        Does (.dbgacc w i v) s (fun e => e = { s.dev with jtagIr := 8, tdr := 0x300000000 }))) ∧
  (∀ (s : State) (v : Word), s.pwr.root = true → rdpLevel s.dev = 0 → frz s.dev ≠ 2 →
    Does (.dbgacc true 7 v) s (fun e => rd e DBG.DBGMSG = v ∧ bitOf e DBG.DBGSTAT 0 = true
      ∧ Only { s.dev with jtagIr := 8, tdr := 0x100000000 } e [DBG.DBGMSG, DBG.DBGSTAT, ipend 256])
    ∧ Does (.dbgacc false 13 v) s (fun e =>
        e = { s.dev with jtagIr := 8, tdr := (rd s.dev DBG.DBGFW).setWidth 43 ||| 0x100000000 })) ∧
  (∀ s : State,
    (frz s.dev ≠ 2 → Does .tbsnap s (fun e => rd e DBG.DBGTBLO = (tbShown s.dev).setWidth 32
      ∧ rd e DBG.DBGTBHI = (tbShown s.dev >>> 32).setWidth 32 ∧ Only s.dev e [DBG.DBGTBLO, DBG.DBGTBHI]))
    ∧ (frz s.dev = 2 → Does .tbsnap s (fun e => rd e DBG.DBGTBLO = (tbShown e).setWidth 32
        ∧ rd e DBG.DBGTBHI = (tbShown e >>> 32).setWidth 32 ∧ s.dev.now ≤ e.now ∧ RegsStay s.dev e [DBG.DBGTBLO, DBG.DBGTBHI]))) ∧
  (∀ (s : State) (a : Nat) (inc : Nat), s.pwr.root = true → a = (rd s.dev DBG.DBGMADDR).toNat →
    inc = (if gf s.dev DBG.DBGMCMD DBG.DBGMCMD_INC = 1 then 4 else 0) →
    (dbgBarred s.dev a false = true →
      Does .dbgMemoryRead s (fun e => gf e DBG.DBGMCMD DBG.DBGMCMD_STATUS = 3 ∧ bitOf e DBG.DBGSTAT 2 = true
        ∧ rd e DBG.DBGMADDR = rd s.dev DBG.DBGMADDR + w32 inc ∧ Only s.dev e [DBG.DBGMCMD, DBG.DBGSTAT, DBG.DBGMADDR, ipend 256]))
    ∧ (dbgBarred s.dev a true = true →
        Does .dbgMemoryWrite s (fun e => gf e DBG.DBGMCMD DBG.DBGMCMD_STATUS = 3 ∧ bitOf e DBG.DBGSTAT 2 = true
          ∧ rd e DBG.DBGMADDR = rd s.dev DBG.DBGMADDR + w32 inc ∧ Only s.dev e [DBG.DBGMCMD, DBG.DBGSTAT, DBG.DBGMADDR, ipend 256]))
    ∧ (inSram a = true → a % 4 = 0 → rdpLevel s.dev = 0 →
        (look s.dev.ecc (a / 4) 0 = 0 →
          Does .dbgMemoryRead s (fun e => rd e DBG.DBGMDATA = rdW s.dev a ∧ rd e DBG.DBGMTAG = w32 (tagCode (rdTag s.dev a))
            ∧ gf e DBG.DBGMCMD DBG.DBGMCMD_STATUS = 2 ∧ rd e DBG.DBGMADDR = rd s.dev DBG.DBGMADDR + w32 inc
            ∧ Only s.dev e [DBG.DBGMCMD, DBG.DBGMADDR, DBG.DBGMDATA, DBG.DBGMTAG]))
        ∧ Does .dbgMemoryWrite s (fun e => rdTW e a = ⟨tagOf (gf s.dev DBG.DBGMTAG DBG.DBGMTAG_TAG), rd s.dev DBG.DBGMDATA⟩
            ∧ (∀ k : Nat, (k < a ∨ a + 4 ≤ k) → rdByte e k = rdByte s.dev k ∧ rdTag e k = rdTag s.dev k)
            ∧ gf e DBG.DBGMCMD DBG.DBGMCMD_STATUS = 2 ∧ rd e DBG.DBGMADDR = rd s.dev DBG.DBGMADDR + w32 inc
            ∧ RegsStay s.dev e [DBG.DBGMCMD, DBG.DBGMADDR]))) ∧
  (∀ (s : State) (v : BitVec 8), s.pwr.root = true →
    (rdpLevel s.dev = 0 → Does (.halt v) s (fun e => gf e DBG.DBGCTL DBG.DBGCTL_HALT = v.toNat ∧ MemStays s.dev e
      ∧ ∀ c : Nat, c < 8 → (coreGet e c).halt = v.getLsbD (if isFollower s.dev c then c - 1 else c)
        ∧ ((coreGet s.dev c).halt = false → (coreGet e c).halt = true →
            rd e (DBG.DBGPC c) = (coreGet s.dev c).pc ∧ coreGet e c = { coreGet s.dev c with halt := true, one := false })
        ∧ ((coreGet s.dev c).halt = true → (coreGet e c).halt = false → rd e (DBG.DBGPC c) = 0)))
    ∧ (rdpLevel s.dev ≠ 0 → Does (.halt v) s (fun e => e = s.dev))) ∧
  (∀ (s : State) (c : Fin 8), s.pwr.root = true →
    (rdpLevel s.dev = 0 → (coreGet s.dev c).halt = true → isLeader s.dev c = false →
      isFollower s.dev c = false →
      Does (.step c) s (fun e => coreGet e c = { coreGet s.dev c with one := true } ∧ Others s.dev.core e.core c
        ∧ e = { s.dev with core := e.core }))
    ∧ ((coreGet s.dev c).halt = false ∨ rdpLevel s.dev ≠ 0 → Does (.step c) s (fun e => e = s.dev))) ∧
  (∀ s : State, s.pwr.root = true →
    (gf s.dev DBG.DBGCTL DBG.DBGCTL_TRCEN = 1 → rdpLevel s.dev = 0 → frz s.dev ≠ 2 →
      (s.dev.trLost = 0 → Does .traceSlot s (fun e => e = { s.dev with trace := s.dev.trace.drop 1 }))
      ∧ (s.dev.trLost ≠ 0 → (s.dev.trace.drop 1).length < 64 →
          Does .traceSlot s (fun e => e = { s.dev with
            trace := s.dev.trace.drop 1 ++ [⟨5, 0, s.dev.tb.toNat % 2 ^ 48, leBytes 4 s.dev.trLost⟩], trLost := 0 })))
    ∧ (gf s.dev DBG.DBGCTL DBG.DBGCTL_TRCEN = 0 → Does .traceSlot s (fun e => e = s.dev))
    ∧ (s.dev.trMissed ≠ 0 → Does .traceItemLost s (fun e => e.trLost = s.dev.trLost + 1 ∧ e.trMissed = s.dev.trMissed - 1
        ∧ gf e DBG.DBGTRLOST DBG.DBGTRLOST_CNT =
            min (gf s.dev DBG.DBGTRLOST DBG.DBGTRLOST_CNT + 1) (ftop DBG.DBGTRLOST_CNT)
        ∧ FlagUp s.dev e DBG.DBGSTAT 1 (gf s.dev DBG.DBGSEL DBG.DBGSEL_IE) 256
        ∧ RegsStay s.dev e [DBG.DBGTRLOST, DBG.DBGSTAT, ipend 256]))) ∧
  (∀ (s : State) (c : Fin 8) (v : Word), s.pwr.root = true →
    (gf s.dev DBG.DBGCTL DBG.DBGCTL_TRCEN = 1 → gf s.dev DBG.DBGCTL DBG.DBGCTL_TRMARK = 1 → rdpLevel s.dev = 0 →
      s.dev.trace.length < 64 →
      Does (.dbgmark c v) s (fun e => rd e (DBG.DBGMARK c) = v ∧ Only { s.dev with trace := e.trace } e [DBG.DBGMARK c]
        ∧ e.trace = s.dev.trace ++ (if isFollower s.dev c then [] else [⟨1, c, s.dev.tb.toNat % 2 ^ 48, leBytes 4 v.toNat⟩])))
    ∧ (gf s.dev DBG.DBGCTL DBG.DBGCTL_TRCEN = 0 ∨ gf s.dev DBG.DBGCTL DBG.DBGCTL_TRMARK = 0 →
        Does (.dbgmark c v) s (fun e => e = s.dev))) ∧
  (∀ (s : State) (v : Word), s.pwr.root = true →
    Does (.dbgmsg v) s (fun e => rd e DBG.DBGMSG = v ∧ FlagUp s.dev e DBG.DBGSTAT 0 (gf s.dev DBG.DBGSEL DBG.DBGSEL_IE) 256
      ∧ Only s.dev e [DBG.DBGMSG, DBG.DBGSTAT, ipend 256]))

/-- A power-on and a RESET_N reset stop every clock, return every register but straps (HEAD of CHSTAT among them), bank
levels, HXSD and what flash tells FLASHC to its reset value, write SRAM and retention SRAM as 0 (RESET_N keeps retention
SRAM) and keep flash; the cause is in RSTCAUSE. At power-down nothing starts until a power-on reset. The key in SRESET, and
a RESET frame addressed to the unit under RSTEN, make a unit or chain reset: memory, the time base and TICK stay, every
other register returns to its reset value but those named, cores and claims are as after power-on, and a DDRC that was not
OFF is STOPPING. Any other value or frame changes nothing. (R493, R617, R640, R641, R658, R681, R682, R685, R725, R726) -/
def Obligations.ResetsReachTheirParts : Prop :=
  (∀ s : State,
    (∃ e : Dev, exec .powerOnReset s = .next { s with pwr := ⟨false, false, false, false, false⟩, dev := e }
      ∧ e.off = false ∧ gf e SYSCFG.RSTCAUSE SYSCFG.RSTCAUSE_CAUSE = 1 ∧ e.tickno = 0 ∧ e.claims = [] ∧ e.core = [] ∧ e.pend = []
      ∧ isHead e = isHead s.dev
      ∧ (∀ k : Nat, rdByte e k = if isFlashKey k then rdByte s.dev k else 0)
      ∧ rd e HUSK.HSTRAP = rd s.dev HUSK.HSTRAP ∧ rd e HUSK.HXSD = w32 (gf s.dev HUSK.HSTRAP HUSK.HSTRAP_XSD)
      ∧ ∀ r : Reg, r.addr ∉ [HUSK.HSTRAP, HUSK.HXSD, PINMUX.BANKV, CHAIN.CHSTAT, SYSCFG.RSTCAUSE, FLASHC.FLBOOT, FLASHC.FLRDP, FLASHC.FLJSTAT,
          DDRC.DSTAT].map Reg.addr → rd e r = r.rst)
    ∧ (∃ e : Dev, exec .resetN s = .next { s with pwr := ⟨false, false, false, false, false⟩, dev := e }
      ∧ gf e SYSCFG.RSTCAUSE SYSCFG.RSTCAUSE_CAUSE = 2 ∧ e.tickno = 0 ∧ e.claims = [] ∧ e.core = [] ∧ e.pend = []
      ∧ (∀ k : Nat, rdByte e k = if isFlashKey k || isRetKey k then rdByte s.dev k else 0)
      ∧ ∀ r : Reg, r.addr ∉ [HUSK.HSTRAP, HUSK.HXSD, PINMUX.BANKV, CHAIN.CHSTAT, SYSCFG.RSTCAUSE, FLASHC.FLBOOT, FLASHC.FLRDP, FLASHC.FLJSTAT,
          DDRC.DSTAT].map Reg.addr → rd e r = r.rst)
    ∧ (∃ t : State, exec .powerDown s = .next t ∧ t.pwr = ⟨false, false, false, false, false⟩
        ∧ exec .crystalStable t = .next t ∧ exec .pllLock t = .next t)) ∧
  (∀ (s : State) (v : Word), s.pwr.root = true →
    (v = 0x5A7C → Does (.sreset v) s (fun e => gf e SYSCFG.RSTCAUSE SYSCFG.RSTCAUSE_CAUSE = 3 ∧ MemStays s.dev e
      ∧ e.tb = s.dev.tb ∧ e.tickno = s.dev.tickno ∧ e.tphase = s.dev.tphase ∧ e.tickts = s.dev.tickts ∧ e.claims = [] ∧ e.core = []
      ∧ gf e SYSCFG.SCSTAT SYSCFG.SCSTAT_REFSRC = gf s.dev SYSCFG.SCSTAT SYSCFG.SCSTAT_REFSRC
      ∧ gf e DDRC.DSTAT DDRC.DSTAT_STATE = (if gf s.dev DDRC.DSTAT DDRC.DSTAT_STATE = 0 then 0 else 3)
      ∧ (∀ r : Reg, 0x40010000 ≤ r.addr → r.addr < 0x40011000 → rd e r = rd s.dev r ∧ rdPend e r = rdPend s.dev r)
      ∧ ∀ r : Reg, ¬(0x40010000 ≤ r.addr ∧ r.addr < 0x40011000) →
          r.addr ∉ [HUSK.HSTRAP, HUSK.HXSD, PINMUX.BANKV, CHAIN.CHSTAT, SYSCFG.RSTCAUSE, SYSCFG.SCSTAT, FLASHC.FLBOOT, FLASHC.FLRDP, FLASHC.FLJSTAT,
            DDRC.DSTAT].map Reg.addr → rd e r = r.rst ∧ rdPend e r = r.rst))
    ∧ (v ≠ 0x5A7C → Does (.sreset v) s (fun e => e = s.dev))) ∧
  (∀ (s : State) (f : Frame) (mine : Bool), s.pwr.root = true →
    mine = (f.cls = 4 && f.sub = 5 && f.scope = 0 && hasPip s.dev && f.dst.toNat = ownPip s.dev
      && gf s.dev CHAIN.CHCFG CHAIN.CHCFG_RSTEN = 1) →
    (mine = true → Does (.chainReset f) s (fun e => gf e SYSCFG.RSTCAUSE SYSCFG.RSTCAUSE_CAUSE = 4
      ∧ gf e SYSCFG.RSTCAUSE SYSCFG.RSTCAUSE_SRCPIP = f.src.toNat ∧ e.core = [] ∧ e.claims = [] ∧ e.tb = s.dev.tb ∧ MemStays s.dev e))
    ∧ (mine = false → Does (.chainReset f) s (fun e => e = s.dev)))

/-- The boot repairs flash and scans the journal. Neither bank verifying: the recovery loader runs with reason 12. Only the
staging bank verifying, without a REJECTED line: the swap is counted and an activation reset made, or with the swaps
exhausted the loader runs with reason 9. The active bank verifying, with no staging image, no trial and no reset pending:
ROM ends and each pair of a core image starts at its ENTRY. A vote is repeated every 10 ms to each member; at its window's
end the update is rejected with reason 8. A GO outside a vote programs a GO line where the staging status area reads erased.
The key in SBCONF confirms and revokes; any other write changes nothing. (R683, R687, R693, R694, R695, R698, R699, R700,
R701, R702) -/
def Obligations.BootVotesAndConfirms : Prop :=
  (∀ (s : State) (bad : List Nat) (d : Dev), s.pwr.root = true → s.dev.boot.stage = 1 → d = journalScan (bootFlash s.dev) bad →
    Does (.boot bad) s (fun e => match verify d (actBank d), verify d (stgBank d) with
      | some _, some _ => e.boot.stage = 9 ∧ gf e SYSCFG.BOOTSTAT SYSCFG.BOOTSTAT_STATE = 1
          ∧ rd e SYSCFG.BOOTREJ = 0x0C000000 ∧ bitOf e SYSCFG.BOOTSTAT 0 = true ∧ e.core = s.dev.core
      | some _, none =>
          if (statusLines d (stgBank d)).contains 3 then e.boot.stage = 9 ∧ rd e SYSCFG.BOOTREJ = 0x0C000000
          else if 4096 ≤ d.swaps then e.boot.stage = 9 ∧ rd e SYSCFG.BOOTREJ = 0x09000000
          else e.swaps = d.swaps + 1 ∧ e.boot.after = 2 ∧ e.boot.stage = 1 ∧ bootSel e = (d.swaps + 1) % 2
            ∧ gf e SYSCFG.RSTCAUSE SYSCFG.RSTCAUSE_CAUSE = 6 ∧ e.tb = s.dev.tb
      | none, _ =>
          s.dev.boot.after = 0 → mfTries d (actBank d) = 0 → mfNat d (stgBank d) 0 4 ≠ 0x464D565A →
            e.boot.stage = 0 ∧ gf e FLASHC.FLBOOT FLASHC.FLBOOT_ROM = 0
            ∧ ∀ x ∈ partList d (actBank d), x.typ = 1 → ∀ c : Nat, c < 8 → x.mask.testBit (c / 2) = true →
                (coreGet e c).pc = w32 x.addr ∧ (coreGet e c).rst = false ∧ rd e (CORE.STATUS c) = 0)) ∧
  (∀ (s : State) (bad : List Nat), s.pwr.root = true → s.dev.boot.stage ≠ 1 → Does (.boot bad) s (fun e => e = s.dev)) ∧
  (∀ s : State, s.pwr.root = true → s.dev.boot.stage = 8 →
    Does .voteSend s (fun e => e.boot = { s.dev.boot with sent := e.now } ∧ e.now = max s.dev.now (s.dev.boot.sent + 6000000)
      ∧ RegsStay s.dev e [] ∧ MemStays s.dev e
      ∧ ∀ (m : Nat × List Byte) (p : Nat), memberList s.dev (stgBank s.dev) = [m] → routeTo s.dev m.1 = some p → portUp s.dev p = true →
          ∃ f : Frame, look e.chq p [] = look s.dev.chq p [] ++ [f] ∧ f.cls = 4 ∧ f.sub = 7 ∧ f.dst = BitVec.ofNat 9 m.1
            ∧ f.payload = votePayload 0 (mfGroup s.dev (stgBank s.dev)) (ownHash s.dev (stgBank s.dev)))
    ∧ (∀ m : Nat × List Byte, s.dev.boot.after = 0 → mfTries s.dev (actBank s.dev) = 0 →
        (memberList s.dev (stgBank s.dev)).find? (fun m => !s.dev.boot.pass.contains m.1) = some m →
        Does .voteTimeout s (fun e => rd e SYSCFG.BOOTREJ = w32 (8 * 2 ^ 24 + m.1) ∧ bitOf e SYSCFG.BOOTSTAT 0 = true
          ∧ e.boot.stage = 0 ∧ e.now = max s.dev.now (s.dev.boot.t0 + 60000000 * mfWait s.dev (stgBank s.dev))))) ∧
  (∀ (s : State) (f : Frame), s.pwr.root = true →
    (s.dev.boot.stage = 0 → f.cls = 4 → f.sub = 7 → inScope s.dev f = true → ofLeBytes (f.payload.take 4) = 2 →
      (statusLines s.dev (stgBank s.dev) = [] →
        Does (.vote f) s (fun e => statusLines e (stgBank s.dev) = [5] ∧ RegsStay s.dev e []
          ∧ ∀ k : Nat, (k < keyFlash (stgBank s.dev) 0xF000 ∨ keyFlash (stgBank s.dev) 0xF020 ≤ k) → rdByte e k = rdByte s.dev k))
      ∧ (statusLines s.dev (stgBank s.dev) ≠ [] → Does (.vote f) s (fun e => e = s.dev)))
    ∧ (f.cls ≠ 4 ∨ f.sub ≠ 7 → Does (.vote f) s (fun e => e = s.dev))) ∧
  (∀ (s : State) (v : Word), s.pwr.root = true →
    (v = 0x6B2D → gf s.dev SYSCFG.BOOTSTAT SYSCFG.BOOTSTAT_CONF = 0 →
      Does (.sbconf v) s (fun e => gf e SYSCFG.BOOTSTAT SYSCFG.BOOTSTAT_CONF = 1 ∧ e.boot = { s.dev.boot with wd := false }
        ∧ Only { s.dev with mem := e.mem, mtag := e.mtag, flProg := e.flProg, boot := e.boot, otpRev := e.otpRev } e [SYSCFG.BOOTSTAT]
        ∧ (∀ k : Nat, k < 4 → e.otpRev.getLsbD k = (s.dev.otpRev.getLsbD k
            || ((mfFlags s.dev (actBank s.dev)).testBit (4 + k) && k != mfKey s.dev (actBank s.dev))))
        ∧ (statusLines s.dev (actBank s.dev) = [] → statusLines e (actBank s.dev) = [2])))
    ∧ (v ≠ 0x6B2D ∨ gf s.dev SYSCFG.BOOTSTAT SYSCFG.BOOTSTAT_CONF = 1 → Does (.sbconf v) s (fun e => e = s.dev)))

/-- An input pin's new level reaches GPIN, XOR INV, and raises its source at an edge that EDGE selects; a pin that is OFF
shows nothing. An active TRIPIN pin sets its latch with the clocks stopped too. GPOUT, GPSET and GPCLR set the outputs. A
write that is no aligned word or names no block is answered with an error that a core takes as exception 10, and changes
nothing else. A write behind a closed gate is ignored. As examples of the access types, SCSEL takes its writable bits,
SCSTAT clears bits written 1, and SCLK's pending copy takes a write at either address. A legal PINMUX write is pending.
(R13, R14, R17, R19, R414, R489, R490, R648, R716, R717, R719) -/
def Obligations.PinsAndRegisterWrites : Prop :=
  (∀ (s : State) (n : Fin 64) (lvl : Bool), s.pwr.root = true →
    (pmuxFunc s.dev n = 0 → Does (.gpioEdge n lvl) s (fun e => e = { s.dev with pinLvl := bitPut s.dev.pinLvl n lvl }))
    ∧ (pmuxFunc s.dev n ≠ 0 → pmuxFunc s.dev n ≠ 2 → pmuxFunc s.dev n ≠ 5 → s.dev.pinSyn.getLsbD n ≠ lvl →
        Does (.gpioEdge n lvl) s (fun e => e.pinSyn = bitPut s.dev.pinSyn n lvl ∧ e.pinLvl = bitPut s.dev.pinLvl n lvl
          ∧ bitOf e (PINMUX.GPIN (n / 32)) (n % 32) = (lvl != pmuxInv s.dev n)
          ∧ ((gf s.dev (PINMUX.PMUX n) PINMUX.PMUX_EDGE).testBit (if (lvl != pmuxInv s.dev n) = true then 0 else 1) = true →
              Rises s.dev e (272 + n))
          ∧ ((gf s.dev (PINMUX.PMUX n) PINMUX.PMUX_EDGE).testBit (if (lvl != pmuxInv s.dev n) = true then 0 else 1) = false →
              rd e (ipend (272 + n)) = rd s.dev (ipend (272 + n)))
          ∧ RegsStay s.dev e [PINMUX.GPIN (n / 32), ipend (272 + n)]))) ∧
  (∀ (s : State) (n : Fin 64) (lvl : Bool),
    (pmuxFunc s.dev n = 4 → (lvl != pmuxInv s.dev n) = true →
      Does (.tripin n lvl) s (fun e => bitOf e RIND.RILAT (8 + n % 8) = true
        ∧ Only { s.dev with pinLvl := bitPut s.dev.pinLvl n lvl } e [RIND.RILAT]))
    ∧ (pmuxFunc s.dev n ≠ 4 ∨ (lvl != pmuxInv s.dev n) = false →
        Does (.tripin n lvl) s (fun e => e = { s.dev with pinLvl := bitPut s.dev.pinLvl n lvl }))) ∧
  (∀ (s : State) (h : Fin 2) (v : Word), s.pwr.root = true →
    Does (.gpoutWrite (0x18 + 4 * h) v) s (fun e => rd e (PINMUX.GPOUT h) = v ∧ Only s.dev e [PINMUX.GPOUT h])
    ∧ Does (.gpoutWrite (0x20 + 4 * h) v) s (fun e => rd e (PINMUX.GPOUT h) = rd s.dev (PINMUX.GPOUT h) ||| v
        ∧ Only s.dev e [PINMUX.GPOUT h])
    ∧ Does (.gpoutWrite (0x28 + 4 * h) v) s (fun e => rd e (PINMUX.GPOUT h) = rd s.dev (PINMUX.GPOUT h) &&& ~~~v
        ∧ Only s.dev e [PINMUX.GPOUT h])) ∧
  (∀ (s : State) (n : Fin 64) (v : Word), s.pwr.root = true → fget PINMUX.PMUX_FUNC v < 6 →
    Does (.pinmuxConfigWrite (0x40300100 + 4 * n) v) s (fun e => PendingTo s.dev e (PINMUX.PMUX n) (v &&& 0x1FC7))) ∧
  (∀ (s : State) (ini : Initiator) (a size : Nat) (v : Word) (code : Nat), s.pwr.root = true →
    ((size ≠ 4 ∨ a % 4 ≠ 0) ∧ code = 2) ∨ (size = 4 ∧ a % 4 = 0 ∧ slotExists a = false ∧ code = 1) →
    ((∀ c : Fin 8, ini ≠ .core c) →
      Does (.registerWrite ini a size v) s (fun e => e = { s.dev with busErr := true }))
    ∧ (∀ c : Fin 8, ini = .core c → CanEnter s.dev c 10 →
        Does (.registerWrite ini a size v) s (fun e => e.busErr = true ∧ Excepted s.dev e c 10 code 0 a (coreGet s.dev c).pc))) ∧
  (∀ (s : State) (ini : Initiator) (a b : Nat) (v : Word), s.pwr.root = true → a % 4 = 0 → slotExists a = true → coreLocal a = false →
    gateOf a = some b → gateOpen s.dev b = false →
    Does (.registerWrite ini a 4 v) s (fun e => e = { s.dev with busErr := false })) ∧
  (∀ (s : State) (ini : Initiator) (v : Word), s.pwr.root = true →
    Does (.registerWrite ini 0x40000004 4 v) s (fun e => rd e SYSCFG.SCSEL = v &&& 0xF0F ||| rd s.dev SYSCFG.SCSEL &&& ~~~0xF0F
      ∧ Only { s.dev with busErr := false } e [SYSCFG.SCSEL])
    ∧ Does (.registerWrite ini 0x40000008 4 v) s (fun e => rd e SYSCFG.SCSTAT = rd s.dev SYSCFG.SCSTAT &&& ~~~(v &&& 0xB)
        ∧ Only { s.dev with busErr := false } e [SYSCFG.SCSTAT])
    ∧ ∀ a : Nat, a = 0x40000000 ∨ a = 0x40000800 →
        Does (.registerWrite ini a 4 v) s (fun e => PendingTo { s.dev with busErr := false } e SYSCFG.SCLK
          (rdPend s.dev SYSCFG.SCLK &&& ~~~0x131 ||| v &&& 0x131)))

/-- Whatever the rest of the word, a write of a reserved function, 6 or 7, to the register of pin n, at its own or at its
pending address, sets PXSTAT.CFGERR and changes nothing else, the pending copies included; so does such a write by any
initiator through the bus. (R721) -/
def Obligations.PinmuxRefusesReservedFunctions : Prop :=
  ∀ (s : State) (n : Fin 64) (v : Word) (a : Nat), s.pwr.root = true → 6 ≤ fget PINMUX.PMUX_FUNC v →
    a = 0x40300100 + 4 * n ∨ a = 0x40300900 + 4 * n →
    Does (.pinmuxConfigWrite a v) s (fun e => bitOf e PINMUX.PXSTAT 0 = true ∧ Only s.dev e [PINMUX.PXSTAT]
      ∧ ∀ r : Reg, r.addr ≠ PINMUX.PXSTAT.addr → rdPend e r = rdPend s.dev r)
    ∧ ∀ ini : Initiator, Does (.registerWrite ini a 4 v) s (fun e => bitOf e PINMUX.PXSTAT 0 = true
        ∧ Only { s.dev with busErr := false } e [PINMUX.PXSTAT])

/-- The time base is 0 after a power-on reset, in the state the model starts from, and after RESET_N. A unit, chain, pair or
host-side reset, by whichever command it comes, the reset that ends the lowering of read-out protection and those of a
watchdog and of the boot included, leaves it as it was. (R28) -/
def Obligations.TimeBaseStartsAtZero : Prop :=
  State.reset.dev.tb = 0 ∧
  (∀ s : State, ∃ t u : State, exec .powerOnReset s = .next t ∧ t.dev.tb = 0 ∧ exec .resetN s = .next u ∧ u.dev.tb = 0) ∧
  (∀ (s : State) (v : Word) (f : Frame) (p : Fin 4) (w : Bool) (l : List Nat) (c : Instr),
    c ∈ [Instr.sreset v, .chainReset f, .pairReset p w, .watchdogExpiry p, .rdpLowering, .flr, .cxlReset, .hotReset, .cxlLinkDown,
      .boot l] → ∃ t : State, exec c s = .next t ∧ t.dev.tb = s.dev.tb)

/-- With the root clocks stopped, a command changes the state only if it is one of the clocks' and power's own, a HUSK tick,
a coarse marker, a frame received, sent or dropped at a low-rate port of a unit whose crystal runs, a trip pin's level, an
instruction of the test access port, a time-base snapshot, or a debugger's access. (R632, R656, R661, R664, R667, R671,
R681, R719) -/
def Obligations.StoppedClocksHoldEverythingElse : Prop :=
  ∀ (c : Instr) (s t : State), s.pwr.root = false → exec c s = .next t → t ≠ s →
    (c = .crystalStable ∨ c = .pllLock ∨ (∃ x, c = .wake x) ∨ c = .freezeRelease ∨ c = .powerOnReset ∨ c = .resetN ∨ c = .powerDown)
    ∨ c = .huskTick ∨ (∃ n l, c = .tripin n l)
    ∨ (∃ p x, c = .coarseMarkerReceive p x ∧ portSt s.dev p = 3)
    ∨ (s.pwr.crystal = true ∧ ∃ p, portSt s.dev (p : Fin 3) = 3
        ∧ ((∃ g f, c = .frameReceive p g f) ∨ c = .frameSend p ∨ c = .portQueueDrop p))
    ∨ (∃ x, c = .extest x ∨ c = .samplePreload x) ∨ c = .idcode ∨ c = .bypass ∨ c = .tbsnap
    ∨ (∃ w i v, c = .dbgacc w i v)
end

