-- ==== Sys2Proof/Laws/State.lean ====
section
/-! SUPPORT. What each update of the state leaves alone, field by field, so that no later proof unfolds one. -/

namespace Sys2Proof.Machine

open Sys2Proof

/-- `wr` changes `regs` only. -/
@[simp] theorem wr_frame (d : Dev) (r : Reg) (v : Word) :
    (wr d r v).pend = d.pend ∧ (wr d r v).tags = d.tags ∧ (wr d r v).busErr = d.busErr ∧ (wr d r v).now = d.now ∧
    (wr d r v).tb = d.tb ∧ (wr d r v).tphase = d.tphase ∧ (wr d r v).tickno = d.tickno ∧ (wr d r v).tickts = d.tickts ∧
    (wr d r v).tbHold = d.tbHold ∧ (wr d r v).huskRan = d.huskRan ∧ (wr d r v).free = d.free ∧ (wr d r v).tbArm = d.tbArm ∧
    (wr d r v).gpt = d.gpt ∧ (wr d r v).claims = d.claims ∧ (wr d r v).gshut = d.gshut ∧ (wr d r v).evHold = d.evHold ∧
    (wr d r v).evDrop = d.evDrop ∧ (wr d r v).hostSt = d.hostSt ∧ (wr d r v).loss = d.loss ∧ (wr d r v).trace = d.trace ∧
    (wr d r v).trMissed = d.trMissed ∧ (wr d r v).trLost = d.trLost ∧ (wr d r v).mem = d.mem ∧ (wr d r v).mtag = d.mtag ∧
    (wr d r v).ecc = d.ecc ∧ (wr d r v).wback = d.wback ∧ (wr d r v).fl = d.fl ∧ (wr d r v).flSusp = d.flSusp ∧
    (wr d r v).flProg = d.flProg ∧ (wr d r v).suspect = d.suspect ∧ (wr d r v).swaps = d.swaps ∧
    (wr d r v).swapCut = d.swapCut ∧ (wr d r v).rdpNext = d.rdpNext ∧ (wr d r v).scrubMark = d.scrubMark ∧
    (wr d r v).ddrUnk = d.ddrUnk ∧ (wr d r v).ddrOk = d.ddrOk ∧ (wr d r v).ddrRetrain = d.ddrRetrain ∧
    (wr d r v).scrS = d.scrS ∧ (wr d r v).scrD = d.scrD ∧ (wr d r v).ref = d.ref ∧ (wr d r v).adc = d.adc ∧
    (wr d r v).fb = d.fb ∧ (wr d r v).le = d.le ∧ (wr d r v).tri = d.tri ∧ (wr d r v).leg = d.leg ∧
    (wr d r v).win = d.win ∧ (wr d r v).tripLoc = d.tripLoc ∧ (wr d r v).chq = d.chq ∧ (wr d r v).chSeq = d.chSeq ∧
    (wr d r v).chAck = d.chAck ∧ (wr d r v).chTwice = d.chTwice ∧ (wr d r v).port = d.port ∧ (wr d r v).chain = d.chain ∧
    (wr d r v).lane = d.lane ∧ (wr d r v).ctx = d.ctx ∧ (wr d r v).jobs = d.jobs ∧ (wr d r v).eng = d.eng ∧
    (wr d r v).jobSeq = d.jobSeq ∧ (wr d r v).oq = d.oq ∧ (wr d r v).oqDrop = d.oqDrop ∧ (wr d r v).spill = d.spill ∧
    (wr d r v).spSlot = d.spSlot ∧ (wr d r v).cel = d.cel ∧ (wr d r v).bias = d.bias ∧ (wr d r v).snWait = d.snWait ∧
    (wr d r v).snCopy = d.snCopy ∧ (wr d r v).snReady = d.snReady ∧ (wr d r v).snHeld = d.snHeld ∧
    (wr d r v).snPos = d.snPos ∧ (wr d r v).snSeq = d.snSeq ∧ (wr d r v).cvBusy = d.cvBusy ∧
    (wr d r v).cvBorrow = d.cvBorrow ∧ (wr d r v).core = d.core ∧ (wr d r v).pair = d.pair ∧ (wr d r v).twin = d.twin ∧
    (wr d r v).hold = d.hold ∧ (wr d r v).pinLvl = d.pinLvl ∧ (wr d r v).pinSyn = d.pinSyn ∧
    (wr d r v).gateDue = d.gateDue ∧ (wr d r v).vset = d.vset ∧ (wr d r v).vsetDone = d.vsetDone ∧
    (wr d r v).entering = d.entering ∧ (wr d r v).jtagIr = d.jtagIr ∧ (wr d r v).bsr = d.bsr ∧ (wr d r v).tdr = d.tdr ∧
    (wr d r v).tapWait = d.tapWait ∧ (wr d r v).off = d.off ∧ (wr d r v).otp = d.otp ∧ (wr d r v).otpRev = d.otpRev ∧
    (wr d r v).boot = d.boot ∧ (wr d r v).pressBad = d.pressBad := by
  and_intros <;> rfl

/-- `sf` changes `regs` only. -/
@[simp] theorem sf_frame (d : Dev) (r : Reg) (f : Fld) (v : Nat) :
    (sf d r f v).pend = d.pend ∧ (sf d r f v).tags = d.tags ∧ (sf d r f v).busErr = d.busErr ∧ (sf d r f v).now = d.now ∧
    (sf d r f v).tb = d.tb ∧ (sf d r f v).tphase = d.tphase ∧ (sf d r f v).tickno = d.tickno ∧
    (sf d r f v).tickts = d.tickts ∧ (sf d r f v).tbHold = d.tbHold ∧ (sf d r f v).huskRan = d.huskRan ∧
    (sf d r f v).free = d.free ∧ (sf d r f v).tbArm = d.tbArm ∧ (sf d r f v).gpt = d.gpt ∧ (sf d r f v).claims = d.claims ∧
    (sf d r f v).gshut = d.gshut ∧ (sf d r f v).evHold = d.evHold ∧ (sf d r f v).evDrop = d.evDrop ∧
    (sf d r f v).hostSt = d.hostSt ∧ (sf d r f v).loss = d.loss ∧ (sf d r f v).trace = d.trace ∧
    (sf d r f v).trMissed = d.trMissed ∧ (sf d r f v).trLost = d.trLost ∧ (sf d r f v).mem = d.mem ∧
    (sf d r f v).mtag = d.mtag ∧ (sf d r f v).ecc = d.ecc ∧ (sf d r f v).wback = d.wback ∧ (sf d r f v).fl = d.fl ∧
    (sf d r f v).flSusp = d.flSusp ∧ (sf d r f v).flProg = d.flProg ∧ (sf d r f v).suspect = d.suspect ∧
    (sf d r f v).swaps = d.swaps ∧ (sf d r f v).swapCut = d.swapCut ∧ (sf d r f v).rdpNext = d.rdpNext ∧
    (sf d r f v).scrubMark = d.scrubMark ∧ (sf d r f v).ddrUnk = d.ddrUnk ∧ (sf d r f v).ddrOk = d.ddrOk ∧
    (sf d r f v).ddrRetrain = d.ddrRetrain ∧ (sf d r f v).scrS = d.scrS ∧ (sf d r f v).scrD = d.scrD ∧
    (sf d r f v).ref = d.ref ∧ (sf d r f v).adc = d.adc ∧ (sf d r f v).fb = d.fb ∧ (sf d r f v).le = d.le ∧
    (sf d r f v).tri = d.tri ∧ (sf d r f v).leg = d.leg ∧ (sf d r f v).win = d.win ∧ (sf d r f v).tripLoc = d.tripLoc ∧
    (sf d r f v).chq = d.chq ∧ (sf d r f v).chSeq = d.chSeq ∧ (sf d r f v).chAck = d.chAck ∧
    (sf d r f v).chTwice = d.chTwice ∧ (sf d r f v).port = d.port ∧ (sf d r f v).chain = d.chain ∧
    (sf d r f v).lane = d.lane ∧ (sf d r f v).ctx = d.ctx ∧ (sf d r f v).jobs = d.jobs ∧ (sf d r f v).eng = d.eng ∧
    (sf d r f v).jobSeq = d.jobSeq ∧ (sf d r f v).oq = d.oq ∧ (sf d r f v).oqDrop = d.oqDrop ∧
    (sf d r f v).spill = d.spill ∧ (sf d r f v).spSlot = d.spSlot ∧ (sf d r f v).cel = d.cel ∧ (sf d r f v).bias = d.bias ∧
    (sf d r f v).snWait = d.snWait ∧ (sf d r f v).snCopy = d.snCopy ∧ (sf d r f v).snReady = d.snReady ∧
    (sf d r f v).snHeld = d.snHeld ∧ (sf d r f v).snPos = d.snPos ∧ (sf d r f v).snSeq = d.snSeq ∧
    (sf d r f v).cvBusy = d.cvBusy ∧ (sf d r f v).cvBorrow = d.cvBorrow ∧ (sf d r f v).core = d.core ∧
    (sf d r f v).pair = d.pair ∧ (sf d r f v).twin = d.twin ∧ (sf d r f v).hold = d.hold ∧ (sf d r f v).pinLvl = d.pinLvl ∧
    (sf d r f v).pinSyn = d.pinSyn ∧ (sf d r f v).gateDue = d.gateDue ∧ (sf d r f v).vset = d.vset ∧
    (sf d r f v).vsetDone = d.vsetDone ∧ (sf d r f v).entering = d.entering ∧ (sf d r f v).jtagIr = d.jtagIr ∧
    (sf d r f v).bsr = d.bsr ∧ (sf d r f v).tdr = d.tdr ∧ (sf d r f v).tapWait = d.tapWait ∧ (sf d r f v).off = d.off ∧
    (sf d r f v).otp = d.otp ∧ (sf d r f v).otpRev = d.otpRev ∧ (sf d r f v).boot = d.boot ∧
    (sf d r f v).pressBad = d.pressBad := by
  and_intros <;> rfl

/-- `setBit` changes `regs` only. -/
@[simp] theorem setBit_frame (d : Dev) (r : Reg) (b : Nat) (v : Bool) :
    (setBit d r b v).pend = d.pend ∧ (setBit d r b v).tags = d.tags ∧ (setBit d r b v).busErr = d.busErr ∧
    (setBit d r b v).now = d.now ∧ (setBit d r b v).tb = d.tb ∧ (setBit d r b v).tphase = d.tphase ∧
    (setBit d r b v).tickno = d.tickno ∧ (setBit d r b v).tickts = d.tickts ∧ (setBit d r b v).tbHold = d.tbHold ∧
    (setBit d r b v).huskRan = d.huskRan ∧ (setBit d r b v).free = d.free ∧ (setBit d r b v).tbArm = d.tbArm ∧
    (setBit d r b v).gpt = d.gpt ∧ (setBit d r b v).claims = d.claims ∧ (setBit d r b v).gshut = d.gshut ∧
    (setBit d r b v).evHold = d.evHold ∧ (setBit d r b v).evDrop = d.evDrop ∧ (setBit d r b v).hostSt = d.hostSt ∧
    (setBit d r b v).loss = d.loss ∧ (setBit d r b v).trace = d.trace ∧ (setBit d r b v).trMissed = d.trMissed ∧
    (setBit d r b v).trLost = d.trLost ∧ (setBit d r b v).mem = d.mem ∧ (setBit d r b v).mtag = d.mtag ∧
    (setBit d r b v).ecc = d.ecc ∧ (setBit d r b v).wback = d.wback ∧ (setBit d r b v).fl = d.fl ∧
    (setBit d r b v).flSusp = d.flSusp ∧ (setBit d r b v).flProg = d.flProg ∧ (setBit d r b v).suspect = d.suspect ∧
    (setBit d r b v).swaps = d.swaps ∧ (setBit d r b v).swapCut = d.swapCut ∧ (setBit d r b v).rdpNext = d.rdpNext ∧
    (setBit d r b v).scrubMark = d.scrubMark ∧ (setBit d r b v).ddrUnk = d.ddrUnk ∧ (setBit d r b v).ddrOk = d.ddrOk ∧
    (setBit d r b v).ddrRetrain = d.ddrRetrain ∧ (setBit d r b v).scrS = d.scrS ∧ (setBit d r b v).scrD = d.scrD ∧
    (setBit d r b v).ref = d.ref ∧ (setBit d r b v).adc = d.adc ∧ (setBit d r b v).fb = d.fb ∧ (setBit d r b v).le = d.le ∧
    (setBit d r b v).tri = d.tri ∧ (setBit d r b v).leg = d.leg ∧ (setBit d r b v).win = d.win ∧
    (setBit d r b v).tripLoc = d.tripLoc ∧ (setBit d r b v).chq = d.chq ∧ (setBit d r b v).chSeq = d.chSeq ∧
    (setBit d r b v).chAck = d.chAck ∧ (setBit d r b v).chTwice = d.chTwice ∧ (setBit d r b v).port = d.port ∧
    (setBit d r b v).chain = d.chain ∧ (setBit d r b v).lane = d.lane ∧ (setBit d r b v).ctx = d.ctx ∧
    (setBit d r b v).jobs = d.jobs ∧ (setBit d r b v).eng = d.eng ∧ (setBit d r b v).jobSeq = d.jobSeq ∧
    (setBit d r b v).oq = d.oq ∧ (setBit d r b v).oqDrop = d.oqDrop ∧ (setBit d r b v).spill = d.spill ∧
    (setBit d r b v).spSlot = d.spSlot ∧ (setBit d r b v).cel = d.cel ∧ (setBit d r b v).bias = d.bias ∧
    (setBit d r b v).snWait = d.snWait ∧ (setBit d r b v).snCopy = d.snCopy ∧ (setBit d r b v).snReady = d.snReady ∧
    (setBit d r b v).snHeld = d.snHeld ∧ (setBit d r b v).snPos = d.snPos ∧ (setBit d r b v).snSeq = d.snSeq ∧
    (setBit d r b v).cvBusy = d.cvBusy ∧ (setBit d r b v).cvBorrow = d.cvBorrow ∧ (setBit d r b v).core = d.core ∧
    (setBit d r b v).pair = d.pair ∧ (setBit d r b v).twin = d.twin ∧ (setBit d r b v).hold = d.hold ∧
    (setBit d r b v).pinLvl = d.pinLvl ∧ (setBit d r b v).pinSyn = d.pinSyn ∧ (setBit d r b v).gateDue = d.gateDue ∧
    (setBit d r b v).vset = d.vset ∧ (setBit d r b v).vsetDone = d.vsetDone ∧ (setBit d r b v).entering = d.entering ∧
    (setBit d r b v).jtagIr = d.jtagIr ∧ (setBit d r b v).bsr = d.bsr ∧ (setBit d r b v).tdr = d.tdr ∧
    (setBit d r b v).tapWait = d.tapWait ∧ (setBit d r b v).off = d.off ∧ (setBit d r b v).otp = d.otp ∧
    (setBit d r b v).otpRev = d.otpRev ∧ (setBit d r b v).boot = d.boot ∧ (setBit d r b v).pressBad = d.pressBad := by
  and_intros <;> rfl

/-- `bump` changes `regs` only. -/
@[simp] theorem bump_frame (d : Dev) (r : Reg) (f : Fld) (k : Nat) :
    (bump d r f k).pend = d.pend ∧ (bump d r f k).tags = d.tags ∧ (bump d r f k).busErr = d.busErr ∧
    (bump d r f k).now = d.now ∧ (bump d r f k).tb = d.tb ∧ (bump d r f k).tphase = d.tphase ∧
    (bump d r f k).tickno = d.tickno ∧ (bump d r f k).tickts = d.tickts ∧ (bump d r f k).tbHold = d.tbHold ∧
    (bump d r f k).huskRan = d.huskRan ∧ (bump d r f k).free = d.free ∧ (bump d r f k).tbArm = d.tbArm ∧
    (bump d r f k).gpt = d.gpt ∧ (bump d r f k).claims = d.claims ∧ (bump d r f k).gshut = d.gshut ∧
    (bump d r f k).evHold = d.evHold ∧ (bump d r f k).evDrop = d.evDrop ∧ (bump d r f k).hostSt = d.hostSt ∧
    (bump d r f k).loss = d.loss ∧ (bump d r f k).trace = d.trace ∧ (bump d r f k).trMissed = d.trMissed ∧
    (bump d r f k).trLost = d.trLost ∧ (bump d r f k).mem = d.mem ∧ (bump d r f k).mtag = d.mtag ∧
    (bump d r f k).ecc = d.ecc ∧ (bump d r f k).wback = d.wback ∧ (bump d r f k).fl = d.fl ∧
    (bump d r f k).flSusp = d.flSusp ∧ (bump d r f k).flProg = d.flProg ∧ (bump d r f k).suspect = d.suspect ∧
    (bump d r f k).swaps = d.swaps ∧ (bump d r f k).swapCut = d.swapCut ∧ (bump d r f k).rdpNext = d.rdpNext ∧
    (bump d r f k).scrubMark = d.scrubMark ∧ (bump d r f k).ddrUnk = d.ddrUnk ∧ (bump d r f k).ddrOk = d.ddrOk ∧
    (bump d r f k).ddrRetrain = d.ddrRetrain ∧ (bump d r f k).scrS = d.scrS ∧ (bump d r f k).scrD = d.scrD ∧
    (bump d r f k).ref = d.ref ∧ (bump d r f k).adc = d.adc ∧ (bump d r f k).fb = d.fb ∧ (bump d r f k).le = d.le ∧
    (bump d r f k).tri = d.tri ∧ (bump d r f k).leg = d.leg ∧ (bump d r f k).win = d.win ∧
    (bump d r f k).tripLoc = d.tripLoc ∧ (bump d r f k).chq = d.chq ∧ (bump d r f k).chSeq = d.chSeq ∧
    (bump d r f k).chAck = d.chAck ∧ (bump d r f k).chTwice = d.chTwice ∧ (bump d r f k).port = d.port ∧
    (bump d r f k).chain = d.chain ∧ (bump d r f k).lane = d.lane ∧ (bump d r f k).ctx = d.ctx ∧
    (bump d r f k).jobs = d.jobs ∧ (bump d r f k).eng = d.eng ∧ (bump d r f k).jobSeq = d.jobSeq ∧
    (bump d r f k).oq = d.oq ∧ (bump d r f k).oqDrop = d.oqDrop ∧ (bump d r f k).spill = d.spill ∧
    (bump d r f k).spSlot = d.spSlot ∧ (bump d r f k).cel = d.cel ∧ (bump d r f k).bias = d.bias ∧
    (bump d r f k).snWait = d.snWait ∧ (bump d r f k).snCopy = d.snCopy ∧ (bump d r f k).snReady = d.snReady ∧
    (bump d r f k).snHeld = d.snHeld ∧ (bump d r f k).snPos = d.snPos ∧ (bump d r f k).snSeq = d.snSeq ∧
    (bump d r f k).cvBusy = d.cvBusy ∧ (bump d r f k).cvBorrow = d.cvBorrow ∧ (bump d r f k).core = d.core ∧
    (bump d r f k).pair = d.pair ∧ (bump d r f k).twin = d.twin ∧ (bump d r f k).hold = d.hold ∧
    (bump d r f k).pinLvl = d.pinLvl ∧ (bump d r f k).pinSyn = d.pinSyn ∧ (bump d r f k).gateDue = d.gateDue ∧
    (bump d r f k).vset = d.vset ∧ (bump d r f k).vsetDone = d.vsetDone ∧ (bump d r f k).entering = d.entering ∧
    (bump d r f k).jtagIr = d.jtagIr ∧ (bump d r f k).bsr = d.bsr ∧ (bump d r f k).tdr = d.tdr ∧
    (bump d r f k).tapWait = d.tapWait ∧ (bump d r f k).off = d.off ∧ (bump d r f k).otp = d.otp ∧
    (bump d r f k).otpRev = d.otpRev ∧ (bump d r f k).boot = d.boot ∧ (bump d r f k).pressBad = d.pressBad := by
  and_intros <;> rfl

/-- `bumpWrap` changes `regs` only. -/
@[simp] theorem bumpWrap_frame (d : Dev) (r : Reg) :
    (bumpWrap d r).pend = d.pend ∧ (bumpWrap d r).tags = d.tags ∧ (bumpWrap d r).busErr = d.busErr ∧
    (bumpWrap d r).now = d.now ∧ (bumpWrap d r).tb = d.tb ∧ (bumpWrap d r).tphase = d.tphase ∧
    (bumpWrap d r).tickno = d.tickno ∧ (bumpWrap d r).tickts = d.tickts ∧ (bumpWrap d r).tbHold = d.tbHold ∧
    (bumpWrap d r).huskRan = d.huskRan ∧ (bumpWrap d r).free = d.free ∧ (bumpWrap d r).tbArm = d.tbArm ∧
    (bumpWrap d r).gpt = d.gpt ∧ (bumpWrap d r).claims = d.claims ∧ (bumpWrap d r).gshut = d.gshut ∧
    (bumpWrap d r).evHold = d.evHold ∧ (bumpWrap d r).evDrop = d.evDrop ∧ (bumpWrap d r).hostSt = d.hostSt ∧
    (bumpWrap d r).loss = d.loss ∧ (bumpWrap d r).trace = d.trace ∧ (bumpWrap d r).trMissed = d.trMissed ∧
    (bumpWrap d r).trLost = d.trLost ∧ (bumpWrap d r).mem = d.mem ∧ (bumpWrap d r).mtag = d.mtag ∧
    (bumpWrap d r).ecc = d.ecc ∧ (bumpWrap d r).wback = d.wback ∧ (bumpWrap d r).fl = d.fl ∧
    (bumpWrap d r).flSusp = d.flSusp ∧ (bumpWrap d r).flProg = d.flProg ∧ (bumpWrap d r).suspect = d.suspect ∧
    (bumpWrap d r).swaps = d.swaps ∧ (bumpWrap d r).swapCut = d.swapCut ∧ (bumpWrap d r).rdpNext = d.rdpNext ∧
    (bumpWrap d r).scrubMark = d.scrubMark ∧ (bumpWrap d r).ddrUnk = d.ddrUnk ∧ (bumpWrap d r).ddrOk = d.ddrOk ∧
    (bumpWrap d r).ddrRetrain = d.ddrRetrain ∧ (bumpWrap d r).scrS = d.scrS ∧ (bumpWrap d r).scrD = d.scrD ∧
    (bumpWrap d r).ref = d.ref ∧ (bumpWrap d r).adc = d.adc ∧ (bumpWrap d r).fb = d.fb ∧ (bumpWrap d r).le = d.le ∧
    (bumpWrap d r).tri = d.tri ∧ (bumpWrap d r).leg = d.leg ∧ (bumpWrap d r).win = d.win ∧
    (bumpWrap d r).tripLoc = d.tripLoc ∧ (bumpWrap d r).chq = d.chq ∧ (bumpWrap d r).chSeq = d.chSeq ∧
    (bumpWrap d r).chAck = d.chAck ∧ (bumpWrap d r).chTwice = d.chTwice ∧ (bumpWrap d r).port = d.port ∧
    (bumpWrap d r).chain = d.chain ∧ (bumpWrap d r).lane = d.lane ∧ (bumpWrap d r).ctx = d.ctx ∧
    (bumpWrap d r).jobs = d.jobs ∧ (bumpWrap d r).eng = d.eng ∧ (bumpWrap d r).jobSeq = d.jobSeq ∧
    (bumpWrap d r).oq = d.oq ∧ (bumpWrap d r).oqDrop = d.oqDrop ∧ (bumpWrap d r).spill = d.spill ∧
    (bumpWrap d r).spSlot = d.spSlot ∧ (bumpWrap d r).cel = d.cel ∧ (bumpWrap d r).bias = d.bias ∧
    (bumpWrap d r).snWait = d.snWait ∧ (bumpWrap d r).snCopy = d.snCopy ∧ (bumpWrap d r).snReady = d.snReady ∧
    (bumpWrap d r).snHeld = d.snHeld ∧ (bumpWrap d r).snPos = d.snPos ∧ (bumpWrap d r).snSeq = d.snSeq ∧
    (bumpWrap d r).cvBusy = d.cvBusy ∧ (bumpWrap d r).cvBorrow = d.cvBorrow ∧ (bumpWrap d r).core = d.core ∧
    (bumpWrap d r).pair = d.pair ∧ (bumpWrap d r).twin = d.twin ∧ (bumpWrap d r).hold = d.hold ∧
    (bumpWrap d r).pinLvl = d.pinLvl ∧ (bumpWrap d r).pinSyn = d.pinSyn ∧ (bumpWrap d r).gateDue = d.gateDue ∧
    (bumpWrap d r).vset = d.vset ∧ (bumpWrap d r).vsetDone = d.vsetDone ∧ (bumpWrap d r).entering = d.entering ∧
    (bumpWrap d r).jtagIr = d.jtagIr ∧ (bumpWrap d r).bsr = d.bsr ∧ (bumpWrap d r).tdr = d.tdr ∧
    (bumpWrap d r).tapWait = d.tapWait ∧ (bumpWrap d r).off = d.off ∧ (bumpWrap d r).otp = d.otp ∧
    (bumpWrap d r).otpRev = d.otpRev ∧ (bumpWrap d r).boot = d.boot ∧ (bumpWrap d r).pressBad = d.pressBad := by
  and_intros <;> rfl

/-- `setPend` changes `pend` only. -/
@[simp] theorem setPend_frame (d : Dev) (r : Reg) (v : Word) :
    (setPend d r v).regs = d.regs ∧ (setPend d r v).tags = d.tags ∧ (setPend d r v).busErr = d.busErr ∧
    (setPend d r v).now = d.now ∧ (setPend d r v).tb = d.tb ∧ (setPend d r v).tphase = d.tphase ∧
    (setPend d r v).tickno = d.tickno ∧ (setPend d r v).tickts = d.tickts ∧ (setPend d r v).tbHold = d.tbHold ∧
    (setPend d r v).huskRan = d.huskRan ∧ (setPend d r v).free = d.free ∧ (setPend d r v).tbArm = d.tbArm ∧
    (setPend d r v).gpt = d.gpt ∧ (setPend d r v).claims = d.claims ∧ (setPend d r v).gshut = d.gshut ∧
    (setPend d r v).evHold = d.evHold ∧ (setPend d r v).evDrop = d.evDrop ∧ (setPend d r v).hostSt = d.hostSt ∧
    (setPend d r v).loss = d.loss ∧ (setPend d r v).trace = d.trace ∧ (setPend d r v).trMissed = d.trMissed ∧
    (setPend d r v).trLost = d.trLost ∧ (setPend d r v).mem = d.mem ∧ (setPend d r v).mtag = d.mtag ∧
    (setPend d r v).ecc = d.ecc ∧ (setPend d r v).wback = d.wback ∧ (setPend d r v).fl = d.fl ∧
    (setPend d r v).flSusp = d.flSusp ∧ (setPend d r v).flProg = d.flProg ∧ (setPend d r v).suspect = d.suspect ∧
    (setPend d r v).swaps = d.swaps ∧ (setPend d r v).swapCut = d.swapCut ∧ (setPend d r v).rdpNext = d.rdpNext ∧
    (setPend d r v).scrubMark = d.scrubMark ∧ (setPend d r v).ddrUnk = d.ddrUnk ∧ (setPend d r v).ddrOk = d.ddrOk ∧
    (setPend d r v).ddrRetrain = d.ddrRetrain ∧ (setPend d r v).scrS = d.scrS ∧ (setPend d r v).scrD = d.scrD ∧
    (setPend d r v).ref = d.ref ∧ (setPend d r v).adc = d.adc ∧ (setPend d r v).fb = d.fb ∧ (setPend d r v).le = d.le ∧
    (setPend d r v).tri = d.tri ∧ (setPend d r v).leg = d.leg ∧ (setPend d r v).win = d.win ∧
    (setPend d r v).tripLoc = d.tripLoc ∧ (setPend d r v).chq = d.chq ∧ (setPend d r v).chSeq = d.chSeq ∧
    (setPend d r v).chAck = d.chAck ∧ (setPend d r v).chTwice = d.chTwice ∧ (setPend d r v).port = d.port ∧
    (setPend d r v).chain = d.chain ∧ (setPend d r v).lane = d.lane ∧ (setPend d r v).ctx = d.ctx ∧
    (setPend d r v).jobs = d.jobs ∧ (setPend d r v).eng = d.eng ∧ (setPend d r v).jobSeq = d.jobSeq ∧
    (setPend d r v).oq = d.oq ∧ (setPend d r v).oqDrop = d.oqDrop ∧ (setPend d r v).spill = d.spill ∧
    (setPend d r v).spSlot = d.spSlot ∧ (setPend d r v).cel = d.cel ∧ (setPend d r v).bias = d.bias ∧
    (setPend d r v).snWait = d.snWait ∧ (setPend d r v).snCopy = d.snCopy ∧ (setPend d r v).snReady = d.snReady ∧
    (setPend d r v).snHeld = d.snHeld ∧ (setPend d r v).snPos = d.snPos ∧ (setPend d r v).snSeq = d.snSeq ∧
    (setPend d r v).cvBusy = d.cvBusy ∧ (setPend d r v).cvBorrow = d.cvBorrow ∧ (setPend d r v).core = d.core ∧
    (setPend d r v).pair = d.pair ∧ (setPend d r v).twin = d.twin ∧ (setPend d r v).hold = d.hold ∧
    (setPend d r v).pinLvl = d.pinLvl ∧ (setPend d r v).pinSyn = d.pinSyn ∧ (setPend d r v).gateDue = d.gateDue ∧
    (setPend d r v).vset = d.vset ∧ (setPend d r v).vsetDone = d.vsetDone ∧ (setPend d r v).entering = d.entering ∧
    (setPend d r v).jtagIr = d.jtagIr ∧ (setPend d r v).bsr = d.bsr ∧ (setPend d r v).tdr = d.tdr ∧
    (setPend d r v).tapWait = d.tapWait ∧ (setPend d r v).off = d.off ∧ (setPend d r v).otp = d.otp ∧
    (setPend d r v).otpRev = d.otpRev ∧ (setPend d r v).boot = d.boot ∧ (setPend d r v).pressBad = d.pressBad := by
  and_intros <;> rfl

/-- `commitReg` changes `regs`, `pend` only. -/
@[simp] theorem commitReg_frame (d : Dev) (r : Reg) :
    (commitReg d r).tags = d.tags ∧ (commitReg d r).busErr = d.busErr ∧ (commitReg d r).now = d.now ∧
    (commitReg d r).tb = d.tb ∧ (commitReg d r).tphase = d.tphase ∧ (commitReg d r).tickno = d.tickno ∧
    (commitReg d r).tickts = d.tickts ∧ (commitReg d r).tbHold = d.tbHold ∧ (commitReg d r).huskRan = d.huskRan ∧
    (commitReg d r).free = d.free ∧ (commitReg d r).tbArm = d.tbArm ∧ (commitReg d r).gpt = d.gpt ∧
    (commitReg d r).claims = d.claims ∧ (commitReg d r).gshut = d.gshut ∧ (commitReg d r).evHold = d.evHold ∧
    (commitReg d r).evDrop = d.evDrop ∧ (commitReg d r).hostSt = d.hostSt ∧ (commitReg d r).loss = d.loss ∧
    (commitReg d r).trace = d.trace ∧ (commitReg d r).trMissed = d.trMissed ∧ (commitReg d r).trLost = d.trLost ∧
    (commitReg d r).mem = d.mem ∧ (commitReg d r).mtag = d.mtag ∧ (commitReg d r).ecc = d.ecc ∧
    (commitReg d r).wback = d.wback ∧ (commitReg d r).fl = d.fl ∧ (commitReg d r).flSusp = d.flSusp ∧
    (commitReg d r).flProg = d.flProg ∧ (commitReg d r).suspect = d.suspect ∧ (commitReg d r).swaps = d.swaps ∧
    (commitReg d r).swapCut = d.swapCut ∧ (commitReg d r).rdpNext = d.rdpNext ∧ (commitReg d r).scrubMark = d.scrubMark ∧
    (commitReg d r).ddrUnk = d.ddrUnk ∧ (commitReg d r).ddrOk = d.ddrOk ∧ (commitReg d r).ddrRetrain = d.ddrRetrain ∧
    (commitReg d r).scrS = d.scrS ∧ (commitReg d r).scrD = d.scrD ∧ (commitReg d r).ref = d.ref ∧
    (commitReg d r).adc = d.adc ∧ (commitReg d r).fb = d.fb ∧ (commitReg d r).le = d.le ∧ (commitReg d r).tri = d.tri ∧
    (commitReg d r).leg = d.leg ∧ (commitReg d r).win = d.win ∧ (commitReg d r).tripLoc = d.tripLoc ∧
    (commitReg d r).chq = d.chq ∧ (commitReg d r).chSeq = d.chSeq ∧ (commitReg d r).chAck = d.chAck ∧
    (commitReg d r).chTwice = d.chTwice ∧ (commitReg d r).port = d.port ∧ (commitReg d r).chain = d.chain ∧
    (commitReg d r).lane = d.lane ∧ (commitReg d r).ctx = d.ctx ∧ (commitReg d r).jobs = d.jobs ∧
    (commitReg d r).eng = d.eng ∧ (commitReg d r).jobSeq = d.jobSeq ∧ (commitReg d r).oq = d.oq ∧
    (commitReg d r).oqDrop = d.oqDrop ∧ (commitReg d r).spill = d.spill ∧ (commitReg d r).spSlot = d.spSlot ∧
    (commitReg d r).cel = d.cel ∧ (commitReg d r).bias = d.bias ∧ (commitReg d r).snWait = d.snWait ∧
    (commitReg d r).snCopy = d.snCopy ∧ (commitReg d r).snReady = d.snReady ∧ (commitReg d r).snHeld = d.snHeld ∧
    (commitReg d r).snPos = d.snPos ∧ (commitReg d r).snSeq = d.snSeq ∧ (commitReg d r).cvBusy = d.cvBusy ∧
    (commitReg d r).cvBorrow = d.cvBorrow ∧ (commitReg d r).core = d.core ∧ (commitReg d r).pair = d.pair ∧
    (commitReg d r).twin = d.twin ∧ (commitReg d r).hold = d.hold ∧ (commitReg d r).pinLvl = d.pinLvl ∧
    (commitReg d r).pinSyn = d.pinSyn ∧ (commitReg d r).gateDue = d.gateDue ∧ (commitReg d r).vset = d.vset ∧
    (commitReg d r).vsetDone = d.vsetDone ∧ (commitReg d r).entering = d.entering ∧ (commitReg d r).jtagIr = d.jtagIr ∧
    (commitReg d r).bsr = d.bsr ∧ (commitReg d r).tdr = d.tdr ∧ (commitReg d r).tapWait = d.tapWait ∧
    (commitReg d r).off = d.off ∧ (commitReg d r).otp = d.otp ∧ (commitReg d r).otpRev = d.otpRev ∧
    (commitReg d r).boot = d.boot ∧ (commitReg d r).pressBad = d.pressBad := by
  and_intros <;> rfl

/-- `raise` changes `regs` only. -/
@[simp] theorem raise_frame (d : Dev) (n : Nat) :
    (raise d n).pend = d.pend ∧ (raise d n).tags = d.tags ∧ (raise d n).busErr = d.busErr ∧ (raise d n).now = d.now ∧
    (raise d n).tb = d.tb ∧ (raise d n).tphase = d.tphase ∧ (raise d n).tickno = d.tickno ∧ (raise d n).tickts = d.tickts ∧
    (raise d n).tbHold = d.tbHold ∧ (raise d n).huskRan = d.huskRan ∧ (raise d n).free = d.free ∧
    (raise d n).tbArm = d.tbArm ∧ (raise d n).gpt = d.gpt ∧ (raise d n).claims = d.claims ∧ (raise d n).gshut = d.gshut ∧
    (raise d n).evHold = d.evHold ∧ (raise d n).evDrop = d.evDrop ∧ (raise d n).hostSt = d.hostSt ∧
    (raise d n).loss = d.loss ∧ (raise d n).trace = d.trace ∧ (raise d n).trMissed = d.trMissed ∧
    (raise d n).trLost = d.trLost ∧ (raise d n).mem = d.mem ∧ (raise d n).mtag = d.mtag ∧ (raise d n).ecc = d.ecc ∧
    (raise d n).wback = d.wback ∧ (raise d n).fl = d.fl ∧ (raise d n).flSusp = d.flSusp ∧ (raise d n).flProg = d.flProg ∧
    (raise d n).suspect = d.suspect ∧ (raise d n).swaps = d.swaps ∧ (raise d n).swapCut = d.swapCut ∧
    (raise d n).rdpNext = d.rdpNext ∧ (raise d n).scrubMark = d.scrubMark ∧ (raise d n).ddrUnk = d.ddrUnk ∧
    (raise d n).ddrOk = d.ddrOk ∧ (raise d n).ddrRetrain = d.ddrRetrain ∧ (raise d n).scrS = d.scrS ∧
    (raise d n).scrD = d.scrD ∧ (raise d n).ref = d.ref ∧ (raise d n).adc = d.adc ∧ (raise d n).fb = d.fb ∧
    (raise d n).le = d.le ∧ (raise d n).tri = d.tri ∧ (raise d n).leg = d.leg ∧ (raise d n).win = d.win ∧
    (raise d n).tripLoc = d.tripLoc ∧ (raise d n).chq = d.chq ∧ (raise d n).chSeq = d.chSeq ∧ (raise d n).chAck = d.chAck ∧
    (raise d n).chTwice = d.chTwice ∧ (raise d n).port = d.port ∧ (raise d n).chain = d.chain ∧ (raise d n).lane = d.lane ∧
    (raise d n).ctx = d.ctx ∧ (raise d n).jobs = d.jobs ∧ (raise d n).eng = d.eng ∧ (raise d n).jobSeq = d.jobSeq ∧
    (raise d n).oq = d.oq ∧ (raise d n).oqDrop = d.oqDrop ∧ (raise d n).spill = d.spill ∧ (raise d n).spSlot = d.spSlot ∧
    (raise d n).cel = d.cel ∧ (raise d n).bias = d.bias ∧ (raise d n).snWait = d.snWait ∧ (raise d n).snCopy = d.snCopy ∧
    (raise d n).snReady = d.snReady ∧ (raise d n).snHeld = d.snHeld ∧ (raise d n).snPos = d.snPos ∧
    (raise d n).snSeq = d.snSeq ∧ (raise d n).cvBusy = d.cvBusy ∧ (raise d n).cvBorrow = d.cvBorrow ∧
    (raise d n).core = d.core ∧ (raise d n).pair = d.pair ∧ (raise d n).twin = d.twin ∧ (raise d n).hold = d.hold ∧
    (raise d n).pinLvl = d.pinLvl ∧ (raise d n).pinSyn = d.pinSyn ∧ (raise d n).gateDue = d.gateDue ∧
    (raise d n).vset = d.vset ∧ (raise d n).vsetDone = d.vsetDone ∧ (raise d n).entering = d.entering ∧
    (raise d n).jtagIr = d.jtagIr ∧ (raise d n).bsr = d.bsr ∧ (raise d n).tdr = d.tdr ∧ (raise d n).tapWait = d.tapWait ∧
    (raise d n).off = d.off ∧ (raise d n).otp = d.otp ∧ (raise d n).otpRev = d.otpRev ∧ (raise d n).boot = d.boot ∧
    (raise d n).pressBad = d.pressBad := by
  unfold raise
  split <;> and_intros <;> rfl

/-- `setFlag` changes `regs` only. -/
@[simp] theorem setFlag_frame (d : Dev) (r : Reg) (b ie src : Nat) :
    (setFlag d r b ie src).pend = d.pend ∧ (setFlag d r b ie src).tags = d.tags ∧
    (setFlag d r b ie src).busErr = d.busErr ∧ (setFlag d r b ie src).now = d.now ∧ (setFlag d r b ie src).tb = d.tb ∧
    (setFlag d r b ie src).tphase = d.tphase ∧ (setFlag d r b ie src).tickno = d.tickno ∧
    (setFlag d r b ie src).tickts = d.tickts ∧ (setFlag d r b ie src).tbHold = d.tbHold ∧
    (setFlag d r b ie src).huskRan = d.huskRan ∧ (setFlag d r b ie src).free = d.free ∧
    (setFlag d r b ie src).tbArm = d.tbArm ∧ (setFlag d r b ie src).gpt = d.gpt ∧
    (setFlag d r b ie src).claims = d.claims ∧ (setFlag d r b ie src).gshut = d.gshut ∧
    (setFlag d r b ie src).evHold = d.evHold ∧ (setFlag d r b ie src).evDrop = d.evDrop ∧
    (setFlag d r b ie src).hostSt = d.hostSt ∧ (setFlag d r b ie src).loss = d.loss ∧
    (setFlag d r b ie src).trace = d.trace ∧ (setFlag d r b ie src).trMissed = d.trMissed ∧
    (setFlag d r b ie src).trLost = d.trLost ∧ (setFlag d r b ie src).mem = d.mem ∧ (setFlag d r b ie src).mtag = d.mtag ∧
    (setFlag d r b ie src).ecc = d.ecc ∧ (setFlag d r b ie src).wback = d.wback ∧ (setFlag d r b ie src).fl = d.fl ∧
    (setFlag d r b ie src).flSusp = d.flSusp ∧ (setFlag d r b ie src).flProg = d.flProg ∧
    (setFlag d r b ie src).suspect = d.suspect ∧ (setFlag d r b ie src).swaps = d.swaps ∧
    (setFlag d r b ie src).swapCut = d.swapCut ∧ (setFlag d r b ie src).rdpNext = d.rdpNext ∧
    (setFlag d r b ie src).scrubMark = d.scrubMark ∧ (setFlag d r b ie src).ddrUnk = d.ddrUnk ∧
    (setFlag d r b ie src).ddrOk = d.ddrOk ∧ (setFlag d r b ie src).ddrRetrain = d.ddrRetrain ∧
    (setFlag d r b ie src).scrS = d.scrS ∧ (setFlag d r b ie src).scrD = d.scrD ∧ (setFlag d r b ie src).ref = d.ref ∧
    (setFlag d r b ie src).adc = d.adc ∧ (setFlag d r b ie src).fb = d.fb ∧ (setFlag d r b ie src).le = d.le ∧
    (setFlag d r b ie src).tri = d.tri ∧ (setFlag d r b ie src).leg = d.leg ∧ (setFlag d r b ie src).win = d.win ∧
    (setFlag d r b ie src).tripLoc = d.tripLoc ∧ (setFlag d r b ie src).chq = d.chq ∧
    (setFlag d r b ie src).chSeq = d.chSeq ∧ (setFlag d r b ie src).chAck = d.chAck ∧
    (setFlag d r b ie src).chTwice = d.chTwice ∧ (setFlag d r b ie src).port = d.port ∧
    (setFlag d r b ie src).chain = d.chain ∧ (setFlag d r b ie src).lane = d.lane ∧ (setFlag d r b ie src).ctx = d.ctx ∧
    (setFlag d r b ie src).jobs = d.jobs ∧ (setFlag d r b ie src).eng = d.eng ∧ (setFlag d r b ie src).jobSeq = d.jobSeq ∧
    (setFlag d r b ie src).oq = d.oq ∧ (setFlag d r b ie src).oqDrop = d.oqDrop ∧ (setFlag d r b ie src).spill = d.spill ∧
    (setFlag d r b ie src).spSlot = d.spSlot ∧ (setFlag d r b ie src).cel = d.cel ∧ (setFlag d r b ie src).bias = d.bias ∧
    (setFlag d r b ie src).snWait = d.snWait ∧ (setFlag d r b ie src).snCopy = d.snCopy ∧
    (setFlag d r b ie src).snReady = d.snReady ∧ (setFlag d r b ie src).snHeld = d.snHeld ∧
    (setFlag d r b ie src).snPos = d.snPos ∧ (setFlag d r b ie src).snSeq = d.snSeq ∧
    (setFlag d r b ie src).cvBusy = d.cvBusy ∧ (setFlag d r b ie src).cvBorrow = d.cvBorrow ∧
    (setFlag d r b ie src).core = d.core ∧ (setFlag d r b ie src).pair = d.pair ∧ (setFlag d r b ie src).twin = d.twin ∧
    (setFlag d r b ie src).hold = d.hold ∧ (setFlag d r b ie src).pinLvl = d.pinLvl ∧
    (setFlag d r b ie src).pinSyn = d.pinSyn ∧ (setFlag d r b ie src).gateDue = d.gateDue ∧
    (setFlag d r b ie src).vset = d.vset ∧ (setFlag d r b ie src).vsetDone = d.vsetDone ∧
    (setFlag d r b ie src).entering = d.entering ∧ (setFlag d r b ie src).jtagIr = d.jtagIr ∧
    (setFlag d r b ie src).bsr = d.bsr ∧ (setFlag d r b ie src).tdr = d.tdr ∧ (setFlag d r b ie src).tapWait = d.tapWait ∧
    (setFlag d r b ie src).off = d.off ∧ (setFlag d r b ie src).otp = d.otp ∧ (setFlag d r b ie src).otpRev = d.otpRev ∧
    (setFlag d r b ie src).boot = d.boot ∧ (setFlag d r b ie src).pressBad = d.pressBad := by
  unfold setFlag
  split
  · and_intros <;> rfl
  · split <;> simp

/-- `advance` changes `now`, `tb`, `tphase`, `tbHold` only. -/
@[simp] theorem advance_frame (d : Dev) (n : Nat) :
    (advance d n).regs = d.regs ∧ (advance d n).pend = d.pend ∧ (advance d n).tags = d.tags ∧
    (advance d n).busErr = d.busErr ∧ (advance d n).tickno = d.tickno ∧ (advance d n).tickts = d.tickts ∧
    (advance d n).huskRan = d.huskRan ∧ (advance d n).free = d.free ∧ (advance d n).tbArm = d.tbArm ∧
    (advance d n).gpt = d.gpt ∧ (advance d n).claims = d.claims ∧ (advance d n).gshut = d.gshut ∧
    (advance d n).evHold = d.evHold ∧ (advance d n).evDrop = d.evDrop ∧ (advance d n).hostSt = d.hostSt ∧
    (advance d n).loss = d.loss ∧ (advance d n).trace = d.trace ∧ (advance d n).trMissed = d.trMissed ∧
    (advance d n).trLost = d.trLost ∧ (advance d n).mem = d.mem ∧ (advance d n).mtag = d.mtag ∧ (advance d n).ecc = d.ecc ∧
    (advance d n).wback = d.wback ∧ (advance d n).fl = d.fl ∧ (advance d n).flSusp = d.flSusp ∧
    (advance d n).flProg = d.flProg ∧ (advance d n).suspect = d.suspect ∧ (advance d n).swaps = d.swaps ∧
    (advance d n).swapCut = d.swapCut ∧ (advance d n).rdpNext = d.rdpNext ∧ (advance d n).scrubMark = d.scrubMark ∧
    (advance d n).ddrUnk = d.ddrUnk ∧ (advance d n).ddrOk = d.ddrOk ∧ (advance d n).ddrRetrain = d.ddrRetrain ∧
    (advance d n).scrS = d.scrS ∧ (advance d n).scrD = d.scrD ∧ (advance d n).ref = d.ref ∧ (advance d n).adc = d.adc ∧
    (advance d n).fb = d.fb ∧ (advance d n).le = d.le ∧ (advance d n).tri = d.tri ∧ (advance d n).leg = d.leg ∧
    (advance d n).win = d.win ∧ (advance d n).tripLoc = d.tripLoc ∧ (advance d n).chq = d.chq ∧
    (advance d n).chSeq = d.chSeq ∧ (advance d n).chAck = d.chAck ∧ (advance d n).chTwice = d.chTwice ∧
    (advance d n).port = d.port ∧ (advance d n).chain = d.chain ∧ (advance d n).lane = d.lane ∧ (advance d n).ctx = d.ctx ∧
    (advance d n).jobs = d.jobs ∧ (advance d n).eng = d.eng ∧ (advance d n).jobSeq = d.jobSeq ∧ (advance d n).oq = d.oq ∧
    (advance d n).oqDrop = d.oqDrop ∧ (advance d n).spill = d.spill ∧ (advance d n).spSlot = d.spSlot ∧
    (advance d n).cel = d.cel ∧ (advance d n).bias = d.bias ∧ (advance d n).snWait = d.snWait ∧
    (advance d n).snCopy = d.snCopy ∧ (advance d n).snReady = d.snReady ∧ (advance d n).snHeld = d.snHeld ∧
    (advance d n).snPos = d.snPos ∧ (advance d n).snSeq = d.snSeq ∧ (advance d n).cvBusy = d.cvBusy ∧
    (advance d n).cvBorrow = d.cvBorrow ∧ (advance d n).core = d.core ∧ (advance d n).pair = d.pair ∧
    (advance d n).twin = d.twin ∧ (advance d n).hold = d.hold ∧ (advance d n).pinLvl = d.pinLvl ∧
    (advance d n).pinSyn = d.pinSyn ∧ (advance d n).gateDue = d.gateDue ∧ (advance d n).vset = d.vset ∧
    (advance d n).vsetDone = d.vsetDone ∧ (advance d n).entering = d.entering ∧ (advance d n).jtagIr = d.jtagIr ∧
    (advance d n).bsr = d.bsr ∧ (advance d n).tdr = d.tdr ∧ (advance d n).tapWait = d.tapWait ∧ (advance d n).off = d.off ∧
    (advance d n).otp = d.otp ∧ (advance d n).otpRev = d.otpRev ∧ (advance d n).boot = d.boot ∧
    (advance d n).pressBad = d.pressBad := by
  and_intros <;> rfl

/-- `advanceTo` changes `now`, `tb`, `tphase`, `tbHold` only. -/
@[simp] theorem advanceTo_frame (d : Dev) (n : Nat) :
    (advanceTo d n).regs = d.regs ∧ (advanceTo d n).pend = d.pend ∧ (advanceTo d n).tags = d.tags ∧
    (advanceTo d n).busErr = d.busErr ∧ (advanceTo d n).tickno = d.tickno ∧ (advanceTo d n).tickts = d.tickts ∧
    (advanceTo d n).huskRan = d.huskRan ∧ (advanceTo d n).free = d.free ∧ (advanceTo d n).tbArm = d.tbArm ∧
    (advanceTo d n).gpt = d.gpt ∧ (advanceTo d n).claims = d.claims ∧ (advanceTo d n).gshut = d.gshut ∧
    (advanceTo d n).evHold = d.evHold ∧ (advanceTo d n).evDrop = d.evDrop ∧ (advanceTo d n).hostSt = d.hostSt ∧
    (advanceTo d n).loss = d.loss ∧ (advanceTo d n).trace = d.trace ∧ (advanceTo d n).trMissed = d.trMissed ∧
    (advanceTo d n).trLost = d.trLost ∧ (advanceTo d n).mem = d.mem ∧ (advanceTo d n).mtag = d.mtag ∧
    (advanceTo d n).ecc = d.ecc ∧ (advanceTo d n).wback = d.wback ∧ (advanceTo d n).fl = d.fl ∧
    (advanceTo d n).flSusp = d.flSusp ∧ (advanceTo d n).flProg = d.flProg ∧ (advanceTo d n).suspect = d.suspect ∧
    (advanceTo d n).swaps = d.swaps ∧ (advanceTo d n).swapCut = d.swapCut ∧ (advanceTo d n).rdpNext = d.rdpNext ∧
    (advanceTo d n).scrubMark = d.scrubMark ∧ (advanceTo d n).ddrUnk = d.ddrUnk ∧ (advanceTo d n).ddrOk = d.ddrOk ∧
    (advanceTo d n).ddrRetrain = d.ddrRetrain ∧ (advanceTo d n).scrS = d.scrS ∧ (advanceTo d n).scrD = d.scrD ∧
    (advanceTo d n).ref = d.ref ∧ (advanceTo d n).adc = d.adc ∧ (advanceTo d n).fb = d.fb ∧ (advanceTo d n).le = d.le ∧
    (advanceTo d n).tri = d.tri ∧ (advanceTo d n).leg = d.leg ∧ (advanceTo d n).win = d.win ∧
    (advanceTo d n).tripLoc = d.tripLoc ∧ (advanceTo d n).chq = d.chq ∧ (advanceTo d n).chSeq = d.chSeq ∧
    (advanceTo d n).chAck = d.chAck ∧ (advanceTo d n).chTwice = d.chTwice ∧ (advanceTo d n).port = d.port ∧
    (advanceTo d n).chain = d.chain ∧ (advanceTo d n).lane = d.lane ∧ (advanceTo d n).ctx = d.ctx ∧
    (advanceTo d n).jobs = d.jobs ∧ (advanceTo d n).eng = d.eng ∧ (advanceTo d n).jobSeq = d.jobSeq ∧
    (advanceTo d n).oq = d.oq ∧ (advanceTo d n).oqDrop = d.oqDrop ∧ (advanceTo d n).spill = d.spill ∧
    (advanceTo d n).spSlot = d.spSlot ∧ (advanceTo d n).cel = d.cel ∧ (advanceTo d n).bias = d.bias ∧
    (advanceTo d n).snWait = d.snWait ∧ (advanceTo d n).snCopy = d.snCopy ∧ (advanceTo d n).snReady = d.snReady ∧
    (advanceTo d n).snHeld = d.snHeld ∧ (advanceTo d n).snPos = d.snPos ∧ (advanceTo d n).snSeq = d.snSeq ∧
    (advanceTo d n).cvBusy = d.cvBusy ∧ (advanceTo d n).cvBorrow = d.cvBorrow ∧ (advanceTo d n).core = d.core ∧
    (advanceTo d n).pair = d.pair ∧ (advanceTo d n).twin = d.twin ∧ (advanceTo d n).hold = d.hold ∧
    (advanceTo d n).pinLvl = d.pinLvl ∧ (advanceTo d n).pinSyn = d.pinSyn ∧ (advanceTo d n).gateDue = d.gateDue ∧
    (advanceTo d n).vset = d.vset ∧ (advanceTo d n).vsetDone = d.vsetDone ∧ (advanceTo d n).entering = d.entering ∧
    (advanceTo d n).jtagIr = d.jtagIr ∧ (advanceTo d n).bsr = d.bsr ∧ (advanceTo d n).tdr = d.tdr ∧
    (advanceTo d n).tapWait = d.tapWait ∧ (advanceTo d n).off = d.off ∧ (advanceTo d n).otp = d.otp ∧
    (advanceTo d n).otpRev = d.otpRev ∧ (advanceTo d n).boot = d.boot ∧ (advanceTo d n).pressBad = d.pressBad := by
  and_intros <;> rfl

/-- `wrByte` changes `mem` only. -/
@[simp] theorem wrByte_frame (d : Dev) (k : Nat) (v : Byte) :
    (wrByte d k v).regs = d.regs ∧ (wrByte d k v).pend = d.pend ∧ (wrByte d k v).tags = d.tags ∧
    (wrByte d k v).busErr = d.busErr ∧ (wrByte d k v).now = d.now ∧ (wrByte d k v).tb = d.tb ∧
    (wrByte d k v).tphase = d.tphase ∧ (wrByte d k v).tickno = d.tickno ∧ (wrByte d k v).tickts = d.tickts ∧
    (wrByte d k v).tbHold = d.tbHold ∧ (wrByte d k v).huskRan = d.huskRan ∧ (wrByte d k v).free = d.free ∧
    (wrByte d k v).tbArm = d.tbArm ∧ (wrByte d k v).gpt = d.gpt ∧ (wrByte d k v).claims = d.claims ∧
    (wrByte d k v).gshut = d.gshut ∧ (wrByte d k v).evHold = d.evHold ∧ (wrByte d k v).evDrop = d.evDrop ∧
    (wrByte d k v).hostSt = d.hostSt ∧ (wrByte d k v).loss = d.loss ∧ (wrByte d k v).trace = d.trace ∧
    (wrByte d k v).trMissed = d.trMissed ∧ (wrByte d k v).trLost = d.trLost ∧ (wrByte d k v).mtag = d.mtag ∧
    (wrByte d k v).ecc = d.ecc ∧ (wrByte d k v).wback = d.wback ∧ (wrByte d k v).fl = d.fl ∧
    (wrByte d k v).flSusp = d.flSusp ∧ (wrByte d k v).flProg = d.flProg ∧ (wrByte d k v).suspect = d.suspect ∧
    (wrByte d k v).swaps = d.swaps ∧ (wrByte d k v).swapCut = d.swapCut ∧ (wrByte d k v).rdpNext = d.rdpNext ∧
    (wrByte d k v).scrubMark = d.scrubMark ∧ (wrByte d k v).ddrUnk = d.ddrUnk ∧ (wrByte d k v).ddrOk = d.ddrOk ∧
    (wrByte d k v).ddrRetrain = d.ddrRetrain ∧ (wrByte d k v).scrS = d.scrS ∧ (wrByte d k v).scrD = d.scrD ∧
    (wrByte d k v).ref = d.ref ∧ (wrByte d k v).adc = d.adc ∧ (wrByte d k v).fb = d.fb ∧ (wrByte d k v).le = d.le ∧
    (wrByte d k v).tri = d.tri ∧ (wrByte d k v).leg = d.leg ∧ (wrByte d k v).win = d.win ∧
    (wrByte d k v).tripLoc = d.tripLoc ∧ (wrByte d k v).chq = d.chq ∧ (wrByte d k v).chSeq = d.chSeq ∧
    (wrByte d k v).chAck = d.chAck ∧ (wrByte d k v).chTwice = d.chTwice ∧ (wrByte d k v).port = d.port ∧
    (wrByte d k v).chain = d.chain ∧ (wrByte d k v).lane = d.lane ∧ (wrByte d k v).ctx = d.ctx ∧
    (wrByte d k v).jobs = d.jobs ∧ (wrByte d k v).eng = d.eng ∧ (wrByte d k v).jobSeq = d.jobSeq ∧
    (wrByte d k v).oq = d.oq ∧ (wrByte d k v).oqDrop = d.oqDrop ∧ (wrByte d k v).spill = d.spill ∧
    (wrByte d k v).spSlot = d.spSlot ∧ (wrByte d k v).cel = d.cel ∧ (wrByte d k v).bias = d.bias ∧
    (wrByte d k v).snWait = d.snWait ∧ (wrByte d k v).snCopy = d.snCopy ∧ (wrByte d k v).snReady = d.snReady ∧
    (wrByte d k v).snHeld = d.snHeld ∧ (wrByte d k v).snPos = d.snPos ∧ (wrByte d k v).snSeq = d.snSeq ∧
    (wrByte d k v).cvBusy = d.cvBusy ∧ (wrByte d k v).cvBorrow = d.cvBorrow ∧ (wrByte d k v).core = d.core ∧
    (wrByte d k v).pair = d.pair ∧ (wrByte d k v).twin = d.twin ∧ (wrByte d k v).hold = d.hold ∧
    (wrByte d k v).pinLvl = d.pinLvl ∧ (wrByte d k v).pinSyn = d.pinSyn ∧ (wrByte d k v).gateDue = d.gateDue ∧
    (wrByte d k v).vset = d.vset ∧ (wrByte d k v).vsetDone = d.vsetDone ∧ (wrByte d k v).entering = d.entering ∧
    (wrByte d k v).jtagIr = d.jtagIr ∧ (wrByte d k v).bsr = d.bsr ∧ (wrByte d k v).tdr = d.tdr ∧
    (wrByte d k v).tapWait = d.tapWait ∧ (wrByte d k v).off = d.off ∧ (wrByte d k v).otp = d.otp ∧
    (wrByte d k v).otpRev = d.otpRev ∧ (wrByte d k v).boot = d.boot ∧ (wrByte d k v).pressBad = d.pressBad := by
  and_intros <;> rfl

/-- `wrTag` changes `mtag` only. -/
@[simp] theorem wrTag_frame (d : Dev) (k : Nat) (v : Tag) :
    (wrTag d k v).regs = d.regs ∧ (wrTag d k v).pend = d.pend ∧ (wrTag d k v).tags = d.tags ∧
    (wrTag d k v).busErr = d.busErr ∧ (wrTag d k v).now = d.now ∧ (wrTag d k v).tb = d.tb ∧
    (wrTag d k v).tphase = d.tphase ∧ (wrTag d k v).tickno = d.tickno ∧ (wrTag d k v).tickts = d.tickts ∧
    (wrTag d k v).tbHold = d.tbHold ∧ (wrTag d k v).huskRan = d.huskRan ∧ (wrTag d k v).free = d.free ∧
    (wrTag d k v).tbArm = d.tbArm ∧ (wrTag d k v).gpt = d.gpt ∧ (wrTag d k v).claims = d.claims ∧
    (wrTag d k v).gshut = d.gshut ∧ (wrTag d k v).evHold = d.evHold ∧ (wrTag d k v).evDrop = d.evDrop ∧
    (wrTag d k v).hostSt = d.hostSt ∧ (wrTag d k v).loss = d.loss ∧ (wrTag d k v).trace = d.trace ∧
    (wrTag d k v).trMissed = d.trMissed ∧ (wrTag d k v).trLost = d.trLost ∧ (wrTag d k v).mem = d.mem ∧
    (wrTag d k v).ecc = d.ecc ∧ (wrTag d k v).wback = d.wback ∧ (wrTag d k v).fl = d.fl ∧ (wrTag d k v).flSusp = d.flSusp ∧
    (wrTag d k v).flProg = d.flProg ∧ (wrTag d k v).suspect = d.suspect ∧ (wrTag d k v).swaps = d.swaps ∧
    (wrTag d k v).swapCut = d.swapCut ∧ (wrTag d k v).rdpNext = d.rdpNext ∧ (wrTag d k v).scrubMark = d.scrubMark ∧
    (wrTag d k v).ddrUnk = d.ddrUnk ∧ (wrTag d k v).ddrOk = d.ddrOk ∧ (wrTag d k v).ddrRetrain = d.ddrRetrain ∧
    (wrTag d k v).scrS = d.scrS ∧ (wrTag d k v).scrD = d.scrD ∧ (wrTag d k v).ref = d.ref ∧ (wrTag d k v).adc = d.adc ∧
    (wrTag d k v).fb = d.fb ∧ (wrTag d k v).le = d.le ∧ (wrTag d k v).tri = d.tri ∧ (wrTag d k v).leg = d.leg ∧
    (wrTag d k v).win = d.win ∧ (wrTag d k v).tripLoc = d.tripLoc ∧ (wrTag d k v).chq = d.chq ∧
    (wrTag d k v).chSeq = d.chSeq ∧ (wrTag d k v).chAck = d.chAck ∧ (wrTag d k v).chTwice = d.chTwice ∧
    (wrTag d k v).port = d.port ∧ (wrTag d k v).chain = d.chain ∧ (wrTag d k v).lane = d.lane ∧ (wrTag d k v).ctx = d.ctx ∧
    (wrTag d k v).jobs = d.jobs ∧ (wrTag d k v).eng = d.eng ∧ (wrTag d k v).jobSeq = d.jobSeq ∧ (wrTag d k v).oq = d.oq ∧
    (wrTag d k v).oqDrop = d.oqDrop ∧ (wrTag d k v).spill = d.spill ∧ (wrTag d k v).spSlot = d.spSlot ∧
    (wrTag d k v).cel = d.cel ∧ (wrTag d k v).bias = d.bias ∧ (wrTag d k v).snWait = d.snWait ∧
    (wrTag d k v).snCopy = d.snCopy ∧ (wrTag d k v).snReady = d.snReady ∧ (wrTag d k v).snHeld = d.snHeld ∧
    (wrTag d k v).snPos = d.snPos ∧ (wrTag d k v).snSeq = d.snSeq ∧ (wrTag d k v).cvBusy = d.cvBusy ∧
    (wrTag d k v).cvBorrow = d.cvBorrow ∧ (wrTag d k v).core = d.core ∧ (wrTag d k v).pair = d.pair ∧
    (wrTag d k v).twin = d.twin ∧ (wrTag d k v).hold = d.hold ∧ (wrTag d k v).pinLvl = d.pinLvl ∧
    (wrTag d k v).pinSyn = d.pinSyn ∧ (wrTag d k v).gateDue = d.gateDue ∧ (wrTag d k v).vset = d.vset ∧
    (wrTag d k v).vsetDone = d.vsetDone ∧ (wrTag d k v).entering = d.entering ∧ (wrTag d k v).jtagIr = d.jtagIr ∧
    (wrTag d k v).bsr = d.bsr ∧ (wrTag d k v).tdr = d.tdr ∧ (wrTag d k v).tapWait = d.tapWait ∧ (wrTag d k v).off = d.off ∧
    (wrTag d k v).otp = d.otp ∧ (wrTag d k v).otpRev = d.otpRev ∧ (wrTag d k v).boot = d.boot ∧
    (wrTag d k v).pressBad = d.pressBad := by
  and_intros <;> rfl

/-- `setGpt` changes `gpt` only. -/
@[simp] theorem setGpt_frame (d : Dev) (n : Nat) (x : GptSt) :
    (setGpt d n x).regs = d.regs ∧ (setGpt d n x).pend = d.pend ∧ (setGpt d n x).tags = d.tags ∧
    (setGpt d n x).busErr = d.busErr ∧ (setGpt d n x).now = d.now ∧ (setGpt d n x).tb = d.tb ∧
    (setGpt d n x).tphase = d.tphase ∧ (setGpt d n x).tickno = d.tickno ∧ (setGpt d n x).tickts = d.tickts ∧
    (setGpt d n x).tbHold = d.tbHold ∧ (setGpt d n x).huskRan = d.huskRan ∧ (setGpt d n x).free = d.free ∧
    (setGpt d n x).tbArm = d.tbArm ∧ (setGpt d n x).claims = d.claims ∧ (setGpt d n x).gshut = d.gshut ∧
    (setGpt d n x).evHold = d.evHold ∧ (setGpt d n x).evDrop = d.evDrop ∧ (setGpt d n x).hostSt = d.hostSt ∧
    (setGpt d n x).loss = d.loss ∧ (setGpt d n x).trace = d.trace ∧ (setGpt d n x).trMissed = d.trMissed ∧
    (setGpt d n x).trLost = d.trLost ∧ (setGpt d n x).mem = d.mem ∧ (setGpt d n x).mtag = d.mtag ∧
    (setGpt d n x).ecc = d.ecc ∧ (setGpt d n x).wback = d.wback ∧ (setGpt d n x).fl = d.fl ∧
    (setGpt d n x).flSusp = d.flSusp ∧ (setGpt d n x).flProg = d.flProg ∧ (setGpt d n x).suspect = d.suspect ∧
    (setGpt d n x).swaps = d.swaps ∧ (setGpt d n x).swapCut = d.swapCut ∧ (setGpt d n x).rdpNext = d.rdpNext ∧
    (setGpt d n x).scrubMark = d.scrubMark ∧ (setGpt d n x).ddrUnk = d.ddrUnk ∧ (setGpt d n x).ddrOk = d.ddrOk ∧
    (setGpt d n x).ddrRetrain = d.ddrRetrain ∧ (setGpt d n x).scrS = d.scrS ∧ (setGpt d n x).scrD = d.scrD ∧
    (setGpt d n x).ref = d.ref ∧ (setGpt d n x).adc = d.adc ∧ (setGpt d n x).fb = d.fb ∧ (setGpt d n x).le = d.le ∧
    (setGpt d n x).tri = d.tri ∧ (setGpt d n x).leg = d.leg ∧ (setGpt d n x).win = d.win ∧
    (setGpt d n x).tripLoc = d.tripLoc ∧ (setGpt d n x).chq = d.chq ∧ (setGpt d n x).chSeq = d.chSeq ∧
    (setGpt d n x).chAck = d.chAck ∧ (setGpt d n x).chTwice = d.chTwice ∧ (setGpt d n x).port = d.port ∧
    (setGpt d n x).chain = d.chain ∧ (setGpt d n x).lane = d.lane ∧ (setGpt d n x).ctx = d.ctx ∧
    (setGpt d n x).jobs = d.jobs ∧ (setGpt d n x).eng = d.eng ∧ (setGpt d n x).jobSeq = d.jobSeq ∧
    (setGpt d n x).oq = d.oq ∧ (setGpt d n x).oqDrop = d.oqDrop ∧ (setGpt d n x).spill = d.spill ∧
    (setGpt d n x).spSlot = d.spSlot ∧ (setGpt d n x).cel = d.cel ∧ (setGpt d n x).bias = d.bias ∧
    (setGpt d n x).snWait = d.snWait ∧ (setGpt d n x).snCopy = d.snCopy ∧ (setGpt d n x).snReady = d.snReady ∧
    (setGpt d n x).snHeld = d.snHeld ∧ (setGpt d n x).snPos = d.snPos ∧ (setGpt d n x).snSeq = d.snSeq ∧
    (setGpt d n x).cvBusy = d.cvBusy ∧ (setGpt d n x).cvBorrow = d.cvBorrow ∧ (setGpt d n x).core = d.core ∧
    (setGpt d n x).pair = d.pair ∧ (setGpt d n x).twin = d.twin ∧ (setGpt d n x).hold = d.hold ∧
    (setGpt d n x).pinLvl = d.pinLvl ∧ (setGpt d n x).pinSyn = d.pinSyn ∧ (setGpt d n x).gateDue = d.gateDue ∧
    (setGpt d n x).vset = d.vset ∧ (setGpt d n x).vsetDone = d.vsetDone ∧ (setGpt d n x).entering = d.entering ∧
    (setGpt d n x).jtagIr = d.jtagIr ∧ (setGpt d n x).bsr = d.bsr ∧ (setGpt d n x).tdr = d.tdr ∧
    (setGpt d n x).tapWait = d.tapWait ∧ (setGpt d n x).off = d.off ∧ (setGpt d n x).otp = d.otp ∧
    (setGpt d n x).otpRev = d.otpRev ∧ (setGpt d n x).boot = d.boot ∧ (setGpt d n x).pressBad = d.pressBad := by
  and_intros <;> rfl

/-- `refPut` changes `ref` only. -/
@[simp] theorem refPut_frame (d : Dev) (n : Nat) (x : RefSt) :
    (refPut d n x).regs = d.regs ∧ (refPut d n x).pend = d.pend ∧ (refPut d n x).tags = d.tags ∧
    (refPut d n x).busErr = d.busErr ∧ (refPut d n x).now = d.now ∧ (refPut d n x).tb = d.tb ∧
    (refPut d n x).tphase = d.tphase ∧ (refPut d n x).tickno = d.tickno ∧ (refPut d n x).tickts = d.tickts ∧
    (refPut d n x).tbHold = d.tbHold ∧ (refPut d n x).huskRan = d.huskRan ∧ (refPut d n x).free = d.free ∧
    (refPut d n x).tbArm = d.tbArm ∧ (refPut d n x).gpt = d.gpt ∧ (refPut d n x).claims = d.claims ∧
    (refPut d n x).gshut = d.gshut ∧ (refPut d n x).evHold = d.evHold ∧ (refPut d n x).evDrop = d.evDrop ∧
    (refPut d n x).hostSt = d.hostSt ∧ (refPut d n x).loss = d.loss ∧ (refPut d n x).trace = d.trace ∧
    (refPut d n x).trMissed = d.trMissed ∧ (refPut d n x).trLost = d.trLost ∧ (refPut d n x).mem = d.mem ∧
    (refPut d n x).mtag = d.mtag ∧ (refPut d n x).ecc = d.ecc ∧ (refPut d n x).wback = d.wback ∧ (refPut d n x).fl = d.fl ∧
    (refPut d n x).flSusp = d.flSusp ∧ (refPut d n x).flProg = d.flProg ∧ (refPut d n x).suspect = d.suspect ∧
    (refPut d n x).swaps = d.swaps ∧ (refPut d n x).swapCut = d.swapCut ∧ (refPut d n x).rdpNext = d.rdpNext ∧
    (refPut d n x).scrubMark = d.scrubMark ∧ (refPut d n x).ddrUnk = d.ddrUnk ∧ (refPut d n x).ddrOk = d.ddrOk ∧
    (refPut d n x).ddrRetrain = d.ddrRetrain ∧ (refPut d n x).scrS = d.scrS ∧ (refPut d n x).scrD = d.scrD ∧
    (refPut d n x).adc = d.adc ∧ (refPut d n x).fb = d.fb ∧ (refPut d n x).le = d.le ∧ (refPut d n x).tri = d.tri ∧
    (refPut d n x).leg = d.leg ∧ (refPut d n x).win = d.win ∧ (refPut d n x).tripLoc = d.tripLoc ∧
    (refPut d n x).chq = d.chq ∧ (refPut d n x).chSeq = d.chSeq ∧ (refPut d n x).chAck = d.chAck ∧
    (refPut d n x).chTwice = d.chTwice ∧ (refPut d n x).port = d.port ∧ (refPut d n x).chain = d.chain ∧
    (refPut d n x).lane = d.lane ∧ (refPut d n x).ctx = d.ctx ∧ (refPut d n x).jobs = d.jobs ∧ (refPut d n x).eng = d.eng ∧
    (refPut d n x).jobSeq = d.jobSeq ∧ (refPut d n x).oq = d.oq ∧ (refPut d n x).oqDrop = d.oqDrop ∧
    (refPut d n x).spill = d.spill ∧ (refPut d n x).spSlot = d.spSlot ∧ (refPut d n x).cel = d.cel ∧
    (refPut d n x).bias = d.bias ∧ (refPut d n x).snWait = d.snWait ∧ (refPut d n x).snCopy = d.snCopy ∧
    (refPut d n x).snReady = d.snReady ∧ (refPut d n x).snHeld = d.snHeld ∧ (refPut d n x).snPos = d.snPos ∧
    (refPut d n x).snSeq = d.snSeq ∧ (refPut d n x).cvBusy = d.cvBusy ∧ (refPut d n x).cvBorrow = d.cvBorrow ∧
    (refPut d n x).core = d.core ∧ (refPut d n x).pair = d.pair ∧ (refPut d n x).twin = d.twin ∧
    (refPut d n x).hold = d.hold ∧ (refPut d n x).pinLvl = d.pinLvl ∧ (refPut d n x).pinSyn = d.pinSyn ∧
    (refPut d n x).gateDue = d.gateDue ∧ (refPut d n x).vset = d.vset ∧ (refPut d n x).vsetDone = d.vsetDone ∧
    (refPut d n x).entering = d.entering ∧ (refPut d n x).jtagIr = d.jtagIr ∧ (refPut d n x).bsr = d.bsr ∧
    (refPut d n x).tdr = d.tdr ∧ (refPut d n x).tapWait = d.tapWait ∧ (refPut d n x).off = d.off ∧
    (refPut d n x).otp = d.otp ∧ (refPut d n x).otpRev = d.otpRev ∧ (refPut d n x).boot = d.boot ∧
    (refPut d n x).pressBad = d.pressBad := by
  and_intros <;> rfl

/-- `adcPut` changes `adc` only. -/
@[simp] theorem adcPut_frame (d : Dev) (n : Nat) (x : AdcSt) :
    (adcPut d n x).regs = d.regs ∧ (adcPut d n x).pend = d.pend ∧ (adcPut d n x).tags = d.tags ∧
    (adcPut d n x).busErr = d.busErr ∧ (adcPut d n x).now = d.now ∧ (adcPut d n x).tb = d.tb ∧
    (adcPut d n x).tphase = d.tphase ∧ (adcPut d n x).tickno = d.tickno ∧ (adcPut d n x).tickts = d.tickts ∧
    (adcPut d n x).tbHold = d.tbHold ∧ (adcPut d n x).huskRan = d.huskRan ∧ (adcPut d n x).free = d.free ∧
    (adcPut d n x).tbArm = d.tbArm ∧ (adcPut d n x).gpt = d.gpt ∧ (adcPut d n x).claims = d.claims ∧
    (adcPut d n x).gshut = d.gshut ∧ (adcPut d n x).evHold = d.evHold ∧ (adcPut d n x).evDrop = d.evDrop ∧
    (adcPut d n x).hostSt = d.hostSt ∧ (adcPut d n x).loss = d.loss ∧ (adcPut d n x).trace = d.trace ∧
    (adcPut d n x).trMissed = d.trMissed ∧ (adcPut d n x).trLost = d.trLost ∧ (adcPut d n x).mem = d.mem ∧
    (adcPut d n x).mtag = d.mtag ∧ (adcPut d n x).ecc = d.ecc ∧ (adcPut d n x).wback = d.wback ∧ (adcPut d n x).fl = d.fl ∧
    (adcPut d n x).flSusp = d.flSusp ∧ (adcPut d n x).flProg = d.flProg ∧ (adcPut d n x).suspect = d.suspect ∧
    (adcPut d n x).swaps = d.swaps ∧ (adcPut d n x).swapCut = d.swapCut ∧ (adcPut d n x).rdpNext = d.rdpNext ∧
    (adcPut d n x).scrubMark = d.scrubMark ∧ (adcPut d n x).ddrUnk = d.ddrUnk ∧ (adcPut d n x).ddrOk = d.ddrOk ∧
    (adcPut d n x).ddrRetrain = d.ddrRetrain ∧ (adcPut d n x).scrS = d.scrS ∧ (adcPut d n x).scrD = d.scrD ∧
    (adcPut d n x).ref = d.ref ∧ (adcPut d n x).fb = d.fb ∧ (adcPut d n x).le = d.le ∧ (adcPut d n x).tri = d.tri ∧
    (adcPut d n x).leg = d.leg ∧ (adcPut d n x).win = d.win ∧ (adcPut d n x).tripLoc = d.tripLoc ∧
    (adcPut d n x).chq = d.chq ∧ (adcPut d n x).chSeq = d.chSeq ∧ (adcPut d n x).chAck = d.chAck ∧
    (adcPut d n x).chTwice = d.chTwice ∧ (adcPut d n x).port = d.port ∧ (adcPut d n x).chain = d.chain ∧
    (adcPut d n x).lane = d.lane ∧ (adcPut d n x).ctx = d.ctx ∧ (adcPut d n x).jobs = d.jobs ∧ (adcPut d n x).eng = d.eng ∧
    (adcPut d n x).jobSeq = d.jobSeq ∧ (adcPut d n x).oq = d.oq ∧ (adcPut d n x).oqDrop = d.oqDrop ∧
    (adcPut d n x).spill = d.spill ∧ (adcPut d n x).spSlot = d.spSlot ∧ (adcPut d n x).cel = d.cel ∧
    (adcPut d n x).bias = d.bias ∧ (adcPut d n x).snWait = d.snWait ∧ (adcPut d n x).snCopy = d.snCopy ∧
    (adcPut d n x).snReady = d.snReady ∧ (adcPut d n x).snHeld = d.snHeld ∧ (adcPut d n x).snPos = d.snPos ∧
    (adcPut d n x).snSeq = d.snSeq ∧ (adcPut d n x).cvBusy = d.cvBusy ∧ (adcPut d n x).cvBorrow = d.cvBorrow ∧
    (adcPut d n x).core = d.core ∧ (adcPut d n x).pair = d.pair ∧ (adcPut d n x).twin = d.twin ∧
    (adcPut d n x).hold = d.hold ∧ (adcPut d n x).pinLvl = d.pinLvl ∧ (adcPut d n x).pinSyn = d.pinSyn ∧
    (adcPut d n x).gateDue = d.gateDue ∧ (adcPut d n x).vset = d.vset ∧ (adcPut d n x).vsetDone = d.vsetDone ∧
    (adcPut d n x).entering = d.entering ∧ (adcPut d n x).jtagIr = d.jtagIr ∧ (adcPut d n x).bsr = d.bsr ∧
    (adcPut d n x).tdr = d.tdr ∧ (adcPut d n x).tapWait = d.tapWait ∧ (adcPut d n x).off = d.off ∧
    (adcPut d n x).otp = d.otp ∧ (adcPut d n x).otpRev = d.otpRev ∧ (adcPut d n x).boot = d.boot ∧
    (adcPut d n x).pressBad = d.pressBad := by
  and_intros <;> rfl

/-- `fbPut` changes `fb` only. -/
@[simp] theorem fbPut_frame (d : Dev) (n : Nat) (x : FbSt) :
    (fbPut d n x).regs = d.regs ∧ (fbPut d n x).pend = d.pend ∧ (fbPut d n x).tags = d.tags ∧
    (fbPut d n x).busErr = d.busErr ∧ (fbPut d n x).now = d.now ∧ (fbPut d n x).tb = d.tb ∧
    (fbPut d n x).tphase = d.tphase ∧ (fbPut d n x).tickno = d.tickno ∧ (fbPut d n x).tickts = d.tickts ∧
    (fbPut d n x).tbHold = d.tbHold ∧ (fbPut d n x).huskRan = d.huskRan ∧ (fbPut d n x).free = d.free ∧
    (fbPut d n x).tbArm = d.tbArm ∧ (fbPut d n x).gpt = d.gpt ∧ (fbPut d n x).claims = d.claims ∧
    (fbPut d n x).gshut = d.gshut ∧ (fbPut d n x).evHold = d.evHold ∧ (fbPut d n x).evDrop = d.evDrop ∧
    (fbPut d n x).hostSt = d.hostSt ∧ (fbPut d n x).loss = d.loss ∧ (fbPut d n x).trace = d.trace ∧
    (fbPut d n x).trMissed = d.trMissed ∧ (fbPut d n x).trLost = d.trLost ∧ (fbPut d n x).mem = d.mem ∧
    (fbPut d n x).mtag = d.mtag ∧ (fbPut d n x).ecc = d.ecc ∧ (fbPut d n x).wback = d.wback ∧ (fbPut d n x).fl = d.fl ∧
    (fbPut d n x).flSusp = d.flSusp ∧ (fbPut d n x).flProg = d.flProg ∧ (fbPut d n x).suspect = d.suspect ∧
    (fbPut d n x).swaps = d.swaps ∧ (fbPut d n x).swapCut = d.swapCut ∧ (fbPut d n x).rdpNext = d.rdpNext ∧
    (fbPut d n x).scrubMark = d.scrubMark ∧ (fbPut d n x).ddrUnk = d.ddrUnk ∧ (fbPut d n x).ddrOk = d.ddrOk ∧
    (fbPut d n x).ddrRetrain = d.ddrRetrain ∧ (fbPut d n x).scrS = d.scrS ∧ (fbPut d n x).scrD = d.scrD ∧
    (fbPut d n x).ref = d.ref ∧ (fbPut d n x).adc = d.adc ∧ (fbPut d n x).le = d.le ∧ (fbPut d n x).tri = d.tri ∧
    (fbPut d n x).leg = d.leg ∧ (fbPut d n x).win = d.win ∧ (fbPut d n x).tripLoc = d.tripLoc ∧ (fbPut d n x).chq = d.chq ∧
    (fbPut d n x).chSeq = d.chSeq ∧ (fbPut d n x).chAck = d.chAck ∧ (fbPut d n x).chTwice = d.chTwice ∧
    (fbPut d n x).port = d.port ∧ (fbPut d n x).chain = d.chain ∧ (fbPut d n x).lane = d.lane ∧ (fbPut d n x).ctx = d.ctx ∧
    (fbPut d n x).jobs = d.jobs ∧ (fbPut d n x).eng = d.eng ∧ (fbPut d n x).jobSeq = d.jobSeq ∧ (fbPut d n x).oq = d.oq ∧
    (fbPut d n x).oqDrop = d.oqDrop ∧ (fbPut d n x).spill = d.spill ∧ (fbPut d n x).spSlot = d.spSlot ∧
    (fbPut d n x).cel = d.cel ∧ (fbPut d n x).bias = d.bias ∧ (fbPut d n x).snWait = d.snWait ∧
    (fbPut d n x).snCopy = d.snCopy ∧ (fbPut d n x).snReady = d.snReady ∧ (fbPut d n x).snHeld = d.snHeld ∧
    (fbPut d n x).snPos = d.snPos ∧ (fbPut d n x).snSeq = d.snSeq ∧ (fbPut d n x).cvBusy = d.cvBusy ∧
    (fbPut d n x).cvBorrow = d.cvBorrow ∧ (fbPut d n x).core = d.core ∧ (fbPut d n x).pair = d.pair ∧
    (fbPut d n x).twin = d.twin ∧ (fbPut d n x).hold = d.hold ∧ (fbPut d n x).pinLvl = d.pinLvl ∧
    (fbPut d n x).pinSyn = d.pinSyn ∧ (fbPut d n x).gateDue = d.gateDue ∧ (fbPut d n x).vset = d.vset ∧
    (fbPut d n x).vsetDone = d.vsetDone ∧ (fbPut d n x).entering = d.entering ∧ (fbPut d n x).jtagIr = d.jtagIr ∧
    (fbPut d n x).bsr = d.bsr ∧ (fbPut d n x).tdr = d.tdr ∧ (fbPut d n x).tapWait = d.tapWait ∧ (fbPut d n x).off = d.off ∧
    (fbPut d n x).otp = d.otp ∧ (fbPut d n x).otpRev = d.otpRev ∧ (fbPut d n x).boot = d.boot ∧
    (fbPut d n x).pressBad = d.pressBad := by
  and_intros <;> rfl

/-- `triPut` changes `tri` only. -/
@[simp] theorem triPut_frame (d : Dev) (n : Nat) (x : TriSt) :
    (triPut d n x).regs = d.regs ∧ (triPut d n x).pend = d.pend ∧ (triPut d n x).tags = d.tags ∧
    (triPut d n x).busErr = d.busErr ∧ (triPut d n x).now = d.now ∧ (triPut d n x).tb = d.tb ∧
    (triPut d n x).tphase = d.tphase ∧ (triPut d n x).tickno = d.tickno ∧ (triPut d n x).tickts = d.tickts ∧
    (triPut d n x).tbHold = d.tbHold ∧ (triPut d n x).huskRan = d.huskRan ∧ (triPut d n x).free = d.free ∧
    (triPut d n x).tbArm = d.tbArm ∧ (triPut d n x).gpt = d.gpt ∧ (triPut d n x).claims = d.claims ∧
    (triPut d n x).gshut = d.gshut ∧ (triPut d n x).evHold = d.evHold ∧ (triPut d n x).evDrop = d.evDrop ∧
    (triPut d n x).hostSt = d.hostSt ∧ (triPut d n x).loss = d.loss ∧ (triPut d n x).trace = d.trace ∧
    (triPut d n x).trMissed = d.trMissed ∧ (triPut d n x).trLost = d.trLost ∧ (triPut d n x).mem = d.mem ∧
    (triPut d n x).mtag = d.mtag ∧ (triPut d n x).ecc = d.ecc ∧ (triPut d n x).wback = d.wback ∧ (triPut d n x).fl = d.fl ∧
    (triPut d n x).flSusp = d.flSusp ∧ (triPut d n x).flProg = d.flProg ∧ (triPut d n x).suspect = d.suspect ∧
    (triPut d n x).swaps = d.swaps ∧ (triPut d n x).swapCut = d.swapCut ∧ (triPut d n x).rdpNext = d.rdpNext ∧
    (triPut d n x).scrubMark = d.scrubMark ∧ (triPut d n x).ddrUnk = d.ddrUnk ∧ (triPut d n x).ddrOk = d.ddrOk ∧
    (triPut d n x).ddrRetrain = d.ddrRetrain ∧ (triPut d n x).scrS = d.scrS ∧ (triPut d n x).scrD = d.scrD ∧
    (triPut d n x).ref = d.ref ∧ (triPut d n x).adc = d.adc ∧ (triPut d n x).fb = d.fb ∧ (triPut d n x).le = d.le ∧
    (triPut d n x).leg = d.leg ∧ (triPut d n x).win = d.win ∧ (triPut d n x).tripLoc = d.tripLoc ∧
    (triPut d n x).chq = d.chq ∧ (triPut d n x).chSeq = d.chSeq ∧ (triPut d n x).chAck = d.chAck ∧
    (triPut d n x).chTwice = d.chTwice ∧ (triPut d n x).port = d.port ∧ (triPut d n x).chain = d.chain ∧
    (triPut d n x).lane = d.lane ∧ (triPut d n x).ctx = d.ctx ∧ (triPut d n x).jobs = d.jobs ∧ (triPut d n x).eng = d.eng ∧
    (triPut d n x).jobSeq = d.jobSeq ∧ (triPut d n x).oq = d.oq ∧ (triPut d n x).oqDrop = d.oqDrop ∧
    (triPut d n x).spill = d.spill ∧ (triPut d n x).spSlot = d.spSlot ∧ (triPut d n x).cel = d.cel ∧
    (triPut d n x).bias = d.bias ∧ (triPut d n x).snWait = d.snWait ∧ (triPut d n x).snCopy = d.snCopy ∧
    (triPut d n x).snReady = d.snReady ∧ (triPut d n x).snHeld = d.snHeld ∧ (triPut d n x).snPos = d.snPos ∧
    (triPut d n x).snSeq = d.snSeq ∧ (triPut d n x).cvBusy = d.cvBusy ∧ (triPut d n x).cvBorrow = d.cvBorrow ∧
    (triPut d n x).core = d.core ∧ (triPut d n x).pair = d.pair ∧ (triPut d n x).twin = d.twin ∧
    (triPut d n x).hold = d.hold ∧ (triPut d n x).pinLvl = d.pinLvl ∧ (triPut d n x).pinSyn = d.pinSyn ∧
    (triPut d n x).gateDue = d.gateDue ∧ (triPut d n x).vset = d.vset ∧ (triPut d n x).vsetDone = d.vsetDone ∧
    (triPut d n x).entering = d.entering ∧ (triPut d n x).jtagIr = d.jtagIr ∧ (triPut d n x).bsr = d.bsr ∧
    (triPut d n x).tdr = d.tdr ∧ (triPut d n x).tapWait = d.tapWait ∧ (triPut d n x).off = d.off ∧
    (triPut d n x).otp = d.otp ∧ (triPut d n x).otpRev = d.otpRev ∧ (triPut d n x).boot = d.boot ∧
    (triPut d n x).pressBad = d.pressBad := by
  and_intros <;> rfl

/-- `legPut` changes `leg` only. -/
@[simp] theorem legPut_frame (d : Dev) (n j : Nat) (x : LegSt) :
    (legPut d n j x).regs = d.regs ∧ (legPut d n j x).pend = d.pend ∧ (legPut d n j x).tags = d.tags ∧
    (legPut d n j x).busErr = d.busErr ∧ (legPut d n j x).now = d.now ∧ (legPut d n j x).tb = d.tb ∧
    (legPut d n j x).tphase = d.tphase ∧ (legPut d n j x).tickno = d.tickno ∧ (legPut d n j x).tickts = d.tickts ∧
    (legPut d n j x).tbHold = d.tbHold ∧ (legPut d n j x).huskRan = d.huskRan ∧ (legPut d n j x).free = d.free ∧
    (legPut d n j x).tbArm = d.tbArm ∧ (legPut d n j x).gpt = d.gpt ∧ (legPut d n j x).claims = d.claims ∧
    (legPut d n j x).gshut = d.gshut ∧ (legPut d n j x).evHold = d.evHold ∧ (legPut d n j x).evDrop = d.evDrop ∧
    (legPut d n j x).hostSt = d.hostSt ∧ (legPut d n j x).loss = d.loss ∧ (legPut d n j x).trace = d.trace ∧
    (legPut d n j x).trMissed = d.trMissed ∧ (legPut d n j x).trLost = d.trLost ∧ (legPut d n j x).mem = d.mem ∧
    (legPut d n j x).mtag = d.mtag ∧ (legPut d n j x).ecc = d.ecc ∧ (legPut d n j x).wback = d.wback ∧
    (legPut d n j x).fl = d.fl ∧ (legPut d n j x).flSusp = d.flSusp ∧ (legPut d n j x).flProg = d.flProg ∧
    (legPut d n j x).suspect = d.suspect ∧ (legPut d n j x).swaps = d.swaps ∧ (legPut d n j x).swapCut = d.swapCut ∧
    (legPut d n j x).rdpNext = d.rdpNext ∧ (legPut d n j x).scrubMark = d.scrubMark ∧ (legPut d n j x).ddrUnk = d.ddrUnk ∧
    (legPut d n j x).ddrOk = d.ddrOk ∧ (legPut d n j x).ddrRetrain = d.ddrRetrain ∧ (legPut d n j x).scrS = d.scrS ∧
    (legPut d n j x).scrD = d.scrD ∧ (legPut d n j x).ref = d.ref ∧ (legPut d n j x).adc = d.adc ∧
    (legPut d n j x).fb = d.fb ∧ (legPut d n j x).le = d.le ∧ (legPut d n j x).tri = d.tri ∧ (legPut d n j x).win = d.win ∧
    (legPut d n j x).tripLoc = d.tripLoc ∧ (legPut d n j x).chq = d.chq ∧ (legPut d n j x).chSeq = d.chSeq ∧
    (legPut d n j x).chAck = d.chAck ∧ (legPut d n j x).chTwice = d.chTwice ∧ (legPut d n j x).port = d.port ∧
    (legPut d n j x).chain = d.chain ∧ (legPut d n j x).lane = d.lane ∧ (legPut d n j x).ctx = d.ctx ∧
    (legPut d n j x).jobs = d.jobs ∧ (legPut d n j x).eng = d.eng ∧ (legPut d n j x).jobSeq = d.jobSeq ∧
    (legPut d n j x).oq = d.oq ∧ (legPut d n j x).oqDrop = d.oqDrop ∧ (legPut d n j x).spill = d.spill ∧
    (legPut d n j x).spSlot = d.spSlot ∧ (legPut d n j x).cel = d.cel ∧ (legPut d n j x).bias = d.bias ∧
    (legPut d n j x).snWait = d.snWait ∧ (legPut d n j x).snCopy = d.snCopy ∧ (legPut d n j x).snReady = d.snReady ∧
    (legPut d n j x).snHeld = d.snHeld ∧ (legPut d n j x).snPos = d.snPos ∧ (legPut d n j x).snSeq = d.snSeq ∧
    (legPut d n j x).cvBusy = d.cvBusy ∧ (legPut d n j x).cvBorrow = d.cvBorrow ∧ (legPut d n j x).core = d.core ∧
    (legPut d n j x).pair = d.pair ∧ (legPut d n j x).twin = d.twin ∧ (legPut d n j x).hold = d.hold ∧
    (legPut d n j x).pinLvl = d.pinLvl ∧ (legPut d n j x).pinSyn = d.pinSyn ∧ (legPut d n j x).gateDue = d.gateDue ∧
    (legPut d n j x).vset = d.vset ∧ (legPut d n j x).vsetDone = d.vsetDone ∧ (legPut d n j x).entering = d.entering ∧
    (legPut d n j x).jtagIr = d.jtagIr ∧ (legPut d n j x).bsr = d.bsr ∧ (legPut d n j x).tdr = d.tdr ∧
    (legPut d n j x).tapWait = d.tapWait ∧ (legPut d n j x).off = d.off ∧ (legPut d n j x).otp = d.otp ∧
    (legPut d n j x).otpRev = d.otpRev ∧ (legPut d n j x).boot = d.boot ∧ (legPut d n j x).pressBad = d.pressBad := by
  and_intros <;> rfl

/-- `winPut` changes `win` only. -/
@[simp] theorem winPut_frame (d : Dev) (n : Nat) (x : WinSt) :
    (winPut d n x).regs = d.regs ∧ (winPut d n x).pend = d.pend ∧ (winPut d n x).tags = d.tags ∧
    (winPut d n x).busErr = d.busErr ∧ (winPut d n x).now = d.now ∧ (winPut d n x).tb = d.tb ∧
    (winPut d n x).tphase = d.tphase ∧ (winPut d n x).tickno = d.tickno ∧ (winPut d n x).tickts = d.tickts ∧
    (winPut d n x).tbHold = d.tbHold ∧ (winPut d n x).huskRan = d.huskRan ∧ (winPut d n x).free = d.free ∧
    (winPut d n x).tbArm = d.tbArm ∧ (winPut d n x).gpt = d.gpt ∧ (winPut d n x).claims = d.claims ∧
    (winPut d n x).gshut = d.gshut ∧ (winPut d n x).evHold = d.evHold ∧ (winPut d n x).evDrop = d.evDrop ∧
    (winPut d n x).hostSt = d.hostSt ∧ (winPut d n x).loss = d.loss ∧ (winPut d n x).trace = d.trace ∧
    (winPut d n x).trMissed = d.trMissed ∧ (winPut d n x).trLost = d.trLost ∧ (winPut d n x).mem = d.mem ∧
    (winPut d n x).mtag = d.mtag ∧ (winPut d n x).ecc = d.ecc ∧ (winPut d n x).wback = d.wback ∧ (winPut d n x).fl = d.fl ∧
    (winPut d n x).flSusp = d.flSusp ∧ (winPut d n x).flProg = d.flProg ∧ (winPut d n x).suspect = d.suspect ∧
    (winPut d n x).swaps = d.swaps ∧ (winPut d n x).swapCut = d.swapCut ∧ (winPut d n x).rdpNext = d.rdpNext ∧
    (winPut d n x).scrubMark = d.scrubMark ∧ (winPut d n x).ddrUnk = d.ddrUnk ∧ (winPut d n x).ddrOk = d.ddrOk ∧
    (winPut d n x).ddrRetrain = d.ddrRetrain ∧ (winPut d n x).scrS = d.scrS ∧ (winPut d n x).scrD = d.scrD ∧
    (winPut d n x).ref = d.ref ∧ (winPut d n x).adc = d.adc ∧ (winPut d n x).fb = d.fb ∧ (winPut d n x).le = d.le ∧
    (winPut d n x).tri = d.tri ∧ (winPut d n x).leg = d.leg ∧ (winPut d n x).tripLoc = d.tripLoc ∧
    (winPut d n x).chq = d.chq ∧ (winPut d n x).chSeq = d.chSeq ∧ (winPut d n x).chAck = d.chAck ∧
    (winPut d n x).chTwice = d.chTwice ∧ (winPut d n x).port = d.port ∧ (winPut d n x).chain = d.chain ∧
    (winPut d n x).lane = d.lane ∧ (winPut d n x).ctx = d.ctx ∧ (winPut d n x).jobs = d.jobs ∧ (winPut d n x).eng = d.eng ∧
    (winPut d n x).jobSeq = d.jobSeq ∧ (winPut d n x).oq = d.oq ∧ (winPut d n x).oqDrop = d.oqDrop ∧
    (winPut d n x).spill = d.spill ∧ (winPut d n x).spSlot = d.spSlot ∧ (winPut d n x).cel = d.cel ∧
    (winPut d n x).bias = d.bias ∧ (winPut d n x).snWait = d.snWait ∧ (winPut d n x).snCopy = d.snCopy ∧
    (winPut d n x).snReady = d.snReady ∧ (winPut d n x).snHeld = d.snHeld ∧ (winPut d n x).snPos = d.snPos ∧
    (winPut d n x).snSeq = d.snSeq ∧ (winPut d n x).cvBusy = d.cvBusy ∧ (winPut d n x).cvBorrow = d.cvBorrow ∧
    (winPut d n x).core = d.core ∧ (winPut d n x).pair = d.pair ∧ (winPut d n x).twin = d.twin ∧
    (winPut d n x).hold = d.hold ∧ (winPut d n x).pinLvl = d.pinLvl ∧ (winPut d n x).pinSyn = d.pinSyn ∧
    (winPut d n x).gateDue = d.gateDue ∧ (winPut d n x).vset = d.vset ∧ (winPut d n x).vsetDone = d.vsetDone ∧
    (winPut d n x).entering = d.entering ∧ (winPut d n x).jtagIr = d.jtagIr ∧ (winPut d n x).bsr = d.bsr ∧
    (winPut d n x).tdr = d.tdr ∧ (winPut d n x).tapWait = d.tapWait ∧ (winPut d n x).off = d.off ∧
    (winPut d n x).otp = d.otp ∧ (winPut d n x).otpRev = d.otpRev ∧ (winPut d n x).boot = d.boot ∧
    (winPut d n x).pressBad = d.pressBad := by
  and_intros <;> rfl

/-- `lePut` changes `le` only. -/
@[simp] theorem lePut_frame (d : Dev) (n : Nat) (x : LeSt) :
    (lePut d n x).regs = d.regs ∧ (lePut d n x).pend = d.pend ∧ (lePut d n x).tags = d.tags ∧
    (lePut d n x).busErr = d.busErr ∧ (lePut d n x).now = d.now ∧ (lePut d n x).tb = d.tb ∧
    (lePut d n x).tphase = d.tphase ∧ (lePut d n x).tickno = d.tickno ∧ (lePut d n x).tickts = d.tickts ∧
    (lePut d n x).tbHold = d.tbHold ∧ (lePut d n x).huskRan = d.huskRan ∧ (lePut d n x).free = d.free ∧
    (lePut d n x).tbArm = d.tbArm ∧ (lePut d n x).gpt = d.gpt ∧ (lePut d n x).claims = d.claims ∧
    (lePut d n x).gshut = d.gshut ∧ (lePut d n x).evHold = d.evHold ∧ (lePut d n x).evDrop = d.evDrop ∧
    (lePut d n x).hostSt = d.hostSt ∧ (lePut d n x).loss = d.loss ∧ (lePut d n x).trace = d.trace ∧
    (lePut d n x).trMissed = d.trMissed ∧ (lePut d n x).trLost = d.trLost ∧ (lePut d n x).mem = d.mem ∧
    (lePut d n x).mtag = d.mtag ∧ (lePut d n x).ecc = d.ecc ∧ (lePut d n x).wback = d.wback ∧ (lePut d n x).fl = d.fl ∧
    (lePut d n x).flSusp = d.flSusp ∧ (lePut d n x).flProg = d.flProg ∧ (lePut d n x).suspect = d.suspect ∧
    (lePut d n x).swaps = d.swaps ∧ (lePut d n x).swapCut = d.swapCut ∧ (lePut d n x).rdpNext = d.rdpNext ∧
    (lePut d n x).scrubMark = d.scrubMark ∧ (lePut d n x).ddrUnk = d.ddrUnk ∧ (lePut d n x).ddrOk = d.ddrOk ∧
    (lePut d n x).ddrRetrain = d.ddrRetrain ∧ (lePut d n x).scrS = d.scrS ∧ (lePut d n x).scrD = d.scrD ∧
    (lePut d n x).ref = d.ref ∧ (lePut d n x).adc = d.adc ∧ (lePut d n x).fb = d.fb ∧ (lePut d n x).tri = d.tri ∧
    (lePut d n x).leg = d.leg ∧ (lePut d n x).win = d.win ∧ (lePut d n x).tripLoc = d.tripLoc ∧ (lePut d n x).chq = d.chq ∧
    (lePut d n x).chSeq = d.chSeq ∧ (lePut d n x).chAck = d.chAck ∧ (lePut d n x).chTwice = d.chTwice ∧
    (lePut d n x).port = d.port ∧ (lePut d n x).chain = d.chain ∧ (lePut d n x).lane = d.lane ∧ (lePut d n x).ctx = d.ctx ∧
    (lePut d n x).jobs = d.jobs ∧ (lePut d n x).eng = d.eng ∧ (lePut d n x).jobSeq = d.jobSeq ∧ (lePut d n x).oq = d.oq ∧
    (lePut d n x).oqDrop = d.oqDrop ∧ (lePut d n x).spill = d.spill ∧ (lePut d n x).spSlot = d.spSlot ∧
    (lePut d n x).cel = d.cel ∧ (lePut d n x).bias = d.bias ∧ (lePut d n x).snWait = d.snWait ∧
    (lePut d n x).snCopy = d.snCopy ∧ (lePut d n x).snReady = d.snReady ∧ (lePut d n x).snHeld = d.snHeld ∧
    (lePut d n x).snPos = d.snPos ∧ (lePut d n x).snSeq = d.snSeq ∧ (lePut d n x).cvBusy = d.cvBusy ∧
    (lePut d n x).cvBorrow = d.cvBorrow ∧ (lePut d n x).core = d.core ∧ (lePut d n x).pair = d.pair ∧
    (lePut d n x).twin = d.twin ∧ (lePut d n x).hold = d.hold ∧ (lePut d n x).pinLvl = d.pinLvl ∧
    (lePut d n x).pinSyn = d.pinSyn ∧ (lePut d n x).gateDue = d.gateDue ∧ (lePut d n x).vset = d.vset ∧
    (lePut d n x).vsetDone = d.vsetDone ∧ (lePut d n x).entering = d.entering ∧ (lePut d n x).jtagIr = d.jtagIr ∧
    (lePut d n x).bsr = d.bsr ∧ (lePut d n x).tdr = d.tdr ∧ (lePut d n x).tapWait = d.tapWait ∧ (lePut d n x).off = d.off ∧
    (lePut d n x).otp = d.otp ∧ (lePut d n x).otpRev = d.otpRev ∧ (lePut d n x).boot = d.boot ∧
    (lePut d n x).pressBad = d.pressBad := by
  and_intros <;> rfl

/-- `ctxPut` changes `ctx` only. -/
@[simp] theorem ctxPut_frame (d : Dev) (n : Nat) (x : CtxSt) :
    (ctxPut d n x).regs = d.regs ∧ (ctxPut d n x).pend = d.pend ∧ (ctxPut d n x).tags = d.tags ∧
    (ctxPut d n x).busErr = d.busErr ∧ (ctxPut d n x).now = d.now ∧ (ctxPut d n x).tb = d.tb ∧
    (ctxPut d n x).tphase = d.tphase ∧ (ctxPut d n x).tickno = d.tickno ∧ (ctxPut d n x).tickts = d.tickts ∧
    (ctxPut d n x).tbHold = d.tbHold ∧ (ctxPut d n x).huskRan = d.huskRan ∧ (ctxPut d n x).free = d.free ∧
    (ctxPut d n x).tbArm = d.tbArm ∧ (ctxPut d n x).gpt = d.gpt ∧ (ctxPut d n x).claims = d.claims ∧
    (ctxPut d n x).gshut = d.gshut ∧ (ctxPut d n x).evHold = d.evHold ∧ (ctxPut d n x).evDrop = d.evDrop ∧
    (ctxPut d n x).hostSt = d.hostSt ∧ (ctxPut d n x).loss = d.loss ∧ (ctxPut d n x).trace = d.trace ∧
    (ctxPut d n x).trMissed = d.trMissed ∧ (ctxPut d n x).trLost = d.trLost ∧ (ctxPut d n x).mem = d.mem ∧
    (ctxPut d n x).mtag = d.mtag ∧ (ctxPut d n x).ecc = d.ecc ∧ (ctxPut d n x).wback = d.wback ∧ (ctxPut d n x).fl = d.fl ∧
    (ctxPut d n x).flSusp = d.flSusp ∧ (ctxPut d n x).flProg = d.flProg ∧ (ctxPut d n x).suspect = d.suspect ∧
    (ctxPut d n x).swaps = d.swaps ∧ (ctxPut d n x).swapCut = d.swapCut ∧ (ctxPut d n x).rdpNext = d.rdpNext ∧
    (ctxPut d n x).scrubMark = d.scrubMark ∧ (ctxPut d n x).ddrUnk = d.ddrUnk ∧ (ctxPut d n x).ddrOk = d.ddrOk ∧
    (ctxPut d n x).ddrRetrain = d.ddrRetrain ∧ (ctxPut d n x).scrS = d.scrS ∧ (ctxPut d n x).scrD = d.scrD ∧
    (ctxPut d n x).ref = d.ref ∧ (ctxPut d n x).adc = d.adc ∧ (ctxPut d n x).fb = d.fb ∧ (ctxPut d n x).le = d.le ∧
    (ctxPut d n x).tri = d.tri ∧ (ctxPut d n x).leg = d.leg ∧ (ctxPut d n x).win = d.win ∧
    (ctxPut d n x).tripLoc = d.tripLoc ∧ (ctxPut d n x).chq = d.chq ∧ (ctxPut d n x).chSeq = d.chSeq ∧
    (ctxPut d n x).chAck = d.chAck ∧ (ctxPut d n x).chTwice = d.chTwice ∧ (ctxPut d n x).port = d.port ∧
    (ctxPut d n x).chain = d.chain ∧ (ctxPut d n x).lane = d.lane ∧ (ctxPut d n x).jobs = d.jobs ∧
    (ctxPut d n x).eng = d.eng ∧ (ctxPut d n x).jobSeq = d.jobSeq ∧ (ctxPut d n x).oq = d.oq ∧
    (ctxPut d n x).oqDrop = d.oqDrop ∧ (ctxPut d n x).spill = d.spill ∧ (ctxPut d n x).spSlot = d.spSlot ∧
    (ctxPut d n x).cel = d.cel ∧ (ctxPut d n x).bias = d.bias ∧ (ctxPut d n x).snWait = d.snWait ∧
    (ctxPut d n x).snCopy = d.snCopy ∧ (ctxPut d n x).snReady = d.snReady ∧ (ctxPut d n x).snHeld = d.snHeld ∧
    (ctxPut d n x).snPos = d.snPos ∧ (ctxPut d n x).snSeq = d.snSeq ∧ (ctxPut d n x).cvBusy = d.cvBusy ∧
    (ctxPut d n x).cvBorrow = d.cvBorrow ∧ (ctxPut d n x).core = d.core ∧ (ctxPut d n x).pair = d.pair ∧
    (ctxPut d n x).twin = d.twin ∧ (ctxPut d n x).hold = d.hold ∧ (ctxPut d n x).pinLvl = d.pinLvl ∧
    (ctxPut d n x).pinSyn = d.pinSyn ∧ (ctxPut d n x).gateDue = d.gateDue ∧ (ctxPut d n x).vset = d.vset ∧
    (ctxPut d n x).vsetDone = d.vsetDone ∧ (ctxPut d n x).entering = d.entering ∧ (ctxPut d n x).jtagIr = d.jtagIr ∧
    (ctxPut d n x).bsr = d.bsr ∧ (ctxPut d n x).tdr = d.tdr ∧ (ctxPut d n x).tapWait = d.tapWait ∧
    (ctxPut d n x).off = d.off ∧ (ctxPut d n x).otp = d.otp ∧ (ctxPut d n x).otpRev = d.otpRev ∧
    (ctxPut d n x).boot = d.boot ∧ (ctxPut d n x).pressBad = d.pressBad := by
  and_intros <;> rfl

/-- `corePut` changes `core` only. -/
@[simp] theorem corePut_frame (d : Dev) (n : Nat) (x : CoreSt) :
    (corePut d n x).regs = d.regs ∧ (corePut d n x).pend = d.pend ∧ (corePut d n x).tags = d.tags ∧
    (corePut d n x).busErr = d.busErr ∧ (corePut d n x).now = d.now ∧ (corePut d n x).tb = d.tb ∧
    (corePut d n x).tphase = d.tphase ∧ (corePut d n x).tickno = d.tickno ∧ (corePut d n x).tickts = d.tickts ∧
    (corePut d n x).tbHold = d.tbHold ∧ (corePut d n x).huskRan = d.huskRan ∧ (corePut d n x).free = d.free ∧
    (corePut d n x).tbArm = d.tbArm ∧ (corePut d n x).gpt = d.gpt ∧ (corePut d n x).claims = d.claims ∧
    (corePut d n x).gshut = d.gshut ∧ (corePut d n x).evHold = d.evHold ∧ (corePut d n x).evDrop = d.evDrop ∧
    (corePut d n x).hostSt = d.hostSt ∧ (corePut d n x).loss = d.loss ∧ (corePut d n x).trace = d.trace ∧
    (corePut d n x).trMissed = d.trMissed ∧ (corePut d n x).trLost = d.trLost ∧ (corePut d n x).mem = d.mem ∧
    (corePut d n x).mtag = d.mtag ∧ (corePut d n x).ecc = d.ecc ∧ (corePut d n x).wback = d.wback ∧
    (corePut d n x).fl = d.fl ∧ (corePut d n x).flSusp = d.flSusp ∧ (corePut d n x).flProg = d.flProg ∧
    (corePut d n x).suspect = d.suspect ∧ (corePut d n x).swaps = d.swaps ∧ (corePut d n x).swapCut = d.swapCut ∧
    (corePut d n x).rdpNext = d.rdpNext ∧ (corePut d n x).scrubMark = d.scrubMark ∧ (corePut d n x).ddrUnk = d.ddrUnk ∧
    (corePut d n x).ddrOk = d.ddrOk ∧ (corePut d n x).ddrRetrain = d.ddrRetrain ∧ (corePut d n x).scrS = d.scrS ∧
    (corePut d n x).scrD = d.scrD ∧ (corePut d n x).ref = d.ref ∧ (corePut d n x).adc = d.adc ∧ (corePut d n x).fb = d.fb ∧
    (corePut d n x).le = d.le ∧ (corePut d n x).tri = d.tri ∧ (corePut d n x).leg = d.leg ∧ (corePut d n x).win = d.win ∧
    (corePut d n x).tripLoc = d.tripLoc ∧ (corePut d n x).chq = d.chq ∧ (corePut d n x).chSeq = d.chSeq ∧
    (corePut d n x).chAck = d.chAck ∧ (corePut d n x).chTwice = d.chTwice ∧ (corePut d n x).port = d.port ∧
    (corePut d n x).chain = d.chain ∧ (corePut d n x).lane = d.lane ∧ (corePut d n x).ctx = d.ctx ∧
    (corePut d n x).jobs = d.jobs ∧ (corePut d n x).eng = d.eng ∧ (corePut d n x).jobSeq = d.jobSeq ∧
    (corePut d n x).oq = d.oq ∧ (corePut d n x).oqDrop = d.oqDrop ∧ (corePut d n x).spill = d.spill ∧
    (corePut d n x).spSlot = d.spSlot ∧ (corePut d n x).cel = d.cel ∧ (corePut d n x).bias = d.bias ∧
    (corePut d n x).snWait = d.snWait ∧ (corePut d n x).snCopy = d.snCopy ∧ (corePut d n x).snReady = d.snReady ∧
    (corePut d n x).snHeld = d.snHeld ∧ (corePut d n x).snPos = d.snPos ∧ (corePut d n x).snSeq = d.snSeq ∧
    (corePut d n x).cvBusy = d.cvBusy ∧ (corePut d n x).cvBorrow = d.cvBorrow ∧ (corePut d n x).pair = d.pair ∧
    (corePut d n x).twin = d.twin ∧ (corePut d n x).hold = d.hold ∧ (corePut d n x).pinLvl = d.pinLvl ∧
    (corePut d n x).pinSyn = d.pinSyn ∧ (corePut d n x).gateDue = d.gateDue ∧ (corePut d n x).vset = d.vset ∧
    (corePut d n x).vsetDone = d.vsetDone ∧ (corePut d n x).entering = d.entering ∧ (corePut d n x).jtagIr = d.jtagIr ∧
    (corePut d n x).bsr = d.bsr ∧ (corePut d n x).tdr = d.tdr ∧ (corePut d n x).tapWait = d.tapWait ∧
    (corePut d n x).off = d.off ∧ (corePut d n x).otp = d.otp ∧ (corePut d n x).otpRev = d.otpRev ∧
    (corePut d n x).boot = d.boot ∧ (corePut d n x).pressBad = d.pressBad := by
  and_intros <;> rfl

/-- `pairPut` changes `pair` only. -/
@[simp] theorem pairPut_frame (d : Dev) (n : Nat) (x : PairSt) :
    (pairPut d n x).regs = d.regs ∧ (pairPut d n x).pend = d.pend ∧ (pairPut d n x).tags = d.tags ∧
    (pairPut d n x).busErr = d.busErr ∧ (pairPut d n x).now = d.now ∧ (pairPut d n x).tb = d.tb ∧
    (pairPut d n x).tphase = d.tphase ∧ (pairPut d n x).tickno = d.tickno ∧ (pairPut d n x).tickts = d.tickts ∧
    (pairPut d n x).tbHold = d.tbHold ∧ (pairPut d n x).huskRan = d.huskRan ∧ (pairPut d n x).free = d.free ∧
    (pairPut d n x).tbArm = d.tbArm ∧ (pairPut d n x).gpt = d.gpt ∧ (pairPut d n x).claims = d.claims ∧
    (pairPut d n x).gshut = d.gshut ∧ (pairPut d n x).evHold = d.evHold ∧ (pairPut d n x).evDrop = d.evDrop ∧
    (pairPut d n x).hostSt = d.hostSt ∧ (pairPut d n x).loss = d.loss ∧ (pairPut d n x).trace = d.trace ∧
    (pairPut d n x).trMissed = d.trMissed ∧ (pairPut d n x).trLost = d.trLost ∧ (pairPut d n x).mem = d.mem ∧
    (pairPut d n x).mtag = d.mtag ∧ (pairPut d n x).ecc = d.ecc ∧ (pairPut d n x).wback = d.wback ∧
    (pairPut d n x).fl = d.fl ∧ (pairPut d n x).flSusp = d.flSusp ∧ (pairPut d n x).flProg = d.flProg ∧
    (pairPut d n x).suspect = d.suspect ∧ (pairPut d n x).swaps = d.swaps ∧ (pairPut d n x).swapCut = d.swapCut ∧
    (pairPut d n x).rdpNext = d.rdpNext ∧ (pairPut d n x).scrubMark = d.scrubMark ∧ (pairPut d n x).ddrUnk = d.ddrUnk ∧
    (pairPut d n x).ddrOk = d.ddrOk ∧ (pairPut d n x).ddrRetrain = d.ddrRetrain ∧ (pairPut d n x).scrS = d.scrS ∧
    (pairPut d n x).scrD = d.scrD ∧ (pairPut d n x).ref = d.ref ∧ (pairPut d n x).adc = d.adc ∧ (pairPut d n x).fb = d.fb ∧
    (pairPut d n x).le = d.le ∧ (pairPut d n x).tri = d.tri ∧ (pairPut d n x).leg = d.leg ∧ (pairPut d n x).win = d.win ∧
    (pairPut d n x).tripLoc = d.tripLoc ∧ (pairPut d n x).chq = d.chq ∧ (pairPut d n x).chSeq = d.chSeq ∧
    (pairPut d n x).chAck = d.chAck ∧ (pairPut d n x).chTwice = d.chTwice ∧ (pairPut d n x).port = d.port ∧
    (pairPut d n x).chain = d.chain ∧ (pairPut d n x).lane = d.lane ∧ (pairPut d n x).ctx = d.ctx ∧
    (pairPut d n x).jobs = d.jobs ∧ (pairPut d n x).eng = d.eng ∧ (pairPut d n x).jobSeq = d.jobSeq ∧
    (pairPut d n x).oq = d.oq ∧ (pairPut d n x).oqDrop = d.oqDrop ∧ (pairPut d n x).spill = d.spill ∧
    (pairPut d n x).spSlot = d.spSlot ∧ (pairPut d n x).cel = d.cel ∧ (pairPut d n x).bias = d.bias ∧
    (pairPut d n x).snWait = d.snWait ∧ (pairPut d n x).snCopy = d.snCopy ∧ (pairPut d n x).snReady = d.snReady ∧
    (pairPut d n x).snHeld = d.snHeld ∧ (pairPut d n x).snPos = d.snPos ∧ (pairPut d n x).snSeq = d.snSeq ∧
    (pairPut d n x).cvBusy = d.cvBusy ∧ (pairPut d n x).cvBorrow = d.cvBorrow ∧ (pairPut d n x).core = d.core ∧
    (pairPut d n x).twin = d.twin ∧ (pairPut d n x).hold = d.hold ∧ (pairPut d n x).pinLvl = d.pinLvl ∧
    (pairPut d n x).pinSyn = d.pinSyn ∧ (pairPut d n x).gateDue = d.gateDue ∧ (pairPut d n x).vset = d.vset ∧
    (pairPut d n x).vsetDone = d.vsetDone ∧ (pairPut d n x).entering = d.entering ∧ (pairPut d n x).jtagIr = d.jtagIr ∧
    (pairPut d n x).bsr = d.bsr ∧ (pairPut d n x).tdr = d.tdr ∧ (pairPut d n x).tapWait = d.tapWait ∧
    (pairPut d n x).off = d.off ∧ (pairPut d n x).otp = d.otp ∧ (pairPut d n x).otpRev = d.otpRev ∧
    (pairPut d n x).boot = d.boot ∧ (pairPut d n x).pressBad = d.pressBad := by
  and_intros <;> rfl

/-- `chSet` changes `chain` only. -/
@[simp] theorem chSet_frame (d : Dev) (f : ChainSt → ChainSt) :
    (chSet d f).regs = d.regs ∧ (chSet d f).pend = d.pend ∧ (chSet d f).tags = d.tags ∧ (chSet d f).busErr = d.busErr ∧
    (chSet d f).now = d.now ∧ (chSet d f).tb = d.tb ∧ (chSet d f).tphase = d.tphase ∧ (chSet d f).tickno = d.tickno ∧
    (chSet d f).tickts = d.tickts ∧ (chSet d f).tbHold = d.tbHold ∧ (chSet d f).huskRan = d.huskRan ∧
    (chSet d f).free = d.free ∧ (chSet d f).tbArm = d.tbArm ∧ (chSet d f).gpt = d.gpt ∧ (chSet d f).claims = d.claims ∧
    (chSet d f).gshut = d.gshut ∧ (chSet d f).evHold = d.evHold ∧ (chSet d f).evDrop = d.evDrop ∧
    (chSet d f).hostSt = d.hostSt ∧ (chSet d f).loss = d.loss ∧ (chSet d f).trace = d.trace ∧
    (chSet d f).trMissed = d.trMissed ∧ (chSet d f).trLost = d.trLost ∧ (chSet d f).mem = d.mem ∧
    (chSet d f).mtag = d.mtag ∧ (chSet d f).ecc = d.ecc ∧ (chSet d f).wback = d.wback ∧ (chSet d f).fl = d.fl ∧
    (chSet d f).flSusp = d.flSusp ∧ (chSet d f).flProg = d.flProg ∧ (chSet d f).suspect = d.suspect ∧
    (chSet d f).swaps = d.swaps ∧ (chSet d f).swapCut = d.swapCut ∧ (chSet d f).rdpNext = d.rdpNext ∧
    (chSet d f).scrubMark = d.scrubMark ∧ (chSet d f).ddrUnk = d.ddrUnk ∧ (chSet d f).ddrOk = d.ddrOk ∧
    (chSet d f).ddrRetrain = d.ddrRetrain ∧ (chSet d f).scrS = d.scrS ∧ (chSet d f).scrD = d.scrD ∧
    (chSet d f).ref = d.ref ∧ (chSet d f).adc = d.adc ∧ (chSet d f).fb = d.fb ∧ (chSet d f).le = d.le ∧
    (chSet d f).tri = d.tri ∧ (chSet d f).leg = d.leg ∧ (chSet d f).win = d.win ∧ (chSet d f).tripLoc = d.tripLoc ∧
    (chSet d f).chq = d.chq ∧ (chSet d f).chSeq = d.chSeq ∧ (chSet d f).chAck = d.chAck ∧ (chSet d f).chTwice = d.chTwice ∧
    (chSet d f).port = d.port ∧ (chSet d f).lane = d.lane ∧ (chSet d f).ctx = d.ctx ∧ (chSet d f).jobs = d.jobs ∧
    (chSet d f).eng = d.eng ∧ (chSet d f).jobSeq = d.jobSeq ∧ (chSet d f).oq = d.oq ∧ (chSet d f).oqDrop = d.oqDrop ∧
    (chSet d f).spill = d.spill ∧ (chSet d f).spSlot = d.spSlot ∧ (chSet d f).cel = d.cel ∧ (chSet d f).bias = d.bias ∧
    (chSet d f).snWait = d.snWait ∧ (chSet d f).snCopy = d.snCopy ∧ (chSet d f).snReady = d.snReady ∧
    (chSet d f).snHeld = d.snHeld ∧ (chSet d f).snPos = d.snPos ∧ (chSet d f).snSeq = d.snSeq ∧
    (chSet d f).cvBusy = d.cvBusy ∧ (chSet d f).cvBorrow = d.cvBorrow ∧ (chSet d f).core = d.core ∧
    (chSet d f).pair = d.pair ∧ (chSet d f).twin = d.twin ∧ (chSet d f).hold = d.hold ∧ (chSet d f).pinLvl = d.pinLvl ∧
    (chSet d f).pinSyn = d.pinSyn ∧ (chSet d f).gateDue = d.gateDue ∧ (chSet d f).vset = d.vset ∧
    (chSet d f).vsetDone = d.vsetDone ∧ (chSet d f).entering = d.entering ∧ (chSet d f).jtagIr = d.jtagIr ∧
    (chSet d f).bsr = d.bsr ∧ (chSet d f).tdr = d.tdr ∧ (chSet d f).tapWait = d.tapWait ∧ (chSet d f).off = d.off ∧
    (chSet d f).otp = d.otp ∧ (chSet d f).otpRev = d.otpRev ∧ (chSet d f).boot = d.boot ∧ (chSet d f).pressBad = d.pressBad := by
  and_intros <;> rfl

/-- `twSet` changes `twin` only. -/
@[simp] theorem twSet_frame (d : Dev) (f : TwinSt → TwinSt) :
    (twSet d f).regs = d.regs ∧ (twSet d f).pend = d.pend ∧ (twSet d f).tags = d.tags ∧ (twSet d f).busErr = d.busErr ∧
    (twSet d f).now = d.now ∧ (twSet d f).tb = d.tb ∧ (twSet d f).tphase = d.tphase ∧ (twSet d f).tickno = d.tickno ∧
    (twSet d f).tickts = d.tickts ∧ (twSet d f).tbHold = d.tbHold ∧ (twSet d f).huskRan = d.huskRan ∧
    (twSet d f).free = d.free ∧ (twSet d f).tbArm = d.tbArm ∧ (twSet d f).gpt = d.gpt ∧ (twSet d f).claims = d.claims ∧
    (twSet d f).gshut = d.gshut ∧ (twSet d f).evHold = d.evHold ∧ (twSet d f).evDrop = d.evDrop ∧
    (twSet d f).hostSt = d.hostSt ∧ (twSet d f).loss = d.loss ∧ (twSet d f).trace = d.trace ∧
    (twSet d f).trMissed = d.trMissed ∧ (twSet d f).trLost = d.trLost ∧ (twSet d f).mem = d.mem ∧
    (twSet d f).mtag = d.mtag ∧ (twSet d f).ecc = d.ecc ∧ (twSet d f).wback = d.wback ∧ (twSet d f).fl = d.fl ∧
    (twSet d f).flSusp = d.flSusp ∧ (twSet d f).flProg = d.flProg ∧ (twSet d f).suspect = d.suspect ∧
    (twSet d f).swaps = d.swaps ∧ (twSet d f).swapCut = d.swapCut ∧ (twSet d f).rdpNext = d.rdpNext ∧
    (twSet d f).scrubMark = d.scrubMark ∧ (twSet d f).ddrUnk = d.ddrUnk ∧ (twSet d f).ddrOk = d.ddrOk ∧
    (twSet d f).ddrRetrain = d.ddrRetrain ∧ (twSet d f).scrS = d.scrS ∧ (twSet d f).scrD = d.scrD ∧
    (twSet d f).ref = d.ref ∧ (twSet d f).adc = d.adc ∧ (twSet d f).fb = d.fb ∧ (twSet d f).le = d.le ∧
    (twSet d f).tri = d.tri ∧ (twSet d f).leg = d.leg ∧ (twSet d f).win = d.win ∧ (twSet d f).tripLoc = d.tripLoc ∧
    (twSet d f).chq = d.chq ∧ (twSet d f).chSeq = d.chSeq ∧ (twSet d f).chAck = d.chAck ∧ (twSet d f).chTwice = d.chTwice ∧
    (twSet d f).port = d.port ∧ (twSet d f).chain = d.chain ∧ (twSet d f).lane = d.lane ∧ (twSet d f).ctx = d.ctx ∧
    (twSet d f).jobs = d.jobs ∧ (twSet d f).eng = d.eng ∧ (twSet d f).jobSeq = d.jobSeq ∧ (twSet d f).oq = d.oq ∧
    (twSet d f).oqDrop = d.oqDrop ∧ (twSet d f).spill = d.spill ∧ (twSet d f).spSlot = d.spSlot ∧ (twSet d f).cel = d.cel ∧
    (twSet d f).bias = d.bias ∧ (twSet d f).snWait = d.snWait ∧ (twSet d f).snCopy = d.snCopy ∧
    (twSet d f).snReady = d.snReady ∧ (twSet d f).snHeld = d.snHeld ∧ (twSet d f).snPos = d.snPos ∧
    (twSet d f).snSeq = d.snSeq ∧ (twSet d f).cvBusy = d.cvBusy ∧ (twSet d f).cvBorrow = d.cvBorrow ∧
    (twSet d f).core = d.core ∧ (twSet d f).pair = d.pair ∧ (twSet d f).hold = d.hold ∧ (twSet d f).pinLvl = d.pinLvl ∧
    (twSet d f).pinSyn = d.pinSyn ∧ (twSet d f).gateDue = d.gateDue ∧ (twSet d f).vset = d.vset ∧
    (twSet d f).vsetDone = d.vsetDone ∧ (twSet d f).entering = d.entering ∧ (twSet d f).jtagIr = d.jtagIr ∧
    (twSet d f).bsr = d.bsr ∧ (twSet d f).tdr = d.tdr ∧ (twSet d f).tapWait = d.tapWait ∧ (twSet d f).off = d.off ∧
    (twSet d f).otp = d.otp ∧ (twSet d f).otpRev = d.otpRev ∧ (twSet d f).boot = d.boot ∧ (twSet d f).pressBad = d.pressBad := by
  and_intros <;> rfl

/-- `hSet` changes `hostSt` only. -/
@[simp] theorem hSet_frame (d : Dev) (f : HostSt → HostSt) :
    (hSet d f).regs = d.regs ∧ (hSet d f).pend = d.pend ∧ (hSet d f).tags = d.tags ∧ (hSet d f).busErr = d.busErr ∧
    (hSet d f).now = d.now ∧ (hSet d f).tb = d.tb ∧ (hSet d f).tphase = d.tphase ∧ (hSet d f).tickno = d.tickno ∧
    (hSet d f).tickts = d.tickts ∧ (hSet d f).tbHold = d.tbHold ∧ (hSet d f).huskRan = d.huskRan ∧
    (hSet d f).free = d.free ∧ (hSet d f).tbArm = d.tbArm ∧ (hSet d f).gpt = d.gpt ∧ (hSet d f).claims = d.claims ∧
    (hSet d f).gshut = d.gshut ∧ (hSet d f).evHold = d.evHold ∧ (hSet d f).evDrop = d.evDrop ∧ (hSet d f).loss = d.loss ∧
    (hSet d f).trace = d.trace ∧ (hSet d f).trMissed = d.trMissed ∧ (hSet d f).trLost = d.trLost ∧ (hSet d f).mem = d.mem ∧
    (hSet d f).mtag = d.mtag ∧ (hSet d f).ecc = d.ecc ∧ (hSet d f).wback = d.wback ∧ (hSet d f).fl = d.fl ∧
    (hSet d f).flSusp = d.flSusp ∧ (hSet d f).flProg = d.flProg ∧ (hSet d f).suspect = d.suspect ∧
    (hSet d f).swaps = d.swaps ∧ (hSet d f).swapCut = d.swapCut ∧ (hSet d f).rdpNext = d.rdpNext ∧
    (hSet d f).scrubMark = d.scrubMark ∧ (hSet d f).ddrUnk = d.ddrUnk ∧ (hSet d f).ddrOk = d.ddrOk ∧
    (hSet d f).ddrRetrain = d.ddrRetrain ∧ (hSet d f).scrS = d.scrS ∧ (hSet d f).scrD = d.scrD ∧ (hSet d f).ref = d.ref ∧
    (hSet d f).adc = d.adc ∧ (hSet d f).fb = d.fb ∧ (hSet d f).le = d.le ∧ (hSet d f).tri = d.tri ∧
    (hSet d f).leg = d.leg ∧ (hSet d f).win = d.win ∧ (hSet d f).tripLoc = d.tripLoc ∧ (hSet d f).chq = d.chq ∧
    (hSet d f).chSeq = d.chSeq ∧ (hSet d f).chAck = d.chAck ∧ (hSet d f).chTwice = d.chTwice ∧ (hSet d f).port = d.port ∧
    (hSet d f).chain = d.chain ∧ (hSet d f).lane = d.lane ∧ (hSet d f).ctx = d.ctx ∧ (hSet d f).jobs = d.jobs ∧
    (hSet d f).eng = d.eng ∧ (hSet d f).jobSeq = d.jobSeq ∧ (hSet d f).oq = d.oq ∧ (hSet d f).oqDrop = d.oqDrop ∧
    (hSet d f).spill = d.spill ∧ (hSet d f).spSlot = d.spSlot ∧ (hSet d f).cel = d.cel ∧ (hSet d f).bias = d.bias ∧
    (hSet d f).snWait = d.snWait ∧ (hSet d f).snCopy = d.snCopy ∧ (hSet d f).snReady = d.snReady ∧
    (hSet d f).snHeld = d.snHeld ∧ (hSet d f).snPos = d.snPos ∧ (hSet d f).snSeq = d.snSeq ∧ (hSet d f).cvBusy = d.cvBusy ∧
    (hSet d f).cvBorrow = d.cvBorrow ∧ (hSet d f).core = d.core ∧ (hSet d f).pair = d.pair ∧ (hSet d f).twin = d.twin ∧
    (hSet d f).hold = d.hold ∧ (hSet d f).pinLvl = d.pinLvl ∧ (hSet d f).pinSyn = d.pinSyn ∧
    (hSet d f).gateDue = d.gateDue ∧ (hSet d f).vset = d.vset ∧ (hSet d f).vsetDone = d.vsetDone ∧
    (hSet d f).entering = d.entering ∧ (hSet d f).jtagIr = d.jtagIr ∧ (hSet d f).bsr = d.bsr ∧ (hSet d f).tdr = d.tdr ∧
    (hSet d f).tapWait = d.tapWait ∧ (hSet d f).off = d.off ∧ (hSet d f).otp = d.otp ∧ (hSet d f).otpRev = d.otpRev ∧
    (hSet d f).boot = d.boot ∧ (hSet d f).pressBad = d.pressBad := by
  and_intros <;> rfl

end Sys2Proof.Machine
end

