-- ==== Sys2Proof/Laws/Tables.lean ====
section
/-! SUPPORT. Laws of the sparse tables, of register reads and writes, and of bit fields. -/

namespace Sys2Proof.Machine

open Sys2Proof

/-! Tables. -/

theorem look_filter_other {α : Type} (l : Tab α) (j k : Nat) (d : α) (h : k ≠ j) :
    look (l.filter (fun e => e.1 != j)) k d = look l k d := by
  induction l with
  | nil => rfl
  | cons e l ih =>
    obtain ⟨a, v⟩ := e
    by_cases ha : a = j
    · subst ha; simp [look, ih, Ne.symm h]
    · by_cases hk : a = k
      · subst hk; simp [look, ha]
      · simp [look, ha, hk, ih]

theorem look_filter_same {α : Type} (l : Tab α) (j : Nat) (d : α) : look (l.filter (fun e => e.1 != j)) j d = d := by
  induction l with
  | nil => rfl
  | cons e l ih =>
    obtain ⟨a, v⟩ := e
    by_cases ha : a = j
    · subst ha; simp [ih]
    · simp [look, ha, ih]

@[simp] theorem look_put_same {α : Type} (l : Tab α) (k : Nat) (v d : α) : look (put l k v) k d = v := by
  induction l with
  | nil => simp [put, look]
  | cons e l ih =>
    obtain ⟨a, w⟩ := e
    simp only [put]
    split
    · simp [look]
    · split
      · simp [look]
      · rename_i h1 h2
        simp [look, Ne.symm h2, ih]

theorem look_put_other {α : Type} (l : Tab α) (k j : Nat) (v d : α) (h : j ≠ k) : look (put l k v) j d = look l j d := by
  induction l with
  | nil => simp [put, look, Ne.symm h]
  | cons e l ih =>
    obtain ⟨a, w⟩ := e
    simp only [put]
    split
    · simp only [look, Ne.symm h, if_false]
      rw [look_filter_other _ _ _ _ h]
    · split
      · rename_i h2
        subst h2
        simp only [look, Ne.symm h, if_false]
        rw [look_filter_other _ _ _ _ h]
      · simp [look, ih]

@[simp] theorem look_del_same {α : Type} (l : Tab α) (k : Nat) (d : α) : look (del l k) k d = d := look_filter_same l k d

theorem look_del_other {α : Type} (l : Tab α) (k j : Nat) (d : α) (h : j ≠ k) : look (del l k) j d = look l j d :=
  look_filter_other l k j d h

@[simp] theorem look_store_same {α : Type} [DecidableEq α] (l : Tab α) (k : Nat) (v d : α) : look (store l k v d) k d = v := by
  simp only [store]
  split
  · rename_i h; subst h; simp
  · simp

theorem look_store_other {α : Type} [DecidableEq α] (l : Tab α) (k j : Nat) (v d e : α) (h : j ≠ k) :
    look (store l k v d) j e = look l j e := by
  simp only [store]
  split
  · exact look_del_other l k j e h
  · exact look_put_other l k j v e h

/-! Registers. -/

@[simp] theorem rd_wr_same (d : Dev) (r : Reg) (v : Word) : rd (wr d r v) r = v := look_store_same d.regs r.addr v r.rst

theorem rd_wr_other (d : Dev) (r q : Reg) (v : Word) (h : q.addr ≠ r.addr) : rd (wr d r v) q = rd d q :=
  look_store_other d.regs r.addr q.addr v r.rst q.rst h

theorem gf_wr_other (d : Dev) (r q : Reg) (v : Word) (f : Fld) (h : q.addr ≠ r.addr) : gf (wr d r v) q f = gf d q f := by
  simp [gf, rd_wr_other d r q v h]

theorem rd_sf_other (d : Dev) (r q : Reg) (f : Fld) (v : Nat) (h : q.addr ≠ r.addr) : rd (sf d r f v) q = rd d q :=
  rd_wr_other d r q _ h

@[simp] theorem rd_sf_same (d : Dev) (r : Reg) (f : Fld) (v : Nat) : rd (sf d r f v) r = fset f (rd d r) v := rd_wr_same d r _

/-! Fields. -/

theorem testBit_fget (f : Fld) (w : Word) (i : Nat) :
    (fget f w).testBit i = (decide (i < f.hi + 1 - f.lo) && w.getLsbD (f.lo + i)) := by
  simp [fget, Nat.testBit_mod_two_pow, Nat.testBit_shiftRight, BitVec.getLsbD]

theorem getLsbD_fset (f : Fld) (w : Word) (v i : Nat) :
    (fset f w v).getLsbD i = (decide (i < 32) && (if f.lo ≤ i ∧ i < f.lo + (f.hi + 1 - f.lo) then v.testBit (i - f.lo) else w.getLsbD i)) := by
  simp only [fset, fmask, BitVec.getLsbD_or, BitVec.getLsbD_and, BitVec.getLsbD_not, BitVec.getLsbD_ofNat,
    Nat.testBit_shiftLeft, Nat.testBit_mod_two_pow]
  by_cases h32 : i < 32
  · by_cases h : f.lo ≤ i ∧ i < f.lo + (f.hi + 1 - f.lo)
    · have h3 : i - f.lo < f.hi + 1 - f.lo := by omega
      simp [h32, h.1, h.2, h3]
    · by_cases h1 : f.lo ≤ i
      · have h2 : ¬ i < f.lo + (f.hi + 1 - f.lo) := fun x => h ⟨h1, x⟩
        have h3 : ¬ i - f.lo < f.hi + 1 - f.lo := by omega
        simp [h32, h1, h2, h3]
      · simp [h32, h1]
  · have : w.getLsbD i = false := BitVec.getLsbD_of_ge w i (by omega)
    simp [h32, this]

/-- A field reads what was put into it, cut to its width. -/
theorem fget_fset_same (f : Fld) (w : Word) (v : Nat) (h : f.hi < 32) :
    fget f (fset f w v) = v % 2 ^ (f.hi + 1 - f.lo) := by
  apply Nat.eq_of_testBit_eq
  intro i
  rw [testBit_fget, getLsbD_fset, Nat.testBit_mod_two_pow]
  by_cases hi : i < f.hi + 1 - f.lo
  · have h1 : f.lo + i < 32 := by omega
    have h2 : f.lo ≤ f.lo + i ∧ f.lo + i < f.lo + (f.hi + 1 - f.lo) := by omega
    rw [if_pos h2]
    simp [hi, h1]
  · simp [hi]

/-- A field keeps what it held where another one is written. -/
theorem fget_fset_other (f g : Fld) (w : Word) (v : Nat) (h : g.hi < f.lo ∨ f.hi < g.lo) (hg : g.hi < 32) :
    fget g (fset f w v) = fget g w := by
  apply Nat.eq_of_testBit_eq
  intro i
  rw [testBit_fget, testBit_fget, getLsbD_fset]
  by_cases hi : i < g.hi + 1 - g.lo
  · have h1 : g.lo + i < 32 := by omega
    have h2 : ¬ (f.lo ≤ g.lo + i ∧ g.lo + i < f.lo + (f.hi + 1 - f.lo)) := by omega
    rw [if_neg h2]
    simp [hi, h1]
  · simp [hi]

theorem gf_sf_same (d : Dev) (r : Reg) (f : Fld) (v : Nat) (h : f.hi < 32) :
    gf (sf d r f v) r f = v % 2 ^ (f.hi + 1 - f.lo) := by
  simp [gf, fget_fset_same _ _ _ h]

theorem gf_sf_field (d : Dev) (r : Reg) (f g : Fld) (v : Nat) (h : g.hi < f.lo ∨ f.hi < g.lo) (hg : g.hi < 32) :
    gf (sf d r f v) r g = gf d r g := by
  simp [gf, fget_fset_other _ _ _ _ h hg]

theorem gf_sf_other (d : Dev) (r q : Reg) (f g : Fld) (v : Nat) (h : q.addr ≠ r.addr) : gf (sf d r f v) q g = gf d q g := by
  simp [gf, rd_sf_other d r q f v h]

theorem bitOf_setBit_same (d : Dev) (r : Reg) (b : Nat) (v : Bool) (h : b < 32) : bitOf (setBit d r b v) r b = v := by
  unfold bitOf setBit
  rw [rd_sf_same, getLsbD_fset]
  cases v <;> simp [h]

theorem bitOf_setBit_other (d : Dev) (r q : Reg) (b : Nat) (c : Nat) (v : Bool) (h : q.addr ≠ r.addr) :
    bitOf (setBit d r b v) q c = bitOf d q c := by
  simp [bitOf, setBit, rd_sf_other d r q _ _ h]

theorem bitOf_setBit_bit (d : Dev) (r : Reg) (b c : Nat) (v : Bool) (h : c ≠ b) (hc : c < 32) :
    bitOf (setBit d r b v) r c = bitOf d r c := by
  unfold bitOf setBit
  rw [rd_sf_same, getLsbD_fset]
  have hn : ¬ (b ≤ c ∧ c < b + (b + 1 - b)) := by omega
  rw [if_neg hn]
  simp [hc]

/-! Pending copies (R20, R22). -/

@[simp] theorem rdPend_setPend_same (d : Dev) (r : Reg) (v : Word) : rdPend (setPend d r v) r = v := by
  show look (store d.pend r.addr v (rd d r)) r.addr (rd d r) = v
  exact look_store_same d.pend r.addr v (rd d r)

theorem rdPend_setPend_other (d : Dev) (r q : Reg) (v : Word) (h : q.addr ≠ r.addr) :
    rdPend (setPend d r v) q = rdPend d q := by
  show look (store d.pend r.addr v (rd d r)) q.addr (rd d q) = look d.pend q.addr (rd d q)
  exact look_store_other d.pend r.addr q.addr v (rd d r) (rd d q) h

@[simp] theorem rd_setPend (d : Dev) (r q : Reg) (v : Word) : rd (setPend d r v) q = rd d q := rfl

@[simp] theorem rd_commitReg_same (d : Dev) (r : Reg) : rd (commitReg d r) r = rdPend d r := rd_wr_same d r _

theorem rd_commitReg_other (d : Dev) (r q : Reg) (h : q.addr ≠ r.addr) : rd (commitReg d r) q = rd d q :=
  rd_wr_other d r q _ h

/-! Commands on the clocks (the outcome of every arm but those that change the clock tree). -/

theorem clocked_next (s : State) (f : Dev → Dev) (h : s.pwr.root = true) : clocked s f = .next { s with dev := f s.dev } := by
  simp [clocked, h]

theorem clocked_stopped (s : State) (f : Dev → Dev) (h : s.pwr.root = false) : clocked s f = .next s := by
  simp [clocked, h]

theorem clocked_cases (s : State) (f : Dev → Dev) :
    clocked s f = .next s ∨ clocked s f = .next { s with dev := f s.dev } := by
  unfold clocked; split <;> simp

end Sys2Proof.Machine
end

