-- ==== Sys2Proof/Laws/Memory.lean ====
section
/-! SUPPORT. Memory keeps its canonical form under every memory operation, and reads give what was written. -/

namespace Sys2Proof.Machine

open Sys2Proof

/-! Tables with rising keys. -/

/-- The keys of a table rise. -/
def Rising {α : Type} (l : Tab α) : Prop := l.Pairwise (fun a b => a.1 < b.1)

theorem rising_filter {α : Type} (l : Tab α) (p : Nat × α → Bool) (h : Rising l) : Rising (l.filter p) :=
  List.Pairwise.filter p h

theorem mem_put {α : Type} (l : Tab α) (k : Nat) (v : α) (e : Nat × α) (h : e ∈ put l k v) : e = (k, v) ∨ e ∈ l := by
  induction l with
  | nil => simp [put] at h; exact .inl h
  | cons x l ih =>
    obtain ⟨a, w⟩ := x
    simp only [put] at h
    split at h
    · simp only [List.mem_cons, List.mem_filter] at h
      rcases h with h | h | h
      · exact .inl h
      · exact .inr (by simp [h])
      · exact .inr (by simp [h.1])
    · split at h
      · simp only [List.mem_cons, List.mem_filter] at h
        rcases h with h | h
        · exact .inl h
        · exact .inr (by simp [h.1])
      · simp only [List.mem_cons] at h
        rcases h with h | h
        · exact .inr (by simp [h])
        · rcases ih h with h | h
          · exact .inl h
          · exact .inr (by simp [h])

theorem rising_put {α : Type} (l : Tab α) (k : Nat) (v : α) (h : Rising l) : Rising (put l k v) := by
  induction l with
  | nil => simp [put, Rising]
  | cons x l ih =>
    obtain ⟨a, w⟩ := x
    have hl : Rising l := (List.pairwise_cons.1 h).2
    have hx : ∀ e ∈ l, a < e.1 := (List.pairwise_cons.1 h).1
    simp only [put]
    split
    · rename_i hk
      refine List.pairwise_cons.2 ⟨?_, List.pairwise_cons.2 ⟨?_, rising_filter _ _ hl⟩⟩
      · intro e he
        simp only [List.mem_cons, List.mem_filter] at he
        rcases he with he | he
        · subst he; exact hk
        · exact Nat.lt_trans hk (hx e he.1)
      · intro e he; exact hx e (List.mem_filter.1 he).1
    · split
      · rename_i hk
        refine List.pairwise_cons.2 ⟨?_, rising_filter _ _ hl⟩
        intro e he
        subst hk
        exact hx e (List.mem_filter.1 he).1
      · rename_i h1 h2
        refine List.pairwise_cons.2 ⟨?_, ih hl⟩
        intro e he
        rcases mem_put l k v e he with he | he
        · subst he; show a < k; omega
        · exact hx e he

theorem rising_store {α : Type} [DecidableEq α] (l : Tab α) (k : Nat) (v d : α) (h : Rising l) : Rising (store l k v d) := by
  unfold store
  split
  · exact rising_filter _ _ h
  · exact rising_put _ _ _ h

/-! Canonical memory. -/

theorem wf_iff (m : List Host.Cell) : Memory.wf m = true ↔ Rising m ∧ ∀ c ∈ m, c.2 ≠ 0 := by
  simp [Memory.wf, Rising]

theorem wrByte_wf (d : Dev) (k : Nat) (v : Byte) (h : Memory.wf d.mem = true) : Memory.wf (wrByte d k v).mem = true := by
  rw [wf_iff] at *
  refine ⟨rising_store _ _ _ _ h.1, ?_⟩
  intro c hc
  simp only [wrByte, store] at hc
  split at hc
  · exact h.2 c (List.mem_filter.1 hc).1
  · rename_i hv
    rcases mem_put _ _ _ _ hc with hc | hc
    · subst hc; exact hv
    · exact h.2 c hc

theorem wrBytes_wf (l : List Byte) : ∀ (d : Dev) (k : Nat), Memory.wf d.mem = true → Memory.wf (wrBytes d k l).mem = true := by
  induction l with
  | nil => intro d k h; exact h
  | cons b l ih => intro d k h; exact ih _ _ (wrByte_wf d k b h)

theorem wrW_wf (d : Dev) (k : Nat) (w : Word) (h : Memory.wf d.mem = true) : Memory.wf (wrW d k w).mem = true :=
  wrBytes_wf _ d k h

theorem wrTW_wf (d : Dev) (k : Nat) (t : TWord) (h : Memory.wf d.mem = true) : Memory.wf (wrTW d k t).mem = true :=
  wrW_wf d k t.w h

theorem memZero_wf (d : Dev) (k n : Nat) (h : Memory.wf d.mem = true) : Memory.wf (memZero d k n).mem = true := by
  rw [wf_iff] at *
  exact ⟨rising_filter _ _ h.1, fun c hc => h.2 c (List.mem_filter.1 hc).1⟩

theorem reset_mem_wf : Memory.wf State.reset.dev.mem = true := by decide

/-! Reads after writes. -/

@[simp] theorem rdByte_wrByte_same (d : Dev) (k : Nat) (v : Byte) : rdByte (wrByte d k v) k = v :=
  look_store_same d.mem k v 0

theorem rdByte_wrByte_other (d : Dev) (k j : Nat) (v : Byte) (h : j ≠ k) : rdByte (wrByte d k v) j = rdByte d j :=
  look_store_other d.mem k j v 0 0 h

/-- Bytes outside those written read as before. -/
theorem rdByte_wrBytes_other (l : List Byte) : ∀ (d : Dev) (k j : Nat), j < k ∨ k + l.length ≤ j →
    rdByte (wrBytes d k l) j = rdByte d j := by
  induction l with
  | nil => intro d k j _; rfl
  | cons b l ih =>
    intro d k j h
    simp only [List.length_cons] at h
    show rdByte (wrBytes (wrByte d k b) (k + 1) l) j = _
    rw [ih _ _ _ (by omega), rdByte_wrByte_other _ _ _ _ (by omega)]

/-- The bytes written read back. -/
theorem rdBytes_wrBytes_same (l : List Byte) : ∀ (d : Dev) (k : Nat), rdBytes (wrBytes d k l) k l.length = l := by
  induction l with
  | nil => intro d k; rfl
  | cons b l ih =>
    intro d k
    show rdByte (wrBytes (wrByte d k b) (k + 1) l) k :: rdBytes (wrBytes (wrByte d k b) (k + 1) l) (k + 1) l.length = b :: l
    rw [ih, rdByte_wrBytes_other _ _ _ _ (by omega), rdByte_wrByte_same]

theorem length_leBytes (k n : Nat) : (leBytes k n).length = k := by
  induction k generalizing n with
  | zero => rfl
  | succ k ih => simp [leBytes, ih]

/-- A number's bytes give it back, cut to their width. -/
theorem ofLeBytes_leBytes (k n : Nat) : ofLeBytes (leBytes k n) = n % 256 ^ k := by
  induction k generalizing n with
  | zero => simp [leBytes, ofLeBytes, Nat.mod_one]
  | succ k ih =>
    simp only [leBytes, ofLeBytes, ih, BitVec.toNat_ofNat]
    have h := Nat.mod_mul (x := n) (a := 256) (b := 256 ^ k)
    have e : 256 ^ (k + 1) = 256 * 256 ^ k := Nat.pow_succ'
    rw [e, h]

@[simp] theorem rdW_wrW_same (d : Dev) (k : Nat) (w : Word) : rdW (wrW d k w) k = w := by
  have h := rdBytes_wrBytes_same (leBytes 4 w.toNat) d k
  rw [length_leBytes] at h
  show BitVec.ofNat 32 (ofLeBytes (rdBytes (wrBytes d k (leBytes 4 w.toNat)) k 4)) = w
  rw [h, ofLeBytes_leBytes]
  have : w.toNat % 256 ^ 4 = w.toNat := Nat.mod_eq_of_lt w.isLt
  rw [this]
  simp

/-- Writing bytes changes the memory bytes only. -/
theorem wrBytes_dev (l : List Byte) : ∀ (d : Dev) (k : Nat), wrBytes d k l = { d with mem := (wrBytes d k l).mem } := by
  induction l with
  | nil => intro d k; rfl
  | cons b l ih => intro d k; exact ih (wrByte d k b) (k + 1)

@[simp] theorem rd_wrBytes (d : Dev) (k : Nat) (l : List Byte) (r : Reg) : rd (wrBytes d k l) r = rd d r := by
  rw [wrBytes_dev]; rfl

end Sys2Proof.Machine
end

