-- ==== Sys2Proof/WellFormed.lean ====
section
/-! DEFINITION. Which commands could come at all: the sizes of accesses, frames, descriptors and lines that the spec gives.
A command that is not well-formed spells nothing the hardware can be sent; `exec` is total on it all the same. -/

namespace Sys2Proof

/-- A payload is of 0 to 64 words (R613). -/
def Frame.wf (f : Frame) : Bool := decide (f.payload.length ≤ 256) && f.payload.length % 4 == 0

/-- A host descriptor is 64 bytes, sixteen words (R573). -/
def Desc.wf (d : Desc) : Bool := d.words.length == 16

/-- An instruction has at most three operand specifiers (R338). -/
def Insn.wf (i : Insn) : Bool := decide (i.ops.length ≤ 3)

/-- An access is of 1, 2, 4 or 8 bytes in the 32-bit address space; a misaligned one is answered with an error (R13). -/
def accessWf (addr size : Nat) : Bool := (size == 1 || size == 2 || size == 4 || size == 8) && decide (addr < 2 ^ 32)

/-- The instruction of a command that a core executes. -/
def Instr.insn (i : Instr) : Option Insn :=
  match i with
  | .mov _ j => some j
  | .add _ j => some j
  | .sub _ j => some j
  | .mul _ j => some j
  | .mac _ j => some j
  | .div _ j => some j
  | .rem _ j => some j
  | .neg _ j => some j
  | .abs _ j => some j
  | .and _ j => some j
  | .or _ j => some j
  | .xor _ j => some j
  | .not _ j => some j
  | .shl _ j => some j
  | .shr _ j => some j
  | .sha _ j => some j
  | .rot _ j => some j
  | .cmp _ j => some j
  | .bcc _ j => some j
  | .call _ j => some j
  | .ret _ j => some j
  | .gate _ j => some j
  | .gret _ j => some j
  | .reti _ j => some j
  | .trap _ j => some j
  | .tag _ j => some j
  | .untag _ j => some j
  | .tchk _ j => some j
  | .cvt _ j => some j
  | .sincos _ j => some j
  | .atan2 _ j => some j
  | .bmov _ j => some j
  | .bfill _ j => some j
  | .bcrc _ j => some j
  | .vmac _ j => some j
  | .flushi _ j => some j
  | .chkpt _ j => some j
  | .wft _ j => some j
  | .sync _ j => some j
  | _ => none

/-- The shape of a command's operands. -/
def Instr.wf (i : Instr) : Bool :=
  match i with
  | .registerWrite _ a n _ => accessWf a n
  | .bar0Access a _ _ => decide (a < 2 ^ 18)
  | .syncReceive f => f.wf
  | .frameReceive _ _ f => f.wf
  | .vote f => f.wf
  | .drsp _ _ f => f.wf
  | .chainReset f => f.wf
  | .xdataReceive f => f.wf
  | .descriptorFetch _ _ d => d.wf
  | .descriptorReread _ _ d => d.wf
  | .imageBlock _ _ b => decide (b.length ≤ 73728)
  | .cxlMemAccess _ (some b) => b.length == 64
  | .doorbellRead _ l => l.length == 16
  | .biasFlip g => decide (g < 2 ^ 26)
  | .biasFlipDone g => decide (g < 2 ^ 26)
  | _ => i.insn.all Insn.wf

end Sys2Proof
end

