-- ==== Sys2Proof/Tests/Slice0.lean ====
section
/-! SUPPORT. The model's own tests: terms that well-formedness refuses, results that the spec's worked examples give, and for
each obligation states and operands that meet the hypotheses of its clauses (`witness_<Name>`, a part per clause). -/

namespace Sys2Proof.Tests

open Sys2Proof Sys2Proof.Machine

section

set_option Elab.async false
set_option linter.unusedVariables false

/-- The state after reset with all clocks running. -/
def live : State := { State.reset with pwr := ⟨true, true, true, false, false⟩ }
/-- That state with its device changed. -/
def on (f : Dev → Dev) : State := { live with dev := f live.dev }
def frame0 : Frame := ⟨0, 0, 0, false, 0, 0, 0, []⟩
def desc0 : Desc := ⟨List.replicate 16 0⟩
def peer0 : Peer := ⟨0, none, false, false, 0, 0, 0⟩
def set0 : LeSet := { slots := [], ts := 0, skew := 0, ang := 0, spd := 0, age := 0, cfg := [] }
def job0 : Job := { id := 0, ctx := 0, cls := 0, dl := 0, rem := 0 }
def snap0 : SnapSt := { sdef := 0, src := 0, t := 0, ctx := 0, rseq := 0, tno := 0, lanes := [], pre := 0, post := 0 }
def le0 (x : LeSet) : State := on fun d => { d with le := [(0, { comp := some x })] }
def half0 (w : Word) : ResSt := ⟨w, false, 0, 0, false⟩
def fbRun (f : Nat) (d : Dev) : Dev := sf (wr d (FB.FSUP f) 0) (FB.FSTAT f) FB.FSTAT_STATE 2
def vecOk (c k : Nat) (d : Dev) : Dev :=
  { wr d (CORE.FP c) 0x20010000 with tags := put d.tags (CORE.FVEC c k).addr true }
def pairSt (p : Nat) (x : PairSt) (d : Dev) : Dev := pairPut d p x
def twIn (k : Nat) (d : Dev) : Dev := sf d PAIRC.TWSTAT PAIRC.TWSTAT_STATE k
def offer1 (d : Dev) : Dev :=
  let d := setBit d (ICU.IPEND 0) 1 true
  let d := setBit (sf (sf d (ICU.ISRC 1) ICU.ISRC_LEVEL 5) (ICU.ISRC 1) ICU.ISRC_TARGET 1) (ICU.IMASK 0) 1 false
  let d := sf (wr d (ICU.IVEC 1) 0x1000) (CORE.STATUS 0) stIe 1
  { d with tags := put d.tags (ICU.IVEC 1).addr true, core := [(0, { rst := false })] }
def flAt (a : Nat) (d : Dev) : Dev := sf d FLASHC.FLADDR FLASHC.FLADDR_ADDR (a / 32)
def flOp (n : Nat) : FlSt := { op := n, sec := 511 - 256 }
def ddrOn (k : Nat) (d : Dev) : Dev := sf d DDRC.DSTAT DDRC.DSTAT_STATE k
def cvOn (u : Nat) (d : Dev) : Dev := sf (sf d (CVU.CVSTAT u) CVU.CVSTAT_STATE 2) (CVU.CVCFG u) CVU.CVCFG_SRC 2
def ws64 (l : List TWord) : List TWord := l ++ List.replicate (64 - l.length) tVoid
def cpu (ws : List TWord) (f : CoreSt → CoreSt) (d : Dev) : Dev :=
  wr { d with core := [(0, f { rst := false, pc := 0x10000000, frames := [(0x10010000, ws64 ws)] })] } (CORE.FP 0) 0x10010000
def cpuOn (ws : List TWord) : State := on (cpu ws id)
def excOn (k : Nat) (ws : List TWord) : State :=
  on fun d => { cpu ws id d with tags := put d.tags (CORE.FVEC 0 k).addr true }
def stores (l : List (Nat × TWord)) (d : Dev) : Dev := l.foldl (fun d e => storeDone d 0 e.1 e.2) d
def cpuMem (ws : List TWord) (l : List (Nat × TWord)) : State := on fun d => stores l (cpu ws id d)
def framesOn (n : Nat) (a : Nat) : List (Nat × List TWord) := (List.range n).map (fun k => (a + 256 * k, ws64 [tCode 0x10000100]))
def okIs {α : Type} [DecidableEq α] (p : Dev × Try α) (d : Dev) (x : α) : Bool :=
  decide (p.1 = d) && match p.2 with | .ok y => decide (y = x) | .error _ => false
theorem eq_of_okIs {α : Type} [DecidableEq α] {p : Dev × Try α} {d : Dev} {x : α} (h : okIs p d x = true) : p = (d, .ok x) := by
  obtain ⟨e, r⟩ := p
  cases r with
  | error q => simp [okIs] at h
  | ok y => simp [okIs] at h; rw [h.1, h.2]
theorem upTo4 {P : Nat → Prop} (h0 : P 0) (h1 : P 1) (h2 : P 2) (h3 : P 3) : ∀ k : Nat, k < 4 → P k
  | 0, _ => h0 | 1, _ => h1 | 2, _ => h2 | 3, _ => h3 | n + 4, h => absurd h (by omega)
def hUp (d : Dev) : Dev := sf (sf d CXLC.CXSTAT CXLC.CXSTAT_LSTATE 2) FLASHC.FLBOOT FLASHC.FLBOOT_ROM 0
def rOn (r : Nat) (d : Dev) : Dev := sf (sf (hUp d) (HOST.RCFG r) HOST.RCFG_EN 1) (HOST.RCFG r) HOST.RCFG_LOG 4
def ds (l : List Word) (o : Word) : Desc := ⟨l ++ List.replicate (15 - l.length) 0 ++ [o]⟩
def rDesc (r : Nat) (x : Desc) (d : Dev) : Dev := ringPut (rOn r d) r { desc := some x }
def cel1 (c : Nat) (d : Dev) : Dev :=
  sf d (PRESS.LNCFG c) PRESS.LNCFG_CEL 1
def portIn (p k : Nat) (d : Dev) : Dev := sf d (CHAIN.CHPSTAT p) CHAIN.CHPSTAT_STATE k
def toParent (p : Nat) (d : Dev) : Dev := sf d CHAIN.CHPOS CHAIN.CHPOS_PARENT (p + 1)
def headOn (d : Dev) : Dev := sf d CHAIN.CHSTAT CHAIN.CHSTAT_HEAD 1
def marker0 : Marker := ⟨0, true, 0, 0⟩
def unitA : UnitInfo := ⟨5, 0, 0, none, 0, 1, 0⟩
def unitB : UnitInfo := ⟨6, 0, 1, some 5, 1, 1, 0⟩
def enumOn (d : Dev) : Dev := sf (headOn { d with chain := { d.chain with serial := [(0, 5)] } }) CHAIN.CHSTAT CHAIN.CHSTAT_ENUM 2

/-- Whether a command goes on to a state whose device has a property. -/
def after (o : Out) (p : Dev → Bool) : Bool := match o with | .next t => p t.dev | _ => false

/-! Well-formedness: each check refuses a term that breaks it alone. -/

theorem test_wf_frame_payload_over_64_words :
    (Instr.vote { frame0 with payload := List.replicate 260 0 }).wf = false ∧ (Instr.vote frame0).wf = true := by decide +kernel
theorem test_wf_frame_payload_in_words :
    (Instr.frameReceive 0 true { frame0 with payload := [1, 2, 3] }).wf = false := by decide
theorem test_wf_descriptor_of_16_words :
    (Instr.descriptorFetch 0 true ⟨List.replicate 15 0⟩).wf = false ∧ (Instr.descriptorFetch 0 true desc0).wf = true := by decide
theorem test_wf_insn_of_at_most_3_operands :
    (Instr.add 0 ⟨0, 0, List.replicate 4 (.frame 0)⟩).wf = false ∧ (Instr.add 0 ⟨0, 0, List.replicate 3 (.frame 0)⟩).wf = true := by
  decide
theorem test_wf_access_size : (Instr.registerWrite .host 0x40000000 3 0).wf = false := by decide
theorem test_wf_access_address : (Instr.registerWrite .host (2 ^ 32) 4 0).wf = false := by decide
theorem test_wf_bar0_address : (Instr.bar0Access (2 ^ 18) 4 none).wf = false := by decide
theorem test_wf_image_block_length : (Instr.imageBlock 0 true (List.replicate 73729 0)).wf = false := by
  show decide ((List.replicate 73729 (0 : Byte)).length ≤ 73728) = false
  rw [List.length_replicate]; decide
theorem test_wf_memory_line_of_64_bytes : (Instr.cxlMemAccess 0 (some (List.replicate 63 0))).wf = false := by decide
theorem test_wf_doorbell_line_of_16_words : (Instr.doorbellRead 0 [1]).wf = false := by decide
theorem test_wf_bias_granule : (Instr.biasFlip (2 ^ 26)).wf = false ∧ (Instr.biasFlipDone (2 ^ 26)).wf = false := by decide

/-! The state after reset, and the queue. -/

theorem test_reset_memory_wf : Memory.wf State.reset.dev.mem = true := by decide
theorem test_reset_queue_empty : State.reset.pending = [] := by decide
theorem test_idle_step : step State.reset = .next State.reset := rfl
/-- The state the model starts from is the one a power-on reset leaves (R681). -/
theorem test_power_on_gives_reset : exec .powerOnReset State.reset = .next State.reset := rfl

/-! Results the spec's worked examples give (of the chapters on time, the instruction set, records and the chain). -/

/-- `FANG` past the index mark: ANGLE less ANGLE is FIX (worked example, the speed of C23). -/
theorem test_angle_difference_over_the_mark :
    aluSub 0 ⟨.angle, 0x0004A6AC⟩ ⟨.angle, 0xFFFC1A00⟩ = .ok { t := ⟨.fix, 0x00088CAC⟩ } := rfl
theorem test_fix_to_real :
    (aluCvt 0 .real 0 ⟨.fix, 0x00088CAC⟩).toOption.map (·.t) = some ⟨.real, 0x3988CAC0⟩ := by decide +kernel
theorem test_real_product :
    (aluMul 0 ⟨.real, 0x3988CAC0⟩ ⟨.real, 0x461C4000⟩).toOption.map (·.t) = some ⟨.real, 0x4026FB7F⟩ := by decide +kernel
theorem test_angle_times_nat : aluMul 2 ⟨.angle, 0x093CB800⟩ ⟨.nat, 12⟩ = .ok { t := ⟨.angle, 0x6ED8A000⟩ } := rfl
theorem test_angle_sum_wraps :
    aluAdd 0 ⟨.angle, 0x6ED8A000⟩ ⟨.angle, 0xE0000000⟩ = .ok { t := ⟨.angle, 0x4ED8A000⟩ } := rfl
/-- The whole `SUB f10, f9, f8` of that example as one command. -/
theorem test_sub_command :
    after (exec (.sub 0 ⟨0, 0, [.frame 10, .frame 9, .frame 8]⟩)
        (cpuOn (List.replicate 8 tVoid ++ [⟨.angle, 0xFFFC1A00⟩, ⟨.angle, 0x0004A6AC⟩])))
      (fun d => slotGet d 0 10 = ⟨.fix, 0x00088CAC⟩ ∧ (coreGet d 0).pc = 0x10000008) = true := by decide +kernel

/-- A compare written at count 1000 of GPT3 (worked example, a timer at a fixed point in every tick). -/
theorem test_compare_after_a_write :
    let d (v : Word) : Dev := { wr (sf live.dev (GPT.GCFG 3) GPT.GCFG_MODE 1) (GPT.GCMP 3) v with now := 2000, gpt := [(3, { ev := 2000 })] }
    [1000, 999, 1001, 3000, 0x800003EA, 0x800003E9].map (fun v => gptToCompare (d v) 3) =
      [some 1001, some 1001, some 1001, some 3000, some 1001, some (2 ^ 31 + 1001)] := by decide +kernel

/-- The delay exchange of the hop from 0x000 to 0x001: 180 ns and 120 ns in steps of 1/19.2 ns give 576 steps. -/
theorem test_link_delay :
    after (exec (.drsp 0 3456 { frame0 with payload := leBytes 8 2304 }) (on (portIn 0 1)))
      (fun d => (look d.port 0 {}).acc = 2 * 576) = true := by decide +kernel

/-- The guard word of result 57 of context 0x00A1 on unit 0x001 (worked example, its own records). -/
theorem test_guard_word : guardWord 1 0xA1 57 = [0x01, 0x00, 0xA1, 0x00, 0x39, 0x00, 0x00, 0x00] := by decide

/-- Check values of "123456789", which the standard CRCs that R370 and R533 name are known by. -/
theorem test_crc_check_values :
    [0, 1].map (fun p => crcFold p 0xFFFFFFFF [0x31, 0x32, 0x33, 0x34, 0x35, 0x36, 0x37, 0x38, 0x39] ^^^ 0xFFFFFFFF) =
      [0xE3069283, 0xCBF43926] := by decide +kernel

/-- SHA-384 of "abc", the example of FIPS 180-4. -/
theorem test_sha384 :
    (sha384 [0x61, 0x62, 0x63]).take 8 = [0xCB, 0x00, 0x75, 0x3F, 0x45, 0xA3, 0x5E, 0x8B] := by decide +kernel

/-- The arming of group 3 for tick 0x7A3C1E64 (worked example, a draw change). -/
theorem test_arming_group_3 :
    after (exec (.cmarm 0x0008) (on fun d => wr { d with tickno := 0x00027A3C1E50 } TICK.CMTGT 0x7A3C1E64))
      (fun d => rd d (TICK.CGTGT 3) = 0x7A3C1E64 ∧ bitOf d (TICK.CGCTL 3) 0 = true ∧ bitOf d (TICK.CGCTL 4) 0 = false) = true := by
  decide +kernel

/-! The hypotheses of the obligations hold somewhere. -/

theorem witness_EmptyQueueIdles :
    ∃ (s : State), s.pending = [] :=
  ⟨live, by decide⟩

theorem witness_OnlyClockCommandsMoveClocks :
    ∃ (c : Instr) (s : State) (t : State), exec c s = .next t :=
  ⟨.fpWrite 0 0, State.reset, State.reset, rfl⟩

theorem witness_ClockTreeInvariantKept :
    ∃ (s : State) (t : State), s.pwr.Inv ∧ step s = .next t :=
  ⟨State.reset, State.reset, ⟨by unfold Pwr.Inv; decide, rfl⟩⟩

theorem witness_TickAdvancesNumberAndRaisesSource :
    (∃ (s : State), s.pwr.root = true) ∧
    (∃ (d : Dev), d.tbHold = 0 ∧ d.tphase ≤ gf d TICK.TICKPER TICK.TICKPER_PER) ∧
    (∃ (s : State), s.pwr.crystal = true ∧ s.pwr.root = false ∧ s.dev.off = false ∧
      ((s.pwr.asleep = true ∨ s.pwr.frozen = true))) :=
  ⟨⟨live, by decide⟩,
   ⟨live.dev, by decide⟩,
   ⟨{ State.reset with pwr := ⟨true, false, false, true, false⟩ }, by decide⟩⟩

theorem witness_SnapCopiesTimeBase :
    (∃ (s : State), s.pwr.root = true) ∧
    (∃ (s : State) (v : Word), s.pwr.root = true ∧ 1200 ≤ fget TICK.TICKPER_PER v ∧ fget TICK.TICKPER_PER v ≤ 6000000) ∧
    (∃ (s : State) (v : Word), s.pwr.root = true ∧ (fget TICK.TICKPER_PER v < 1200 ∨ 6000000 < fget TICK.TICKPER_PER v)) :=
  ⟨⟨live, by decide⟩,
   ⟨live, 6000000, by decide⟩,
   ⟨live, 0, by decide⟩⟩

theorem witness_ArmingInTimeAndLate :
    (∃ (s : State) (g : Fin 16) (v : Word), s.pwr.root = true ∧ g ≠ 0 ∧ gf s.dev PAIRC.TWSTAT PAIRC.TWSTAT_STATE ≠ 4 ∧
      bitOf s.dev (TICK.CGCTL g) 0 = true ∧ atOrPast (tnoLow s.dev) v = false) ∧
    (∃ (s : State) (g : Fin 16) (v : Word), s.pwr.root = true ∧ g ≠ 0 ∧ bitOf s.dev (TICK.CGCTL g) 0 = false) ∧
    (∃ (s : State) (g : Fin 16) (v : Word), s.pwr.root = true ∧ g ≠ 0 ∧ gf s.dev PAIRC.TWSTAT PAIRC.TWSTAT_STATE ≠ 4 ∧
      bitOf s.dev (TICK.CGCTL g) 0 = false ∧ v.getLsbD 0 = true ∧ atOrPast (tnoLow s.dev) (rd s.dev (TICK.CGTGT g)) = false) ∧
    (∃ (s : State) (g : Fin 16) (v : Word), s.pwr.root = true ∧ g ≠ 0 ∧ v.getLsbD 0 = false) ∧
    (∃ (s : State) (g : Fin 16), s.pwr.root = true ∧ g ≠ 0 ∧ gf s.dev PAIRC.TWSTAT PAIRC.TWSTAT_STATE ≠ 4 ∧
      atOrPast (tnoLow s.dev) (rd s.dev TICK.CMTGT) = true) :=
  ⟨⟨on fun d => setBit d (TICK.CGCTL 15) 0 true, 15, 1, by decide⟩,
   ⟨live, 1, 0, by decide⟩,
   ⟨on fun d => wr d (TICK.CGTGT 15) 0x7FFFFFFF, 15, 1, by decide⟩,
   ⟨live, 1, 0, by decide⟩,
   ⟨on fun d => wr d TICK.CMTGT 0, 15, by decide⟩⟩

theorem witness_CompareFiresAtFirstAtOrPast :
    (∃ (s : State) (k : Fin 4) (v : Word), s.pwr.root = true) ∧
    (∃ (s : State) (k : Fin 4) (a : Nat) (b : Nat), s.pwr.root = true ∧ look s.dev.tbArm k none = some a ∧
      b = tbAt (advance s.dev s.dev.tbHold) a) :=
  ⟨⟨live, 0, 0, by decide⟩,
   ⟨on fun d => { d with tbArm := [(3, some 0)] }, 3, 0,
      tbAt (advance (on fun d => { d with tbArm := [(3, some 0)] }).dev (on fun d => { d with tbArm := [(3, some 0)] }).dev.tbHold) 0,
      by decide⟩⟩

theorem witness_TimerWritesTakeEffect :
    (∃ (s : State) (n : Fin 32) (v : Word), s.pwr.root = true ∧ gateOpen s.dev 0 = true) ∧
    (∃ (s : State) (n : Fin 32) (v : Word), s.pwr.root = true ∧ gateOpen s.dev 0 = true ∧ capselReserved v = false) ∧
    (∃ (s : State) (n : Fin 32) (v : Word), s.pwr.root = true ∧ gateOpen s.dev 0 = true ∧ capselReserved v = true) :=
  ⟨⟨live, 0, 0, by decide⟩,
   ⟨live, 0, 0, by decide⟩,
   ⟨live, 31, 0x1F0000, by decide⟩⟩

theorem witness_TimerEventsFire :
    (∃ (s : State) (n : Fin 32) (i : Nat) (g : GptSt), s.pwr.root = true ∧ gateOpen s.dev 0 = true ∧
      look s.dev.gpt n {} = g ∧ g.armed = true ∧ gptCounting s.dev n = true ∧ g.ev < g.t0 + i * gptStep s.dev n ∧
      (gptMode s.dev n = 2 → g.base + i ≤ gptRld s.dev n) ∧
      atOrPast (BitVec.ofNat 32 (g.base + i)) (rd s.dev (GPT.GCMP n)) = true ∧ ((∀ k : Nat, k < i →
      g.ev < g.t0 + k * gptStep s.dev n → atOrPast (BitVec.ofNat 32 (g.base + k)) (rd s.dev (GPT.GCMP n)) = false))) ∧
    (∃ (s : State) (n : Fin 32), s.pwr.root = true ∧ gateOpen s.dev 0 = true ∧ gptMode s.dev n = 1) ∧
    (∃ (s : State) (n : Fin 32), s.pwr.root = true ∧ gateOpen s.dev 0 = true ∧ gptMode s.dev n = 2) ∧
    (∃ (s : State) (n : Fin 32) (dt : Nat), s.pwr.root = true ∧ gateOpen s.dev 0 = true ∧
      gf s.dev (GPT.GCFG n) GPT.GCFG_CAPSEL ≠ 0) :=
  ⟨⟨on fun d => { wr (sf d (GPT.GCFG 31) GPT.GCFG_MODE 1) (GPT.GCMP 31) 5 with gpt := [(31, { armed := true })] }, 31, 5,
      { armed := true }, by decide⟩,
   ⟨on fun d => sf d (GPT.GCFG 0) GPT.GCFG_MODE 1, 0, by decide⟩,
   ⟨on fun d => sf d (GPT.GCFG 0) GPT.GCFG_MODE 2, 0, by decide⟩,
   ⟨on fun d => sf d (GPT.GCFG 0) GPT.GCFG_CAPSEL 1, 0, 0, by decide⟩⟩

theorem witness_ReferencesStartAndStop :
    (∃ (s : State) (k : Fin 4), s.pwr.root = true ∧ refState s.dev k = 1) ∧
    (∃ (s : State) (k : Fin 4) (t : Nat), s.pwr.root = true ∧ (refGet s.dev k).ext = some t) ∧
    (∃ (s : State) (k : Fin 4), s.pwr.root = true ∧ refState s.dev k = 3) :=
  ⟨⟨on fun d => refSetState d 3 1, 3, by decide⟩,
   ⟨on fun d => { d with ref := [(3, { ext := some 9 })] }, 3, 9, by decide⟩,
   ⟨on fun d => refSetState d 3 3, 3, by decide⟩⟩

theorem witness_ConvertersStartStopCalibrate :
    (∃ (s : State) (n : Fin 8), s.pwr.root = true ∧ adcState s.dev n = 1) ∧
    (∃ (s : State) (n : Fin 8), s.pwr.root = true ∧ adcState s.dev n = 3) ∧
    (∃ (s : State) (n : Fin 8), s.pwr.root = true ∧ gateOpen s.dev (1 + n) = true ∧ adcState s.dev n = 2 ∧
      gf s.dev (ADC.ACSEQ n) ADC.ACSEQ_LEN = 0 ∧ gf s.dev (ADC.AMSEQ n) ADC.AMSEQ_LEN = 0 ∧ (adcGet s.dev n).cal = none) ∧
    (∃ (s : State) (n : Fin 8), s.pwr.root = true ∧ gateOpen s.dev (1 + n) = true ∧
      ((adcState s.dev n ≠ 2 ∨ gf s.dev (ADC.ACSEQ n) ADC.ACSEQ_LEN ≠ 0 ∨ gf s.dev (ADC.AMSEQ n) ADC.AMSEQ_LEN ≠ 0 ∨ (adcGet s.dev n).cal ≠ none))) ∧
    (∃ (s : State) (n : Fin 8) (t : Nat), s.pwr.root = true ∧ (adcGet s.dev n).cal = some t) :=
  ⟨⟨on fun d => adcSetState d 7 1, 7, by decide⟩,
   ⟨on fun d => adcSetState d 7 3, 7, by decide⟩,
   ⟨on fun d => adcSetState d 7 2, 7, by decide⟩,
   ⟨live, 0, by decide⟩,
   ⟨on fun d => { d with adc := [(7, { cal := some 9 })] }, 7, 9, by decide⟩⟩

theorem witness_TriggersStartSequences :
    (∃ (s : State) (n : Fin 8) (dt : Nat), s.pwr.root = true ∧ adcState s.dev n = 2 ∧
      gf s.dev (ADC.ACSEQ n) ADC.ACSEQ_LEN ≠ 0 ∧ gf s.dev (ADC.ATRIG n) ADC.ATRIG_TSEL ≠ 0 ∧
      gf s.dev (ADC.ATRIG n) ADC.ATRIG_TSEL ≠ 2 ∧ ((∀ r ∈ (adcGet s.dev n).ctl, r.2 ≤ s.dev.now + dt))) ∧
    (∃ (s : State) (n : Fin 8) (dt : Nat), s.pwr.root = true ∧ adcState s.dev n = 2 ∧
      gf s.dev (ADC.ACSEQ n) ADC.ACSEQ_LEN ≠ 0 ∧ gf s.dev (ADC.ATRIG n) ADC.ATRIG_TSEL ≠ 0 ∧
      gf s.dev (ADC.ATRIG n) ADC.ATRIG_TSEL ≠ 2 ∧ ((∃ r ∈ (adcGet s.dev n).ctl, s.dev.now + dt + 1 < r.2))) ∧
    (∃ (s : State) (n : Fin 8), s.pwr.root = true ∧ gateOpen s.dev (1 + n) = true ∧ adcState s.dev n = 2 ∧
      gf s.dev (ADC.ACSEQ n) ADC.ACSEQ_LEN ≠ 0 ∧ gf s.dev (ADC.ATRIG n) ADC.ATRIG_TSEL = 2 ∧ (adcGet s.dev n).ctl = []) ∧
    (∃ (s : State) (n : Fin 8), s.pwr.root = true ∧ adcState s.dev n = 2 ∧ gf s.dev (ADC.AMSEQ n) ADC.AMSEQ_LEN ≠ 0) :=
  ⟨⟨on fun d => sf (sf (adcSetState d 7 2) (ADC.ACSEQ 7) ADC.ACSEQ_LEN 16) (ADC.ATRIG 7) ADC.ATRIG_TSEL 1, 7, 0, by decide⟩,
   ⟨on fun d => { sf (sf (adcSetState d 7 2) (ADC.ACSEQ 7) ADC.ACSEQ_LEN 16) (ADC.ATRIG 7) ADC.ATRIG_TSEL 1 with adc := [(7, { ctl := [(0, 2)] })] },
      7, 0, by decide⟩,
   ⟨on fun d => sf (sf (adcSetState d 7 2) (ADC.ACSEQ 7) ADC.ACSEQ_LEN 16) (ADC.ATRIG 7) ADC.ATRIG_TSEL 2, 7, by decide⟩,
   ⟨on fun d => sf (adcSetState d 7 2) (ADC.AMSEQ 7) ADC.AMSEQ_LEN 16, 7, by decide⟩⟩

theorem witness_ResultsReachTheirRegisters :
    (∃ (s : State) (n : Fin 8) (mon : Bool) (i : Fin 16) (nv : Int) (m : Smp) (rest : List Smp), s.pwr.root = true ∧
      takeSmp mon i (adcGet s.dev n).fl = some (m, rest) ∧ m.pat = true) ∧
    (∃ (s : State) (n : Fin 8) (mon : Bool) (i : Fin 16) (nv : Int) (m : Smp) (rest : List Smp), s.pwr.root = true ∧
      takeSmp mon i (adcGet s.dev n).fl = some (m, rest) ∧ m.pat = false ∧ fget ADC.CENT_RES m.ent = 1 ∧ m.mon = mon ∧
      m.i = i) :=
  ⟨⟨on fun d => { d with adc := [(7, { fl := [⟨true, 15, 0, 0, 0, false, true, false, false⟩] })] }, 7, true, 15, 0, ⟨true,
      15, 0, 0, 0, false, true, false, false⟩, [], by decide⟩,
   ⟨on fun d => { d with adc := [(7, { fl := [⟨true, 15, 0, 0, 0x1000000, false, false, false, false⟩] })] }, 7, true, 15,
      0, ⟨true, 15, 0, 0, 0x1000000, false, false, false, false⟩, [], by decide⟩⟩

theorem witness_ConverterConfigurationIsPending :
    (∃ (s : State) (n : Fin 8) (o : Nat) (v : Word) (r : Reg) (m : Word), s.pwr.root = true ∧
      gateOpen s.dev (1 + n) = true ∧ o < 0x1000 ∧ adcTicked n (tickedOff o) v = some (r, m, false)) ∧
    (∃ (s : State) (n : Fin 8) (o : Nat) (v : Word) (r : Reg) (m : Word), s.pwr.root = true ∧
      gateOpen s.dev (1 + n) = true ∧ o < 0x1000 ∧ adcTicked n (tickedOff o) v = some (r, m, true)) ∧
    (∃ (s : State) (v : Word), s.pwr.root = true ∧ gateOpen s.dev 9 = true) :=
  ⟨⟨live, 7, 0, 3, ADC.ACTL 7, 3, by decide⟩,
   ⟨live, 7, 8, 17, ADC.ACSEQ 7, 0x1F, by decide⟩,
   ⟨live, 0, by decide⟩⟩

theorem witness_QuadratureCountsOneStepPerEdge :
    (∃ (s : State) (f : Fin 24) (a : Bool) (b : Bool) (dt : Nat) (u : Int), s.pwr.root = true ∧ fbState s.dev f = 2 ∧
      fbMode s.dev f = 0 ∧ gf s.dev (FB.FCFG f) FB.FCFG_CMODE = 0 ∧ rd s.dev (FB.FSUP f) &&& 0x1FFF = 0 ∧ (((fbA s.dev f,
      fbB s.dev f, a, b) ∈ [(false, false, true, false), (true, false, true, true), (true, true, false, true), (false, true,
      false, false)] ∧ u = (if fbInv s.dev f then -1 else 1) ∨ (a, b, fbA s.dev f, fbB s.dev f) ∈ [(false, false, true,
      false), (true, false, true, true), (true, true, false, true), (false, true, false, false)] ∧
      u = (if fbInv s.dev f then 1 else -1)))) ∧
    (∃ (s : State) (f : Fin 24) (dt : Nat), s.pwr.root = true ∧ fbState s.dev f = 2 ∧ fbMode s.dev f = 0 ∧
      rd s.dev (FB.FSUP f) &&& 0x1FFF = 0) :=
  ⟨⟨on fun d => fbRun 23 d, 23, true, false, 0, 1, by decide⟩,
   ⟨on fun d => fbRun 23 d, 23, 0, by decide⟩⟩

theorem witness_FeedbackWritesAndStandstill :
    (∃ (s : State) (f : Fin 24) (k : Fin 4) (v : Word), s.pwr.root = true ∧ gateOpen s.dev 12 = true) ∧
    (∃ (s : State) (f : Fin 24), s.pwr.root = true ∧ fbState s.dev f = 2 ∧ gf s.dev (FB.FSUP f) FB.FSUP_STO ≠ 0 ∧
      gf s.dev (FB.FSUP f) FB.FSUP_STO ≤ (fbGet s.dev f).quiet) ∧
    (∃ (s : State) (f : Fin 24) (o : Nat) (v : Word) (r : Reg) (m : Word), s.pwr.root = true ∧ gateOpen s.dev 12 = true ∧
      o < 0x400 ∧ fbTicked f o v = some (r, m, false)) :=
  ⟨⟨live, 0, 0, 0, by decide⟩,
   ⟨on fun d => sf (fbRun 23 { d with fb := [(23, { quiet := 1 })] }) (FB.FSUP 23) FB.FSUP_STO 1, 23, by decide⟩,
   ⟨live, 23, 4, 0, FB.FCTL 23, 1, by decide⟩⟩

theorem witness_SsiReadings :
    (∃ (s : State) (f : Fin 24), s.pwr.root = true ∧ fbMode s.dev f = 5 ∧ (fbState s.dev f = 1 ∨ fbState s.dev f = 2) ∧
      gf s.dev (FB.FSSI f) FB.FSSI_TSEL ≠ 0 ∧ gf s.dev (FB.FSSI f) FB.FSSI_TSEL ≠ 2 ∧ (fbGet s.dev f).ssi = 0) ∧
    (∃ (s : State) (f : Fin 24) (h : Bool), s.pwr.root = true ∧ fbMode s.dev f = 5 ∧
      (fbState s.dev f = 1 ∨ fbState s.dev f = 2) ∧ gf s.dev (FB.FSSI f) FB.FSSI_TSEL ≠ 0 ∧
      gf s.dev (FB.FSSI f) FB.FSSI_TSEL ≠ 2 ∧ (fbGet s.dev f).ssi ≠ 0 ∧ rd s.dev (FB.FSUP f) &&& 0x1FFF = 0) ∧
    (∃ (s : State) (f : Fin 24), s.pwr.root = true ∧ gateOpen s.dev 12 = true ∧ fbMode s.dev f = 5 ∧
      (fbState s.dev f = 1 ∨ fbState s.dev f = 2) ∧ gf s.dev (FB.FSSI f) FB.FSSI_TSEL = 2 ∧ (fbGet s.dev f).ssi = 0) ∧
    (∃ (s : State) (f : Fin 24) (raw : Word), s.pwr.root = true ∧ (fbGet s.dev f).ssi = 1 ∧ fbState s.dev f = 2 ∧
      rd s.dev (FB.FSUP f) &&& 0x1FFF = 0 ∧ gf s.dev (FB.FSSI f) FB.FSSI_GRAY = 0) ∧
    (∃ (s : State) (f : Fin 24) (raw : Word), s.pwr.root = true ∧ (fbGet s.dev f).ssi = 1 ∧
      rd s.dev (FB.FSUP f) &&& 0x1FFF = 0) ∧
    (∃ (s : State) (f : Fin 24), s.pwr.root = true ∧ (fbGet s.dev f).ssi = 2) :=
  ⟨⟨on fun d => sf (sf (fbRun 0 d) (FB.FCFG 0) FB.FCFG_MODE 5) (FB.FSSI 0) FB.FSSI_TSEL 1, 0, by decide⟩,
   ⟨on fun d => { sf (sf (fbRun 0 d) (FB.FCFG 0) FB.FCFG_MODE 5) (FB.FSSI 0) FB.FSSI_TSEL 1 with fb := [(0, { ssi := 1 })] },
      0, false, by decide⟩,
   ⟨on fun d => sf (sf (fbRun 0 d) (FB.FCFG 0) FB.FCFG_MODE 5) (FB.FSSI 0) FB.FSSI_TSEL 2, 0, by decide⟩,
   ⟨on fun d => sf (fbRun 0 { d with fb := [(0, { ssi := 1 })] }) (FB.FSSI 0) FB.FSSI_GRAY 0, 0, 0, by decide⟩,
   ⟨on fun d => fbRun 0 { d with fb := [(0, { ssi := 1 })] }, 0, 0, by decide⟩,
   ⟨on fun d => { d with fb := [(0, { ssi := 2 })] }, 0, by decide⟩⟩

theorem witness_FeedbackStartsAndStops :
    (∃ (s : State) (f : Fin 24), s.pwr.root = true ∧ fbState s.dev f = 1 ∧
      (((fbGet s.dev f).got = true ∨ (fbSc s.dev f = false ∧ fbMode s.dev f ≠ 5)))) ∧
    (∃ (s : State) (f : Fin 24), s.pwr.root = true ∧ fbState s.dev f = 3 ∧ (fbGet s.dev f).items = [] ∧
      (fbGet s.dev f).ssi ≠ 1 ∧ gf s.dev (FB.FCTL f) FB.FCTL_EN = 0) ∧
    (∃ (s : State) (f : Fin 24), s.pwr.root = true ∧ fbState s.dev f = 3 ∧ (fbGet s.dev f).items = [] ∧
      (fbGet s.dev f).ssi ≠ 1 ∧ gf s.dev (FB.FCTL f) FB.FCTL_EN = 1) ∧
    (∃ (s : State) (f : Fin 24) (a : ResSt) (b : ResSt), s.pwr.root = true ∧ fbSc s.dev f = true ∧ fbState s.dev f = 2 ∧
      fbHalf s.dev f FB.FSC_SCONV FB.FSC_SSEQ FB.FSC_SENT = some a ∧
      fbHalf s.dev f FB.FSC_CCONV FB.FSC_CSEQ FB.FSC_CENT = some b ∧ (fbGet s.dev f).pair ≠ some (a.inst, b.inst) ∧
      max a.inst b.inst - min a.inst b.inst ≤ 96 ∧ (a.void || b.void) = true ∧ rd s.dev (FB.FSUP f) &&& 0x1FFF = 0) ∧
    (∃ (s : State) (f : Fin 24) (a : ResSt) (b : ResSt) (S : Int) (C : Int) (delta : Int) (pos : Nat), s.pwr.root = true ∧
      fbSc s.dev f = true ∧ fbState s.dev f = 2 ∧ fbHalf s.dev f FB.FSC_SCONV FB.FSC_SSEQ FB.FSC_SENT = some a ∧
      fbHalf s.dev f FB.FSC_CCONV FB.FSC_CSEQ FB.FSC_CENT = some b ∧ (fbGet s.dev f).pair ≠ some (a.inst, b.inst) ∧
      max a.inst b.inst - min a.inst b.inst ≤ 96 ∧ a.void = false ∧ b.void = false ∧ rd s.dev (FB.FSUP f) &&& 0x1FFF = 0 ∧
      S = fbSigned s.dev f (sint a.w / 65536 - fgetS FB.FSCOFS_SOFS (rd s.dev (FB.FSCOFS f))) ∧
      C = sint b.w / 65536 - fgetS FB.FSCOFS_COFS (rd s.dev (FB.FSCOFS f)) ∧
      pos = (fbPosAt s.dev f (max a.inst b.inst)).toNat ∧
      delta = (((fineAngle s.dev S C).1 : Int) - 1024 * ((pos / 1024 % 4 : Nat) : Int) + 2048) % 4096 - 2048 ∧
      -1024 ≤ delta ∧ (32768 * gf s.dev (FB.FSC f) FB.FSC_AMIN : Int) ^ 2 ≤ (S * S + C * C) * 65536 ∧
      (S * S + C * C) * 65536 ≤ (32768 * gf s.dev (FB.FSC f) FB.FSC_AMAX : Int) ^ 2 ∧
      ((fbGet s.dev f).log.filter (fun e => e.2.2 && decide (max a.inst b.inst < e.1))).length ≤ 4) :=
  ⟨⟨on fun d => sf d (FB.FSTAT 23) FB.FSTAT_STATE 1, 23, by decide⟩,
   ⟨on fun d => sf d (FB.FSTAT 23) FB.FSTAT_STATE 3, 23, by decide⟩,
   ⟨on fun d => sf (sf d (FB.FSTAT 23) FB.FSTAT_STATE 3) (FB.FCTL 23) FB.FCTL_EN 1, 23, by decide⟩,
   ⟨on fun d => { sf (sf (fbRun 0 d) (FB.FCFG 0) FB.FCFG_MODE 3) (FB.FSC 0) FB.FSC_CENT 1 with adc := [(0, { res := [(0, ⟨0, true, 0, 0, false⟩), (1, half0 0)] })] },
      0, ⟨0, true, 0, 0, false⟩, half0 0, by decide⟩,
   ⟨on fun d => { sf (sf (fbRun 0 d) (FB.FCFG 0) FB.FCFG_MODE 3) (FB.FSC 0) FB.FSC_CENT 1 with adc := [(0, { res := [(0, half0 0), (1, half0 0x40000000)] })] },
      0, half0 0, half0 0x40000000, 0, 16384, 0, 0, by decide⟩⟩

theorem witness_TriadCountsAndUpdates :
    (∃ (s : State) (t : Fin 16) (k : Nat), s.pwr.root = true ∧ (triGet s.dev t).run = true ∧ triToStart s.dev t = some k ∧
      triState s.dev t ≠ 3) ∧
    (∃ (s : State) (t : Fin 16) (k : Nat), s.pwr.root = true ∧ (triGet s.dev t).run = true ∧ triToStart s.dev t = some k ∧
      triState s.dev t = 3) ∧
    (∃ (s : State) (t : Fin 16) (k : Nat), s.pwr.root = true ∧ (triGet s.dev t).run = true ∧ triToCentre s.dev t = some k ∧
      s.dev.now ≤ (triGet s.dev t).t0 + k * triClk s.dev t) ∧
    (∃ (s : State) (t : Fin 16), s.pwr.root = true ∧ triState s.dev t = 1) ∧
    (∃ (s : State) (t : Fin 16), s.pwr.root = true ∧ triState s.dev t = 3 ∧ (triGet s.dev t).run = false) :=
  ⟨⟨on fun d => { d with tri := [(15, { run := true, top := 5 })] }, 15, 6, by decide⟩,
   ⟨on fun d => triSetState { d with tri := [(15, { run := true, top := 5 })] } 15 3, 15, 6, by decide⟩,
   ⟨on fun d => { d with tri := [(15, { run := true, top := 5, cfg := 1 })] }, 15, 5, by decide⟩,
   ⟨on fun d => triSetState d 15 1, 15, by decide⟩,
   ⟨on fun d => triSetState d 15 3, 15, by decide⟩⟩

theorem witness_LegsNeverShootThrough :
    ∃ (s : State) (t : Fin 16) (j : Fin 3), s.pwr.root = true ∧ LegInv s.dev t j :=
  ⟨live, 0, 0, ⟨rfl, by decide, fun _ h => absurd h (by simp [show (legGet live.dev 0 0).wait = none by decide]),
      fun _ h => absurd h (by simp [show (legGet live.dev 0 0).wait = none by decide]),
      fun _ h => absurd h (by simp [show (legGet live.dev 0 0).low = none by decide])⟩⟩

theorem witness_SafeStatesAreEntered :
    (∃ (s : State) (k : Fin 8), s.pwr.root = true ∧ tripLine s.dev k = true) ∧
    (∃ (s : State) (t : Fin 16), s.pwr.root = true ∧ gateOpen s.dev 11 = true) ∧
    (∃ (s : State) (v : Word), s.pwr.root = true ∧ gateOpen s.dev 10 = true) ∧
    (∃ (s : State) (t : Fin 16) (o : Nat) (v : Word) (r : Reg) (m : Word), s.pwr.root = true ∧ gateOpen s.dev 11 = true ∧
      o < 0x400 ∧ triTicked s.dev t o v = some (r, m, false)) :=
  ⟨⟨on fun d => wr d RIND.RILAT 0x80, 7, by decide⟩,
   ⟨live, 0, by decide⟩,
   ⟨live, 0, by decide⟩,
   ⟨live, 15, 4, 0, TRIAD.TCTL 15, 1, by decide⟩⟩

theorem witness_WindowsLatchAndClear :
    (∃ (s : State) (w : Fin 48) (hi : Bool), s.pwr.root = true ∧ winState s.dev w = 2 ∧
      gf s.dev (RIND.WCFG w) (if hi then RIND.WCFG_HIEN else RIND.WCFG_LOEN) = 1 ∧
      bitOf s.dev (RIND.WSTAT w) (if hi then 1 else 0) = false) ∧
    (∃ (s : State) (w : Fin 48) (hi : Bool), s.pwr.root = true) ∧
    (∃ (s : State) (w : Fin 48) (v : Word), s.pwr.root = true ∧ gateOpen s.dev 10 = true ∧
      gf s.dev (RIND.WCFG w) RIND.WCFG_CLR = 0) ∧
    (∃ (s : State) (w : Fin 48), s.pwr.root = true ∧ winState s.dev w = 1) ∧
    (∃ (s : State) (w : Fin 48), s.pwr.root = true ∧ winState s.dev w = 3) ∧
    (∃ (s : State) (w : Fin 48) (t : Nat), s.pwr.root = true ∧ (winGet s.dev w).hold = some t) ∧
    (∃ (s : State) (code : BitVec 3) (pip : BitVec 9) (k : Fin 8), s.pwr.root = true ∧ pip.toNat ≠ ownPip s.dev) ∧
    (∃ (s : State) (o : Nat) (v : Word) (r : Reg) (m : Word), s.pwr.root = true ∧ gateOpen s.dev 10 = true ∧ o < 0x800 ∧
      rindTicked o v = some (r, m, false)) :=
  ⟨⟨on fun d => sf (sf d (RIND.WSTAT 47) RIND.WSTAT_STATE 2) (RIND.WCFG 47) RIND.WCFG_HIEN 1, 47, true, by decide⟩,
   ⟨live, 0, false, by decide⟩,
   ⟨live, 0, 0, by decide⟩,
   ⟨on fun d => sf d (RIND.WSTAT 47) RIND.WSTAT_STATE 1, 47, by decide⟩,
   ⟨on fun d => sf d (RIND.WSTAT 47) RIND.WSTAT_STATE 3, 47, by decide⟩,
   ⟨on fun d => { d with win := [(47, { hold := some 9 })] }, 47, 9, by decide⟩,
   ⟨live, 0, 511, 0, by decide⟩,
   ⟨live, 0x0C, 0, RIND.RXEXP, 0xFF, by decide⟩⟩

theorem witness_LoopEngineHook :
    (∃ (s : State) (n : Fin 16) (x : LeSet), s.pwr.root = true ∧ (leGet s.dev n).comp = some x ∧ x.stage = 0 ∧
      fget LE.LCTL_DRIVE (x.reg (LE.LCTL n)) = 1) ∧
    (∃ (s : State) (n : Fin 16) (x : LeSet) (v : Word), s.pwr.root = true ∧ gateOpen s.dev 13 = true ∧
      (leGet s.dev n).comp = some x ∧ x.stage = 1 ∧ s.dev.now ≤ leDeadline s.dev n x ∧ v.getLsbD 0 = true ∧
      fget LE.LHCMD_SEQ v = gf s.dev (LE.LHSEQ n) LE.LHSEQ_SEQ) ∧
    (∃ (s : State) (n : Fin 16) (v : Word), s.pwr.root = true ∧ gateOpen s.dev 13 = true ∧ (leGet s.dev n).comp = none ∧
      v.getLsbD 0 = true) ∧
    (∃ (s : State) (n : Fin 16) (x : LeSet), s.pwr.root = true ∧ (leGet s.dev n).comp = some x ∧ x.stage = 1) :=
  ⟨⟨le0 { set0 with cfg := [((LE.LCTL 0).addr, fset LE.LCTL_DRIVE 0 1)] }, 0,
      { set0 with cfg := [((LE.LCTL 0).addr, fset LE.LCTL_DRIVE 0 1)] }, by decide⟩,
   ⟨le0 { set0 with stage := 1 }, 0, { set0 with stage := 1 }, 1, by decide⟩,
   ⟨live, 15, 1, by decide⟩,
   ⟨le0 { set0 with stage := 1 }, 0, { set0 with stage := 1 }, by decide⟩⟩

theorem witness_LoopEngineShadowsAndCommands :
    (∃ (s : State) (n : Fin 16) (x : LeSet), s.pwr.root = true ∧ (leGet s.dev n).comp = some x ∧ x.stage = 2) ∧
    (∃ (s : State) (n : Fin 16), s.pwr.root = true ∧ gateOpen s.dev 13 = true) ∧
    (∃ (s : State) (n : Fin 16), s.pwr.root = true ∧ gateOpen s.dev 13 = true ∧ leCause s.dev n = false) ∧
    (∃ (s : State) (n : Fin 16), s.pwr.root = true ∧ leCause s.dev n = true) ∧
    (∃ (s : State) (n : Fin 16), s.pwr.root = true ∧ leState s.dev n = 1 ∧ leDrive s.dev n = false) ∧
    (∃ (s : State) (n : Fin 16), s.pwr.root = true ∧ leState s.dev n = 3 ∧ (leGet s.dev n).comp = none) ∧
    (∃ (s : State) (n : Fin 16) (o : Nat) (v : Word) (r : Reg) (m : Word) (q : Bool), s.pwr.root = true ∧
      gateOpen s.dev 13 = true ∧ o < 0x400 ∧ leTicked n o v = some (r, m, false, q)) :=
  ⟨⟨le0 { set0 with stage := 2 }, 0, { set0 with stage := 2 }, by decide⟩,
   ⟨live, 0, by decide⟩,
   ⟨live, 0, by decide⟩,
   ⟨on fun d => setBit d (LE.LSTAT 15) 27 true, 15, by decide⟩,
   ⟨on fun d => leSetState d 15 1, 15, by decide⟩,
   ⟨on fun d => leSetState d 15 3, 15, by decide⟩,
   ⟨live, 15, 0, 0, LE.LCTL 15, 3, false, by decide⟩⟩

theorem witness_CrossbarDeliversOnce :
    ∃ (s : State) (n : Fin 8) (mon : Bool) (i : Fin 16) (r : ResSt), s.pwr.root = true ∧
      find (adcGet s.dev n).res ((if mon then 16 else 0) + i) = some r ∧ r.xbar = true :=
  ⟨on fun d => { d with adc := [(7, { res := [(31, ⟨0, false, 0, 0, true⟩)] })] }, 7, true, 15, ⟨0, false, 0, 0, true⟩,
      by decide⟩

theorem witness_LanesFeedContexts :
    (∃ (s : State) (c : Fin 128) (x : Word), s.pwr.root = true ∧ laneActive s.dev c = true ∧ gateOpen s.dev 14 = true ∧
      2 * gf s.dev (PRESS.LNCFG c) PRESS.LNCFG_MC ≤ (look s.dev.lane c {}).n ∧ s.dev.jobs = []) ∧
    (∃ (s : State) (c : Fin 1024), s.pwr.root = true ∧ ctxState s.dev c = 1 ∧ ctxSusp s.dev c = false ∧
      32 ≤ (ctxGet s.dev c).nOut ∧ ((ctxOrder s.dev c = false ∨ (ctxGet s.dev c).grid.got = true))) :=
  ⟨⟨on fun d => { sf (sf (adcSetState d 0 2) (ADC.AMSEQ 0) ADC.AMSEQ_LEN 1) (ADC.MENT 0 0) ADC.CENT_PRESS 1 with lane := [(0, { n := 2 * gf d (PRESS.LNCFG 0) PRESS.LNCFG_MC })] },
      0, 0, by decide⟩,
   ⟨on fun d => { sf d (CTX.CSTAT 1023) CTX.CSTAT_STATE 1 with ctx := [(1023, { nOut := 32 })] }, 1023, by decide⟩⟩

theorem witness_OrderTargetsAndBlocks :
    (∃ (s : State) (f : Fin 24) (it : AngItem) (l : List AngItem), s.pwr.root = true ∧ (fbGet s.dev f).items = it :: l) ∧
    (∃ (s : State) (c : Fin 1024) (t : Target) (l : List Target), s.pwr.root = true ∧ (ctxGet s.dev c).grid.tgts = t :: l ∧
      ctxState s.dev c = 2 ∧ ctxSusp s.dev c = false ∧
      16 ≤ ((ctxGet s.dev c).strm.filter (fun x => decide (t.t < x.t))).length ∧ ((∀ j ∈ s.dev.jobs, j.ctx = c.val →
      j.pass ≠ 0)) ∧ (((ctxGet s.dev c).blk ≠ [] ∨ ctxOrder s.dev c = false ∨ t.j % ctxNr s.dev c = 0))) ∧
    (∃ (s : State) (c : Fin 1024), s.pwr.root = true ∧ ctxState s.dev c = 2 ∧ ctxSusp s.dev c = false ∧
      blkLen (rd s.dev (CTX.CPATH c)) ≤ (ctxGet s.dev c).blk.length ∧ s.dev.jobs = [] ∧ s.dev.eng = [] ∧
      gf s.dev (CTX.CCTL c) CTX.CCTL_CLASS = 0 ∧ gf s.dev (CTX.CPATH c) CTX.CPATH_RTRIG = 0) :=
  ⟨⟨on fun d => { d with fb := [(23, { items := [⟨0, 0, 0, 0⟩] })] }, 23, ⟨0, 0, 0, 0⟩, [], by decide⟩,
   ⟨on fun d => { sf d (CTX.CSTAT 0) CTX.CSTAT_STATE 2 with ctx := [(0, { strm := (List.range 16).map (fun i => { x := 0, t := i + 1 }), grid := { tgts := [⟨0, 0, 1, 1, false, false⟩] } })] },
      0, ⟨0, 0, 1, 1, false, false⟩, [], by decide⟩,
   ⟨on fun d => { sf d (CTX.CSTAT 0) CTX.CSTAT_STATE 2 with ctx := [(0, { blk := List.replicate 256 { x := 0, t := 0 } })] },
      0, by decide +kernel⟩⟩

theorem witness_FftEnginesAdvanceJobs :
    (∃ (s : State) (u : Fin 2) (j : Job) (t : Nat), s.pwr.root = true ∧ engJob s.dev u = some (j, t) ∧ jobLast j = false) ∧
    (∃ (s : State) (u : Fin 2) (j : Job) (t : Nat), s.pwr.root = true ∧ engJob s.dev u = some (j, t) ∧ jobLast j = true ∧
      j.avgNo = 0) ∧
    (∃ (s : State) (u : Fin 2) (j : Job) (t : Nat), s.pwr.root = true ∧ engJob s.dev u = some (j, t) ∧ jobLast j = true) :=
  ⟨⟨on fun d => { d with jobs := [job0], eng := [(0, 0, 0)] }, 0, job0, 0, by decide⟩,
   ⟨on fun d => { d with jobs := [{ job0 with pass := 6 }], eng := [(0, 0, 0)] }, 0, { job0 with pass := 6 }, 0, by decide⟩,
   ⟨on fun d => { d with jobs := [{ job0 with pass := 6 }], eng := [(0, 0, 0)] }, 0, { job0 with pass := 6 }, 0, by decide⟩⟩

theorem witness_PressConfigurationIsPending :
    (∃ (s : State) (a : Nat) (c : Nat) (o : Nat) (v : Word), s.pwr.root = true ∧ gateOpen s.dev 14 = true ∧
      ctxAddr a = some (c, o) ∧ ctxMask o ≠ 0 ∧ ctxWordBad o v = false) ∧
    (∃ (s : State) (a : Nat) (c : Nat) (o : Nat) (v : Word), s.pwr.root = true ∧ gateOpen s.dev 14 = true ∧
      ctxAddr a = some (c, o) ∧ ctxMask o ≠ 0 ∧ ctxWordBad o v = true) ∧
    (∃ (s : State) (c : Fin 128) (v : Word), s.pwr.root = true ∧ gateOpen s.dev 14 = true ∧ 2 ≤ fget PRESS.LNCFG_MC v ∧
      fget PRESS.LNCFG_MC v ≤ 1024) ∧
    (∃ (s : State) (o : Nat) (v : Word) (r : Reg) (m : Word), s.pwr.root = true ∧ gateOpen s.dev 14 = true ∧ o < 0x800 ∧
      poutTicked s.dev o v = some (r, m, false)) :=
  ⟨⟨live, 0x4027FF00, 1023, 0, 1, by decide⟩,
   ⟨live, 0x4027FF00, 1023, 0, 0, by decide⟩,
   ⟨live, 127, fset PRESS.LNCFG_MC 0 1024, by decide⟩,
   ⟨live, 0x0C, 0, POUT.PRCK, 0x80000007, by decide⟩⟩

theorem witness_ResultsSpillAndSnapshotsCopy :
    (∃ (s : State) (r : OqRes) (l : List OqRes), s.pwr.root = true ∧ hostUp s.dev = false ∧
      gf s.dev POUT.SPLEN POUT.SPLEN_LEN ≠ 0 ∧ ddrRunning s.dev = true ∧ s.dev.oq = r :: l) ∧
    (∃ (st : State) (s : Fin 16), st.pwr.root = true ∧ gf st.dev (POUT.SNCFG s) POUT.SNCFG_EN = 1 ∧
      gf st.dev (POUT.SNCFG s) POUT.SNCFG_SCHED = 1 ∧ atOrPast (tnoLow st.dev) (rd st.dev (POUT.SNNEXT s)) = true ∧
      ((∀ x ∈ st.dev.snWait, x.sdef ≠ s.val)) ∧ st.dev.snWait.length < 4) ∧
    (∃ (st : State) (s : Fin 16) (x : SnapSt), st.pwr.root = true ∧ st.dev.snWait.find? (fun y => y.sdef = s.val) = some x ∧
      st.dev.snCopy = none ∧ st.dev.snHeld = [] ∧ st.dev.snReady = [] ∧ x.lanes.all (snReached st.dev x) = true ∧
      ddrRunning st.dev = true) ∧
    (∃ (s : State) (x : SnapSt), s.pwr.root = true ∧ s.dev.snCopy = some x) :=
  ⟨⟨on fun d => { sf (sf d DDRC.DSTAT DDRC.DSTAT_STATE 2) POUT.SPLEN POUT.SPLEN_LEN 1 with oq := [⟨0, [[]]⟩] }, ⟨0, [[]]⟩,
      [], by decide⟩,
   ⟨on fun d => sf (sf d (POUT.SNCFG 15) POUT.SNCFG_EN 1) (POUT.SNCFG 15) POUT.SNCFG_SCHED 1, 15, by decide⟩,
   ⟨on fun d => { sf d DDRC.DSTAT DDRC.DSTAT_STATE 2 with snWait := [snap0] }, 0, snap0, by decide⟩,
   ⟨on fun d => { d with snCopy := some snap0 }, snap0, by decide⟩⟩

theorem witness_DataInstructionsComplete :
    (∃ (s : State) (c : Fin 8) (i : Insn) (cmd : Instr) (f : Form) (g : Dev → List (Nat × Src) →
      Try Result) (d : Dev) (rs : List Role) (ls : List Loc) (xs : List Src) (r : Result), s.pwr.root = true ∧ (cmd, f,
      g) ∈ dataOps c i ∧ d = blkClear s.dev c ∧ Ready s.dev c i ∧ legalRoles d c f i = some rs ∧ Operands d c rs i ls xs ∧
      g d (sources rs ls xs) = .ok r ∧ trapOf d c r.ieee = none ∧ ((∀ q ∈ pick isDst rs ls, ∃ z : Nat, q.2 = .slot z))) ∧
    (∃ (s : State) (c : Fin 8) (i : Insn) (cmd : Instr) (f : Form) (g : Dev → List (Nat × Src) →
      Try Result) (d : Dev) (rs : List Role) (ls : List Loc) (xs : List Src) (r : Result) (k : Nat) (a : Nat) (t : TWord),
      s.pwr.root = true ∧ (cmd, f, g) ∈ dataOps c i ∧ d = blkClear s.dev c ∧ Ready s.dev c i ∧
      legalRoles d c f i = some rs ∧ Operands d c rs i ls xs ∧ g d (sources rs ls xs) = .ok r ∧ trapOf d c r.ieee = none ∧
      pick isDst rs ls = [(k, .mem a)] ∧ r.outs = [t] ∧ inSram a = true ∧ frameFind (coreGet d c) a = none ∧
      (coreGet d c).sb.length < 4) :=
  ⟨⟨cpuOn [⟨.int, 3⟩, ⟨.int, 4⟩], 0, ⟨0, 0, [.frame 2, .frame 1, .frame 0]⟩, .add 0 ⟨0, 0, [.frame 2, .frame 1, .frame 0]⟩,
      form23 [0, 1, 2], binary (aluAdd 0), (cpuOn [⟨.int, 3⟩, ⟨.int, 4⟩]).dev, [.dst, .src, .src], [.slot 2, .slot 1,
      .slot 0], [(some .int, 4), (some .int, 3)], { outs := [⟨.int, 7⟩] }, ⟨by decide +kernel, .tail _ (.head _),
      by decide +kernel, ⟨by decide +kernel, by decide +kernel⟩, by decide +kernel, ⟨eq_of_okIs (by decide +kernel),
      eq_of_okIs (by decide +kernel)⟩, rfl, by decide +kernel, by simp [pick, isDst]⟩⟩,
   ⟨cpuOn [⟨.int, 3⟩, ⟨.int, 4⟩], 0, ⟨0, 0, [.absolute 0x10000040, .frame 1, .frame 0]⟩, .add 0 ⟨0, 0,
      [.absolute 0x10000040, .frame 1, .frame 0]⟩, form23 [0, 1, 2], binary (aluAdd 0), (cpuOn [⟨.int, 3⟩, ⟨.int, 4⟩]).dev,
      [.dst, .src, .src], [.mem 0x10000040, .slot 1, .slot 0], [(some .int, 4), (some .int, 3)], { outs := [⟨.int, 7⟩] }, 0,
      0x10000040, ⟨.int, 7⟩, ⟨by decide +kernel, .tail _ (.head _), by decide +kernel, ⟨by decide +kernel,
      by decide +kernel⟩, by decide +kernel, ⟨eq_of_okIs (by decide +kernel), eq_of_okIs (by decide +kernel)⟩, rfl,
      by decide +kernel, by decide +kernel, by decide +kernel, by decide +kernel, by decide +kernel, by decide +kernel⟩⟩⟩

theorem witness_ArithmeticByTag :
    (∃ (v : Nat) (a : Word) (b : Word), -(2 ^ 31) ≤ a.toInt + b.toInt ∧ a.toInt + b.toInt < 2 ^ 31) ∧
    (∃ (a : Word) (b : Word), 2 ^ 31 ≤ a.toInt + b.toInt) ∧
    (∃ (a : Word) (b : Word), a.toNat < b.toNat) ∧
    (∃ (v : Nat) (a : Word) (b : Word) (x : Word), a.toInt * b.toInt < 2 ^ 62 ∧
      x.toInt = (a.toInt * b.toInt + 2 ^ 30) / 2 ^ 31) ∧
    (∃ (v : Nat) (a : Word) (b : Word), b ≠ 0 ∧ a ≠ 0x80000000) ∧
    (∃ (v : Nat) (a : Word), 0 < a.toInt) ∧
    (∃ (v : Nat) (a : Word), a.toInt < 0) :=
  ⟨⟨0, 0, 0, by decide⟩,
   ⟨0x7FFFFFFF, 1, by decide⟩,
   ⟨0, 1, by decide⟩,
   ⟨0, 0, 0, 0, by decide⟩,
   ⟨0, 0, 0xFFFFFFFF, by decide⟩,
   ⟨0, 1, by decide⟩,
   ⟨0, 0x80000000, by decide⟩⟩

theorem witness_LoadsStoresAndOrdering :
    (∃ (s : State) (c : Fin 8) (i : Insn) (d : Dev) (z : Fin 64) (a : Word), s.pwr.root = true ∧ d = blkClear s.dev c ∧
      Ready s.dev c i ∧ paired d (c / 2) = false ∧ i.v = 0 ∧ i.x = 0 ∧ i.ops = [.frame z, .absolute a] ∧
      inSram a.toNat = true ∧ accessOk d c 1 a.toNat 0 = .ok () ∧ look d.ecc (a.toNat / 4) 0 = 0 ∧
      l1On d c a.toNat = false ∧ frameFind (coreGet d c) a.toNat = none ∧ sbMeets (coreGet d c) a.toNat = false ∧
      plainSrc 1 (rdTW d a.toNat) = .ok ()) ∧
    (∃ (s : State) (c : Fin 8) (i : Insn) (d : Dev) (z : Fin 64) (b : Fin 64) (a : Word) (t : TWord), s.pwr.root = true ∧
      d = blkClear s.dev c ∧ Ready s.dev c i ∧ i.v = 0 ∧ i.x = 0 ∧ i.ops = [.frame z, .postInc b] ∧ slotGet d c b = ⟨.addr,
      a⟩ ∧ accessOk d c 1 a.toNat 0 = .ok () ∧ portRead d c a.toNat = (d, .ok t) ∧ a.toNat ≠ fp d c + 4 * b ∧
      plainSrc 1 t = .ok ()) ∧
    (∃ (s : State) (c : Fin 8) (a : Nat) (t : TWord) (l : List (Nat × TWord)), s.pwr.root = true ∧
      (coreGet s.dev c).sb = (a, t) :: l ∧ inSram a = true ∧ a % 4 = 0) ∧
    (∃ (s : State) (c : Fin 8), s.pwr.root = true ∧ (coreGet s.dev c).sb = []) ∧
    (∃ (s : State) (c : Fin 8) (i : Insn) (d : Dev), s.pwr.root = true ∧ d = blkClear s.dev c ∧ Ready s.dev c i ∧ i.v = 0 ∧
      i.x = 0 ∧ i.ops = []) :=
  ⟨⟨cpuMem [] [(0x10000040, tBits 5)], 0, ⟨0, 0, [.frame 63, .absolute 0x10000040]⟩, (cpuMem [] [(0x10000040,
      tBits 5)]).dev, 63, 0x10000040, ⟨by decide +kernel, by decide +kernel, ⟨by decide +kernel, by decide +kernel⟩,
      by decide +kernel, by decide +kernel, by decide +kernel, by decide +kernel, by decide +kernel, rfl, by decide +kernel,
      by decide +kernel, by decide +kernel, by decide +kernel, rfl⟩⟩,
   ⟨cpuMem [tVoid, tAddr 0x10000040] [(0x10000040, tBits 5)], 0, ⟨0, 0, [.frame 63, .postInc 1]⟩, (cpuMem [tVoid,
      tAddr 0x10000040] [(0x10000040, tBits 5)]).dev, 63, 1, 0x10000040, tBits 5, ⟨by decide +kernel, by decide +kernel,
      ⟨by decide +kernel, by decide +kernel⟩, by decide +kernel, by decide +kernel, by decide +kernel, by decide +kernel,
      rfl, eq_of_okIs (by decide +kernel), by decide +kernel, rfl⟩⟩,
   ⟨on fun d => cpu [] (fun x => { x with sb := [(0x10000004, tBits 5)] }) d, 0, 0x10000004, tBits 5, [], by decide⟩,
   ⟨live, 0, by decide⟩,
   ⟨cpuOn [], 0, ⟨0, 0, []⟩, (cpuOn []).dev, ⟨by decide +kernel, by decide +kernel, ⟨by decide +kernel, by decide +kernel⟩,
      by decide +kernel, by decide +kernel, by decide +kernel⟩⟩⟩

theorem witness_FaultsEnterTheirHandler :
    (∃ (s : State) (c : Fin 8) (i : Insn) (cmd : Instr) (f : Form) (g : Dev → List (Nat × Src) →
      Try Result) (d : Dev) (b : Nat), s.pwr.root = true ∧ (cmd, f, g) ∈ dataOps c i ∧ d = blkClear s.dev c ∧
      coreFree s.dev c = true ∧ CanEnter d c 3 ∧ mpuBad d c (privN d c) 2 (coreGet d c).pc.toNat (insnLen i) = some b) ∧
    (∃ (s : State) (c : Fin 8) (i : Insn) (cmd : Instr) (f : Form) (g : Dev → List (Nat × Src) → Try Result) (d : Dev),
      s.pwr.root = true ∧ (cmd, f, g) ∈ dataOps c i ∧ d = blkClear s.dev c ∧ Ready s.dev c i ∧ legalRoles d c f i = none ∧
      CanEnter d c 0) ∧
    (∃ (s : State) (c : Fin 8) (i : Insn) (cmd : Instr) (f : Form) (g : Dev → List (Nat × Src) →
      Try Result) (d : Dev) (rs : List Role) (ls : List Loc) (xs : List Src) (k : Nat) (code : Nat) (o : Nat) (fa : Nat),
      s.pwr.root = true ∧ (cmd, f, g) ∈ dataOps c i ∧ d = blkClear s.dev c ∧ Ready s.dev c i ∧
      legalRoles d c f i = some rs ∧ Operands d c rs i ls xs ∧ g d (sources rs ls xs) = .error (.exc k code o fa) ∧ k < 16 ∧
      CanEnter d c k) ∧
    (∃ (s : State) (c : Fin 8) (i : Insn) (cmd : Instr) (f : Form) (g : Dev → List (Nat × Src) →
      Try Result) (d : Dev) (rs : List Role) (ls : List Loc) (xs : List Src) (r : Result) (b : Nat), s.pwr.root = true ∧
      (cmd, f, g) ∈ dataOps c i ∧ d = blkClear s.dev c ∧ Ready s.dev c i ∧ legalRoles d c f i = some rs ∧
      Operands d c rs i ls xs ∧ g d (sources rs ls xs) = .ok r ∧ trapOf d c r.ieee = some b ∧ CanEnter d c 9) ∧
    (∃ (s : State) (c : Fin 8) (i : Insn) (d : Dev) (t : Nat) (n : Nat), s.pwr.root = true ∧ d = blkClear s.dev c ∧
      Ready s.dev c i ∧ (legalRoles d c (immForm i) i).isSome = true ∧ immOf i = some (t, n) ∧ CanEnter d c 13) :=
  ⟨⟨on fun _ => wr (wr (sf (excOn 3 []).dev (CORE.MPUCTL 0) CORE.MPUCTL_MCHK 1) (CORE.MPUATTR 0 0) 0x118) (CORE.MPULIM 0 0) 0xFFFFFFFF,
      0, ⟨0, 0, [.frame 2, .frame 1, .frame 0]⟩, .add 0 ⟨0, 0, [.frame 2, .frame 1, .frame 0]⟩, form23 [0, 1, 2],
      binary (aluAdd 0),
      (on fun _ => wr (wr (sf (excOn 3 []).dev (CORE.MPUCTL 0) CORE.MPUCTL_MCHK 1) (CORE.MPUATTR 0 0) 0x118) (CORE.MPULIM 0 0) 0xFFFFFFFF).dev,
      0x10000000, ⟨by decide +kernel, .tail _ (.head _), by decide +kernel, by decide +kernel, ⟨by decide +kernel,
      by decide +kernel, by decide +kernel⟩, by decide +kernel⟩⟩,
   ⟨excOn 0 [], 0, ⟨0, 0, []⟩, .add 0 ⟨0, 0, []⟩, form23 [0, 1, 2], binary (aluAdd 0), (excOn 0 []).dev,
      ⟨by decide +kernel, .tail _ (.head _), by decide +kernel, ⟨by decide +kernel, by decide +kernel⟩, by decide +kernel,
      ⟨by decide +kernel, by decide +kernel, by decide +kernel⟩⟩⟩,
   ⟨excOn 1 [], 0, ⟨0, 0, [.frame 2, .frame 1, .frame 0]⟩, .add 0 ⟨0, 0, [.frame 2, .frame 1, .frame 0]⟩, form23 [0, 1, 2],
      binary (aluAdd 0), (excOn 1 []).dev, [.dst, .src, .src], [.slot 2, .slot 1, .slot 0], [(some .void, 0), (some .void,
      0)], 1, 1, 1, 0, ⟨by decide +kernel, .tail _ (.head _), by decide +kernel, ⟨by decide +kernel, by decide +kernel⟩,
      by decide +kernel, ⟨eq_of_okIs (by decide +kernel), eq_of_okIs (by decide +kernel)⟩, rfl, by decide +kernel,
      ⟨by decide +kernel, by decide +kernel, by decide +kernel⟩⟩⟩,
   ⟨on fun _ => wr (excOn 9 [⟨.real, 0⟩, ⟨.real, 0x3F800000⟩]).dev (CORE.FPTRAP 0) 0x1F, 0, ⟨0, 0, [.frame 2, .frame 1,
      .frame 0]⟩, .div 0 ⟨0, 0, [.frame 2, .frame 1, .frame 0]⟩, form23 [0, 1, 2] (some 0), binary (aluDiv 0),
      (on fun _ => wr (excOn 9 [⟨.real, 0⟩, ⟨.real, 0x3F800000⟩]).dev (CORE.FPTRAP 0) 0x1F).dev, [.dst, .src, .src],
      [.slot 2, .slot 1, .slot 0], [(some .real, 0x3F800000), (some .real, 0)],
      { outs := [⟨.real, 0x7F800000⟩], ieee := fDZ }, 1, ⟨by decide +kernel,
      .tail _ (.tail _ (.tail _ (.tail _ (.tail _ (.head _))))), by decide +kernel, ⟨by decide +kernel, by decide +kernel⟩,
      by decide +kernel, ⟨rfl, rfl⟩, rfl, by decide +kernel, ⟨by decide +kernel, by decide +kernel, by decide +kernel⟩⟩⟩,
   ⟨excOn 13 [], 0, ⟨0, 0, [.immLong 2 255]⟩, (excOn 13 []).dev, 2, 255, ⟨by decide +kernel, by decide +kernel,
      ⟨by decide +kernel, by decide +kernel⟩, by decide +kernel, by decide +kernel, ⟨by decide +kernel, by decide +kernel,
      by decide +kernel⟩⟩⟩⟩

theorem witness_JumpsCallsAndReturns :
    (∃ (s : State) (c : Fin 8) (i : Insn) (d : Dev) (sp : Spec) (l : Loc) (t : Nat), s.pwr.root = true ∧
      d = blkClear s.dev c ∧ Ready s.dev c i ∧
      (legalRoles d c { roles := [[.target]], xs := fun x => x < 11 } i = some [.target]) ∧ i.ops = [sp] ∧
      formAll c 0 [(.target, sp)] [] d = (d, .ok ([l], [])) ∧ targetOf d c l = .ok t) ∧
    (∃ (s : State) (c : Fin 8) (i : Insn) (d : Dev) (sp : Spec) (l : Loc) (t : Nat) (a : Nat), s.pwr.root = true ∧
      d = blkClear s.dev c ∧ Ready s.dev c i ∧ legalRoles d c { roles := [[.target]] } i = some [.target] ∧ i.ops = [sp] ∧
      formAll c 0 [(.target, sp)] [] d = (d, .ok ([l], [])) ∧ targetOf d c l = .ok t ∧
      a = (fp d c + 2 ^ 32 - 256) % 2 ^ 32 ∧ frameOk d c (privN d c) a = .ok () ∧ ((∀ f ∈ (coreGet d c).frames, f.1 ≠ a)) ∧
      (coreGet d c).frames.length < 4) ∧
    (∃ (s : State) (c : Fin 8) (i : Insn) (d : Dev) (sp : Spec) (l : Loc) (t : Nat) (a : Nat) (b : Nat) (ws : List TWord) (fs : List (Nat × List TWord)),
      s.pwr.root = true ∧ d = blkClear s.dev c ∧ Ready s.dev c i ∧
      legalRoles d c { roles := [[.target]] } i = some [.target] ∧ i.ops = [sp] ∧ formAll c 0 [(.target, sp)] [] d = (d,
      .ok ([l], [])) ∧ targetOf d c l = .ok t ∧ a = (fp d c + 2 ^ 32 - 256) % 2 ^ 32 ∧ frameOk d c (privN d c) a = .ok () ∧
      ((∀ f ∈ (coreGet d c).frames, f.1 ≠ a)) ∧ (coreGet d c).frames = fs ++ [(b, ws)] ∧ fs.length = 3 ∧ ws.length = 64 ∧
      b % 4 = 0 ∧ ((∀ k : Nat, k < 64 → inSram (b + 4 * k) = true)) ∧ isFollower d c = false) ∧
    (∃ (s : State) (c : Fin 8) (i : Insn) (d : Dev) (t : Nat) (a : Nat) (f : Nat × List TWord) (g : Nat × List TWord) (fs : List (Nat × List TWord)),
      s.pwr.root = true ∧ d = blkClear s.dev c ∧ Ready s.dev c i ∧ i.v = 0 ∧ i.x = 0 ∧ i.ops = [] ∧
      targetOf d c (.slot 0) = .ok t ∧ a = (fp d c + 256) % 2 ^ 32 ∧ (coreGet d c).frames = f :: g :: fs ∧ g.1 = a) ∧
    (∃ (s : State) (c : Fin 8) (i : Insn) (d : Dev) (t : Nat) (a : Nat) (f : Nat × List TWord) (d2 : Dev) (ws : List TWord),
      s.pwr.root = true ∧ d = blkClear s.dev c ∧ Ready s.dev c i ∧ i.v = 0 ∧ i.x = 0 ∧ i.ops = [] ∧
      targetOf d c (.slot 0) = .ok t ∧ a = (fp d c + 256) % 2 ^ 32 ∧ (coreGet d c).frames = [f] ∧ frameRead c a 64 d = (d2,
      .ok ws)) :=
  ⟨⟨cpuOn [], 0, ⟨0, 0, [.absolute 0x10000800]⟩, (cpuOn []).dev, .absolute 0x10000800, .mem 0x10000800, 0x10000800,
      ⟨by decide +kernel, by decide +kernel, ⟨by decide +kernel, by decide +kernel⟩, by decide +kernel, by decide +kernel,
      eq_of_okIs (by decide +kernel), rfl⟩⟩,
   ⟨cpuOn [], 0, ⟨0, 0, [.absolute 0x10000800]⟩, (cpuOn []).dev, .absolute 0x10000800, .mem 0x10000800, 0x10000800,
      0x1000FF00, ⟨by decide +kernel, by decide +kernel, ⟨by decide +kernel, by decide +kernel⟩, by decide +kernel,
      by decide +kernel, eq_of_okIs (by decide +kernel), rfl, by decide +kernel, rfl, by decide +kernel, by decide +kernel⟩⟩,
   ⟨on fun d => cpu [] (fun x => { x with frames := framesOn 4 0x10010000 }) d, 0, ⟨0, 0, [.absolute 0x10000800]⟩,
      (on fun d => cpu [] (fun x => { x with frames := framesOn 4 0x10010000 }) d).dev, .absolute 0x10000800,
      .mem 0x10000800, 0x10000800, 0x1000FF00, 0x10010300, ws64 [tCode 0x10000100], framesOn 3 0x10010000,
      ⟨by decide +kernel, by decide +kernel, ⟨by decide +kernel, by decide +kernel⟩, by decide +kernel, by decide +kernel,
      eq_of_okIs (by decide +kernel), rfl, by decide +kernel, rfl, by decide +kernel, by decide +kernel, by decide +kernel,
      by decide +kernel, by decide +kernel, by decide +kernel, by decide +kernel⟩⟩,
   ⟨on fun d => cpu [] (fun x => { x with frames := framesOn 2 0x10010000 }) d, 0, ⟨0, 0, []⟩,
      (on fun d => cpu [] (fun x => { x with frames := framesOn 2 0x10010000 }) d).dev, 0x10000100, 0x10010100, (0x10010000,
      ws64 [tCode 0x10000100]), (0x10010100, ws64 [tCode 0x10000100]), [], ⟨by decide +kernel, by decide +kernel,
      ⟨by decide +kernel, by decide +kernel⟩, by decide +kernel, by decide +kernel, by decide +kernel, rfl,
      by decide +kernel, by decide +kernel, by decide +kernel⟩⟩,
   ⟨cpuOn [tCode 0x10000100], 0, ⟨0, 0, []⟩, (cpuOn [tCode 0x10000100]).dev, 0x10000100, 0x10010100, (0x10010000,
      ws64 [tCode 0x10000100]), (cpuOn [tCode 0x10000100]).dev, List.replicate 64 tVoid, ⟨by decide +kernel,
      by decide +kernel, ⟨by decide +kernel, by decide +kernel⟩, by decide +kernel, by decide +kernel, by decide +kernel,
      rfl, by decide +kernel, by decide +kernel, eq_of_okIs (by decide +kernel)⟩⟩⟩

theorem witness_HandlersReturnAndGatesCross :
    (∃ (s : State) (c : Fin 8) (i : Insn) (d : Dev) (set : Nat) (cp : Nat) (f : Nat × List TWord) (g : Nat × List TWord) (fs : List (Nat × List TWord)),
      s.pwr.root = true ∧ d = blkClear s.dev c ∧ Ready s.dev c i ∧ i.v = 0 ∧ i.x = 0 ∧ i.ops = [] ∧ retiSet d c = .ok (set,
      cp) ∧ (coreGet d c).wft = false ∧ (coreGet d c).frames = f :: g :: fs ∧ g.1 = (rd d (CORE.SSFP c set)).toNat ∧
      g.1 ≠ fp d c) ∧
    (∃ (s : State) (c : Fin 8) (i : Insn) (d : Dev) (t : Nat) (n : Nat) (l : Nat) (a : Nat) (g : Gate) (w1 : TWord) (w3 : TWord),
      s.pwr.root = true ∧ d = blkClear s.dev c ∧ Ready s.dev c i ∧ (legalRoles d c (immForm i) i).isSome = true ∧
      immOf i = some (t, n) ∧ ((t = 2 ∨ t = 15)) ∧ n < gf d (CORE.GTLEN c) CORE.GTLEN_LEN ∧
      portWords c 4 ((rd d (CORE.GTBASE c)).toNat + 16 * n) d = (d, .ok [g.entry, w1, g.stack, w3]) ∧ w1.w = g.w1 ∧
      w3.w = g.w3 ∧ g.w1.getLsbD 24 = true ∧ g.wf = true ∧ gateCheck d c g = .ok () ∧
      l = (gateStack d c g + 2 ^ 32 - 16) % 2 ^ 32 ∧ a = (l + 2 ^ 32 - 256) % 2 ^ 32 ∧ gateRoom d c g l = .ok () ∧
      ((∀ k : Nat, k < 4 → inSram ((l + 4 * k) % 2 ^ 32) = true ∧ frameFind (coreGet d c) ((l + 4 * k) % 2 ^ 32) = none)) ∧
      (coreGet d c).sb = [] ∧ (coreGet d c).l1 = [] ∧ (coreGet d c).frames.length < 4 ∧ ((∀ f ∈ (coreGet d c).frames,
      f.1 ≠ a))) ∧
    (∃ (s : State) (c : Fin 8) (i : Insn) (d : Dev) (t : Nat) (w0 : TWord) (w1 : TWord) (w2 : TWord) (w3 : TWord) (f : Nat × List TWord) (g : Nat × List TWord) (fs : List (Nat × List TWord)),
      s.pwr.root = true ∧ d = blkClear s.dev c ∧ Ready s.dev c i ∧ i.v = 0 ∧ i.x = 0 ∧ i.ops = [] ∧
      portWords c 4 (fp d c + 256) d = (d, .ok [w0, w1, w2, w3]) ∧ w0.tag = .addr ∧ ((w1.tag = .addr ∨ w1.tag = .void)) ∧
      w2.tag = .bits ∧ w3.tag = .bits ∧ privN d c ≤ fget stPriv w2.w ∧ targetOf d c (.slot 0) = .ok t ∧
      (coreGet d c).frames = f :: g :: fs ∧ g.1 = w0.w.toNat ∧ g.1 ≠ fp d c) :=
  ⟨⟨on fun d => wr (cpu [] (fun x => { x with frames := framesOn 2 0x10010000 }) d) (CORE.SSFP 0 0) 0x10010100, 0, ⟨0, 0,
      []⟩, (on fun d => wr (cpu [] (fun x => { x with frames := framesOn 2 0x10010000 }) d) (CORE.SSFP 0 0) 0x10010100).dev,
      0, 0, (0x10010000, ws64 [tCode 0x10000100]), (0x10010100, ws64 [tCode 0x10000100]), [], ⟨by decide +kernel,
      by decide +kernel, ⟨by decide +kernel, by decide +kernel⟩, by decide +kernel, by decide +kernel, by decide +kernel,
      rfl, by decide +kernel, by decide +kernel, by decide +kernel, by decide +kernel⟩⟩,
   ⟨on fun d => wr (wr (stores [(0x10000100, tCode 0x10000800), (0x10000104, tBits 0x1000000), (0x10000108, tVoid),
      (0x1000010C, tBits 0)] (cpu [] id d)) (CORE.GTBASE 0) 0x10000100) (CORE.GTLEN 0) 1, 0, ⟨0, 0, [.immLong 2 0]⟩,
      (on fun d => wr (wr (stores [(0x10000100, tCode 0x10000800), (0x10000104, tBits 0x1000000), (0x10000108, tVoid),
      (0x1000010C, tBits 0)] (cpu [] id d)) (CORE.GTBASE 0) 0x10000100) (CORE.GTLEN 0) 1).dev, 2, 0, 0x1000FFF0, 0x1000FEF0,
      ⟨tCode 0x10000800, 0x1000000, tVoid, 0⟩, tBits 0x1000000, tBits 0, ⟨by decide +kernel, by decide +kernel,
      ⟨by decide +kernel, by decide +kernel⟩, by decide +kernel, by decide +kernel, by decide +kernel, by decide +kernel,
      eq_of_okIs (by decide +kernel), by decide +kernel, by decide +kernel, by decide +kernel, by decide +kernel, rfl,
      by decide +kernel, by decide +kernel, rfl, by decide +kernel, by decide +kernel, by decide +kernel, by decide +kernel,
      by decide +kernel⟩⟩,
   ⟨on fun d => stores [(0x10010100, tAddr 0x10020000), (0x10010104, tVoid), (0x10010108, tBits 0), (0x1001010C,
      tBits 0)] (cpu [] (fun x => { x with frames := [(0x10010000, ws64 [tCode 0x10000100]), (0x10020000, ws64 [])] }) d),
      0, ⟨0, 0, []⟩, (on fun d => stores [(0x10010100, tAddr 0x10020000), (0x10010104, tVoid), (0x10010108, tBits 0),
      (0x1001010C,
      tBits 0)] (cpu [] (fun x => { x with frames := [(0x10010000, ws64 [tCode 0x10000100]), (0x10020000, ws64 [])] }) d)).dev,
      0x10000100, tAddr 0x10020000, tVoid, tBits 0, tBits 0, (0x10010000, ws64 [tCode 0x10000100]), (0x10020000, ws64 []),
      [], ⟨by decide +kernel, by decide +kernel, ⟨by decide +kernel, by decide +kernel⟩, by decide +kernel,
      by decide +kernel, by decide +kernel, eq_of_okIs (by decide +kernel), by decide +kernel, by decide +kernel,
      by decide +kernel, by decide +kernel, by decide +kernel, rfl, by decide +kernel, by decide +kernel,
      by decide +kernel⟩⟩⟩

theorem witness_BlockInstructionsRunTheirElements :
    (∃ (s : State) (c : Fin 8) (i : Insn) (d : Dev) (z : Nat) (y : Nat) (n : Word), s.pwr.root = true ∧
      d = blkClear s.dev c ∧ coreFree s.dev c = true ∧
      mpuBad s.dev c (privN s.dev c) 2 (coreGet s.dev c).pc.toNat (insnLen i) = none ∧ gf s.dev (CORE.STATUS c) stBlk = 0 ∧
      legalRoles s.dev c { roles := [[.area, .area, .src]] } i = some [.area, .area, .src] ∧ blkForm c i [.area, .area,
      .src] s.dev = (s.dev, .ok ([⟨.void, w32 z⟩, ⟨.void, w32 y⟩, ⟨.nat, n⟩], [])) ∧ z + n.toNat ≤ 64 ∧ y + n.toNat ≤ 64 ∧
      fp d c + 256 ≤ 2 ^ 32) ∧
    (∃ (s : State) (c : Fin 8) (i : Insn) (d : Dev) (z : Nat) (v : TWord) (n : Word), s.pwr.root = true ∧
      d = blkClear s.dev c ∧ coreFree s.dev c = true ∧
      mpuBad s.dev c (privN s.dev c) 2 (coreGet s.dev c).pc.toNat (insnLen i) = none ∧ gf s.dev (CORE.STATUS c) stBlk = 0 ∧
      legalRoles s.dev c { roles := [[.area, .src, .src]] } i = some [.area, .src, .src] ∧ plainSrc 1 v = .ok () ∧
      blkForm c i [.area, .src, .src] s.dev = (s.dev, .ok ([⟨.void, w32 z⟩, v, ⟨.nat, n⟩], [])) ∧ z + n.toNat ≤ 64) ∧
    (∃ (s : State) (c : Fin 8) (i : Insn) (d : Dev) (z : Nat) (v : TWord) (n : Word), s.pwr.root = true ∧
      d = blkClear s.dev c ∧ coreFree s.dev c = true ∧
      mpuBad s.dev c (privN s.dev c) 2 (coreGet s.dev c).pc.toNat (insnLen i) = none ∧ gf s.dev (CORE.STATUS c) stBlk = 0 ∧
      legalRoles s.dev c { roles := [[.area, .src, .src]] } i = some [.area, .src, .src] ∧ plainSrc 1 v = .ok () ∧
      blkForm c i [.area, .src, .src] s.dev = (s.dev, .ok ([⟨.addr, w32 z⟩, v, ⟨.nat, n⟩], [])) ∧ n.toNat ≤ 4 ∧ ((∀ k : Nat,
      k < n.toNat → inSram (z + 4 * k) = true ∧ accessOk s.dev c 0 (z + 4 * k) 1 = .ok () ∧
      frameFind (coreGet d c) (z + 4 * k) = none)) ∧ (coreGet d c).sb = [] ∧ (coreGet d c).l1 = [] ∧ isFollower d c = false) ∧
    (∃ (s : State) (c : Fin 8) (i : Insn) (d : Dev) (z : Nat) (y : Nat) (n : Word) (x : Word), s.pwr.root = true ∧
      d = blkClear s.dev c ∧ coreFree s.dev c = true ∧
      mpuBad s.dev c (privN s.dev c) 2 (coreGet s.dev c).pc.toNat (insnLen i) = none ∧ gf s.dev (CORE.STATUS c) stBlk = 0 ∧
      (legalRoles s.dev c { roles := [[.area, .area, .src]], xs := fun x => x < 3 } i = some [.area, .area, .src]) ∧
      blkForm c i [.area, .area, .src] s.dev = (s.dev, .ok ([⟨.void, w32 z⟩, ⟨.void, w32 y⟩, ⟨.nat, n⟩], [])) ∧ z < 64 ∧
      4 * y + n.toNat ≤ 256 ∧ 0 < n.toNat ∧ ((z < y ∨ 4 * y + n.toNat ≤ 4 * z)) ∧ slotGet d c z = tBits x) ∧
    (∃ (s : State) (c : Fin 8) (i : Insn) (d : Dev) (z : Nat) (p : Nat) (q : Nat) (x : Word) (u : Nat → Word) (v : Nat →
      Word), s.pwr.root = true ∧ d = blkClear s.dev c ∧ coreFree s.dev c = true ∧
      mpuBad s.dev c (privN s.dev c) 2 (coreGet s.dev c).pc.toNat (insnLen i) = none ∧ gf s.dev (CORE.STATUS c) stBlk = 0 ∧
      (legalRoles s.dev c { roles := [[.area, .area, .area]], xs := fun _ => true, unit := some 1 } i = some [.area, .area,
      .area]) ∧ blkForm c i [.area, .area, .area] s.dev = (s.dev, .ok ([⟨.void, w32 z⟩, ⟨.void, w32 p⟩, ⟨.void, w32 q⟩],
      [])) ∧ z < 64 ∧ p + i.x.toNat < 64 ∧ q + i.x.toNat < 64 ∧ ((z < p ∨ p + i.x.toNat < z)) ∧
      ((z < q ∨ q + i.x.toNat < z)) ∧ slotGet d c z = ⟨.int, x⟩ ∧ ((∀ k : Nat, k ≤ i.x.toNat → slotGet d c (p + k) = ⟨.int,
      u k⟩ ∧ slotGet d c (q + k) = ⟨.int, v k⟩)) ∧ ((∀ k : Nat, k ≤ i.x.toNat + 1 →
      -(2 ^ 31) ≤ x.toInt + ((List.range k).map (fun j => (u j).toInt * (v j).toInt)).sum ∧
      x.toInt + ((List.range k).map (fun j => (u j).toInt * (v j).toInt)).sum < 2 ^ 31))) :=
  ⟨⟨cpuOn [tBits 1, tBits 2, tBits 3], 0, ⟨0, 0, [.frame 10, .frame 0, .immLong 2 3]⟩, (cpuOn [tBits 1, tBits 2,
      tBits 3]).dev, 10, 0, 3, ⟨by decide +kernel, by decide +kernel, by decide +kernel, by decide +kernel,
      by decide +kernel, by decide +kernel, eq_of_okIs (by decide +kernel), by decide +kernel, by decide +kernel,
      by decide +kernel⟩⟩,
   ⟨cpuOn [tBits 1], 0, ⟨0, 0, [.frame 10, .frame 0, .immLong 2 3]⟩, (cpuOn [tBits 1]).dev, 10, tBits 1, 3,
      ⟨by decide +kernel, by decide +kernel, by decide +kernel, by decide +kernel, by decide +kernel, by decide +kernel,
      rfl, eq_of_okIs (by decide +kernel), by decide +kernel⟩⟩,
   ⟨cpuOn [tBits 1], 0, ⟨0, 0, [.absolute 0x10000040, .frame 0, .immLong 2 4]⟩, (cpuOn [tBits 1]).dev, 0x10000040, tBits 1,
      4, ⟨rfl, by decide +kernel, by decide +kernel, by decide +kernel, by decide +kernel, by decide +kernel, rfl,
      eq_of_okIs (by decide +kernel), by decide, upTo4 ⟨by decide, rfl, by decide⟩ ⟨by decide, rfl, by decide⟩ ⟨by decide,
      rfl, by decide⟩ ⟨by decide, rfl, by decide⟩, by decide +kernel, by decide +kernel, by decide +kernel⟩⟩,
   ⟨cpuOn [tBits 1, tBits 2, tBits 3], 0, ⟨0, 2, [.frame 0, .frame 1, .immLong 2 8]⟩, (cpuOn [tBits 1, tBits 2,
      tBits 3]).dev, 0, 1, 8, 1, ⟨by decide +kernel, by decide +kernel, by decide +kernel, by decide +kernel,
      by decide +kernel, by decide +kernel, eq_of_okIs (by decide +kernel), by decide +kernel, by decide +kernel,
      by decide +kernel, by decide +kernel, by decide +kernel⟩⟩,
   ⟨cpuOn [⟨.int, 1⟩, ⟨.int, 2⟩, ⟨.int, 2⟩, ⟨.int, 3⟩, ⟨.int, 3⟩], 0, ⟨0, 1, [.frame 0, .frame 1, .frame 3]⟩,
      (cpuOn [⟨.int, 1⟩, ⟨.int, 2⟩, ⟨.int, 2⟩, ⟨.int, 3⟩, ⟨.int, 3⟩]).dev, 0, 1, 3, 1, fun _ => 2, fun _ => 3,
      ⟨by decide +kernel, by decide +kernel, by decide +kernel, by decide +kernel, by decide +kernel, by decide +kernel,
      eq_of_okIs (by decide +kernel), by decide +kernel, by decide +kernel, by decide +kernel, by decide +kernel,
      by decide +kernel, by decide +kernel, by decide +kernel, by decide +kernel⟩⟩⟩

theorem witness_CoresOwnRegistersAndInterrupts :
    (∃ (s : State) (c : Fin 8) (i : Insn) (d : Dev), s.pwr.root = true ∧ d = blkClear s.dev c ∧ Ready s.dev c i ∧ i.v = 0 ∧
      i.x = 0 ∧ i.ops = []) ∧
    (∃ (s : State) (c : Fin 8) (v : Word) (d1 : Dev) (d2 : Dev) (ws : List TWord), s.pwr.root = true ∧
      coreFree s.dev c = true ∧ accessOk s.dev c 0 0x4041100C 1 = .ok () ∧
      d1 = (coreGet s.dev c).frames.foldl (frameSpill c) s.dev ∧ frameRead c v.toNat 64 d1 = (d2, .ok ws)) ∧
    (∃ (s : State) (c : Fin 8) (v : Word), s.pwr.root = true ∧ coreFree s.dev c = true ∧
      accessOk s.dev c 0 0x4041001C 1 = .ok ()) ∧
    (∃ (s : State) (c : Fin 8) (v : Word), s.pwr.root = true ∧ coreFree s.dev c = true ∧
      accessOk s.dev c 0 0x40411024 1 = .ok ()) ∧
    (∃ (s : State) (c : Fin 8) (v : Word) (b : Bool), s.pwr.root = true ∧ coreFree s.dev c = true ∧
      accessOk s.dev c 0 0x40411004 1 = .ok () ∧ gf s.dev (CORE.CCTL c) CORE.CCTL_L1EN = 1) ∧
    (∃ (s : State) (c : Fin 8) (v : Word), s.pwr.root = true ∧ coreFree s.dev c = true ∧
      accessOk s.dev c 0 0x40411000 1 = .ok ()) ∧
    (∃ (s : State) (c : Fin 8) (v : Word) (k : Fin 16), s.pwr.root = true ∧ coreFree s.dev c = true ∧
      accessOk s.dev c 0 (0x40411040 + 4 * k) 1 = .ok ()) ∧
    (∃ (s : State) (c : Fin 8) (v : Word) (k : Fin 16), s.pwr.root = true ∧ coreFree s.dev c = true ∧ priv s.dev c = 1 ∧
      CanEnter s.dev c 4) ∧
    (∃ (s : State) (c : Fin 8) (q : EntrySt) (h : Nat), s.pwr.root = true ∧ isFollower s.dev c = false ∧
      (coreGet s.dev c).ent = some q ∧ q.lvl < 16 ∧ h = gf s.dev (CORE.HPRIV c) CORE.HPRIV_IPRIV ∧
      mpuBad s.dev c h 1 (entryFp s.dev c h) 256 = none) :=
  ⟨⟨cpuOn [], 0, ⟨0, 0, []⟩, (cpuOn []).dev, ⟨by decide +kernel, by decide +kernel, ⟨by decide +kernel, by decide +kernel⟩,
      by decide +kernel, by decide +kernel, by decide +kernel⟩⟩,
   ⟨cpuOn [], 0, 0x10020000, (frameSpill 0 (cpuOn []).dev (0x10010000, ws64 [])), (frameSpill 0 (cpuOn []).dev (0x10010000,
      ws64 [])), List.replicate 64 tVoid, ⟨by decide +kernel, by decide +kernel, rfl, by decide +kernel,
      eq_of_okIs (by decide +kernel)⟩⟩,
   ⟨cpuOn [], 0, 0, ⟨by decide, by decide, rfl⟩⟩,
   ⟨cpuOn [], 0, 0, ⟨by decide, by decide, rfl⟩⟩,
   ⟨on fun d => sf (cpu [] id d) (CORE.CCTL 0) CORE.CCTL_L1EN 1, 0, 0, true, ⟨by decide, by decide, rfl, by decide⟩⟩,
   ⟨cpuOn [], 0, 0, ⟨by decide, by decide, rfl⟩⟩,
   ⟨cpuOn [], 0, 0, 15, ⟨by decide, by decide, rfl⟩⟩,
   ⟨on fun _ => sf (excOn 4 []).dev (CORE.STATUS 0) stPriv 1, 0, 0, 15, ⟨by decide, by decide, by decide,
      ⟨by decide +kernel, by decide +kernel, by decide +kernel⟩⟩⟩,
   ⟨on fun d => wr (cpu [] (fun x => { x with ent := some ⟨15, 1023, 0x10000000⟩ }) d) (CORE.HPRIV 0) 0, 0, ⟨15, 1023,
      0x10000000⟩, 0, by decide⟩⟩

theorem witness_PairsCompareDivergeAndReset :
    (∃ (s : State) (p : Fin 4) (a : BitVec 64) (la : List (BitVec 64)) (lb : List (BitVec 64)), s.pwr.root = true ∧
      (pairGet s.dev p).lw = a :: la ∧ (pairGet s.dev p).fw = a :: lb) ∧
    (∃ (s : State) (p : Fin 4) (a : BitVec 64) (b : BitVec 64) (la : List (BitVec 64)) (lb : List (BitVec 64)),
      s.pwr.root = true ∧ (pairGet s.dev p).lw = a :: la ∧ (pairGet s.dev p).fw = b :: lb ∧ a ≠ b ∧
      CanEnter s.dev (2 * p) 14) ∧
    (∃ (s : State) (p : Fin 4), s.pwr.root = true ∧ paired s.dev p = true ∧ CanEnter s.dev (2 * p) 14) ∧
    (∃ (s : State) (p : Fin 4) (v : Word), s.pwr.root = true ∧ (pairGet s.dev p).run = false ∧ fget PAIRC.PWDCFG_EN v = 1) ∧
    (∃ (s : State) (p : Fin 4) (v : Word), s.pwr.root = true ∧ (pairGet s.dev p).run = true) ∧
    (∃ (s : State) (c : Fin 8) (p : Fin 4), s.pwr.root = true) ∧
    (∃ (s : State) (p : Fin 4), s.pwr.root = true ∧ (pairGet s.dev p).run = true ∧
      gf s.dev (PAIRC.PWDCNT p) PAIRC.PWDCNT_LEFT = 0 ∧ s.dev.boot.wd = false) ∧
    (∃ (s : State) (p : Fin 4) (o : Nat) (v : Word) (r : Reg) (m : Word) (bad : Bool), s.pwr.root = true ∧ o < 0x40 ∧
      pairTicked (0x40 * p + o) v = some (r, m, bad, some p.val) ∧ bad = false) ∧
    (∃ (s : State) (p : Fin 4) (o : Nat) (v : Word) (r : Reg) (m : Word) (bad : Bool), s.pwr.root = true ∧ o < 0x40 ∧
      pairTicked (0x40 * p + o) v = some (r, m, bad, some p.val) ∧ bad = true) :=
  ⟨⟨on fun d => pairSt 3 { lw := [5], fw := [5] } d, 3, 5, [], [], by decide⟩,
   ⟨on fun d => vecOk 6 14 (pairSt 3 { lw := [5], fw := [6] } d), 3, 5, 6, [], [], ⟨by decide, by decide, by decide,
      by decide, ⟨by decide +kernel, by decide +kernel, by decide +kernel⟩⟩⟩,
   ⟨on fun d => vecOk 6 14 (sf d (PAIRC.PSTAT 3) PAIRC.PSTAT_MODE 1), 3, ⟨by decide, by decide, ⟨by decide +kernel,
      by decide +kernel, by decide +kernel⟩⟩⟩,
   ⟨live, 3, 0x80000001, by decide⟩,
   ⟨on fun d => pairSt 3 { run := true } d, 3, 0, by decide⟩,
   ⟨live, 0, 0, by decide⟩,
   ⟨on fun d => wr (pairSt 3 { run := true } d) (PAIRC.PWDCNT 3) 0, 3, by decide⟩,
   ⟨live, 3, 8, 1, PAIRC.POCWIN 3, 0xFFFF, false, by decide⟩,
   ⟨live, 3, 4, 0, PAIRC.PWIN 3, 0x1FFFF, true, by decide⟩⟩

theorem witness_TwinItemsAndCommands :
    (∃ (s : State) (a : Nat) (v : Word) (r : Reg), s.pwr.root = true ∧ ((twState s.dev = 2 ∨ twState s.dev = 3)) ∧
      tickedAt a = some r) ∧
    (∃ (s : State) (t : Word) (l : Byte) (v : BitVec 4) (n : BitVec 16), s.pwr.root = true ∧
      ((twState s.dev = 2 ∨ twState s.dev = 3))) ∧
    (∃ (s : State), s.pwr.root = true ∧ twState s.dev = 4 ∧ s.dev.twin.fresh = false ∧ s.dev.evHold.length < 32) ∧
    (∃ (s : State), s.pwr.root = true ∧ twState s.dev = 3) ∧
    (∃ (s : State), s.pwr.root = true ∧ twState s.dev ≠ 3 ∧ twState s.dev ≠ 4) ∧
    (∃ (s : State), s.pwr.root = true ∧ twState s.dev = 4 ∧ gf s.dev PAIRC.TWSTAT PAIRC.TWSTAT_PEERRDY = 0) ∧
    (∃ (s : State), s.pwr.root = true ∧ twState s.dev ≠ 4) :=
  ⟨⟨on fun d => twIn 3 d, TICK.TICKPER.addr, 0, TICK.TICKPER, by decide⟩,
   ⟨on fun d => twIn 2 d, 0, 0, 0, 0, by decide⟩,
   ⟨on fun d => twIn 4 d, by decide⟩,
   ⟨on fun d => twIn 3 d, by decide⟩,
   ⟨live, by decide⟩,
   ⟨on fun d => twIn 4 d, by decide⟩,
   ⟨live, by decide⟩⟩

theorem witness_InterruptsArePresented :
    (∃ (st : State) (s : Fin 1024), st.pwr.root = true) ∧
    (∃ (s : State) (w : Fin 32) (v : Word), s.pwr.root = true) ∧
    (∃ (st : State) (s : Nat) (c : Nat) (l : List Nat), st.pwr.root = true ∧ srcOrder st.dev = s :: l ∧
      vecVoid st.dev (ICU.IVEC s) = false ∧ procPick st.dev s [] = some c ∧ ((∀ (k : Nat) (q : EntrySt),
      (coreGet st.dev k).ent = some q → q.src < 1024 ∧ q.lvl < 16 ∧ q.src ≠ s))) ∧
    (∃ (st : State) (s : Nat) (c : Nat), st.pwr.root = true ∧ srcOrder st.dev = [s] ∧ vecVoid st.dev (ICU.IVEC s) = false ∧
      procPick st.dev s [] = some c ∧ (coreGet st.dev c).ent = none) ∧
    (∃ (st : State) (s : Nat) (c : Nat) (q : EntrySt), st.pwr.root = true ∧ srcOrder st.dev = [s] ∧
      vecVoid st.dev (ICU.IVEC s) = false ∧ procPick st.dev s [] = some c ∧ (coreGet st.dev c).ent = some q ∧ q.src < 1024 ∧
      q.src ≠ s) ∧
    (∃ (st : State), st.pwr.root = true ∧ srcOrder st.dev = []) ∧
    (∃ (st : State) (g : Fin 64) (t : Nat), st.pwr.root = true ∧ find st.dev.hold g = some t) ∧
    (∃ (st : State) (g : Fin 64), st.pwr.root = true ∧ find st.dev.hold g = none) :=
  ⟨⟨live, 0, by decide⟩,
   ⟨live, 0, 0, by decide⟩,
   ⟨on fun d => offer1 d, 1, 0, [], ⟨rfl, by decide +kernel, by decide, by decide +kernel, fun k q h => by
          have hc : (on fun d => offer1 d).dev.core = [(0, { rst := false })] := by decide
          by_cases hk : 0 = k <;> simp_all [coreGet, look]⟩⟩,
   ⟨on fun d => offer1 d, 1, 0, by decide +kernel⟩,
   ⟨on fun d => { offer1 d with core := [(0, { rst := false, ent := some ⟨2, 7, 0x1000⟩ })] }, 1, 0, ⟨2, 7, 0x1000⟩,
      by decide +kernel⟩,
   ⟨live, by decide +kernel⟩,
   ⟨on fun d => { d with hold := [(63, 9)] }, 63, 9, by decide⟩,
   ⟨live, 0, by decide⟩⟩

theorem witness_FlashCommandsAndTheirEnds :
    (∃ (s : State) (a : Nat), s.pwr.root = true ∧ a = 32 * gf s.dev FLASHC.FLADDR FLASHC.FLADDR_ADDR ∧ s.dev.fl.op = 0 ∧
      s.dev.flSusp = none ∧ flForbidden s.dev a = false ∧ flLineSet s.dev (flBank s.dev a) (flOff a) = false) ∧
    (∃ (s : State) (a : Nat), s.pwr.root = true ∧ a = 32 * gf s.dev FLASHC.FLADDR FLASHC.FLADDR_ADDR ∧ s.dev.fl.op = 0 ∧
      s.dev.flSusp = none ∧ flForbidden s.dev a = false) ∧
    (∃ (s : State) (a : Nat), s.pwr.root = true ∧ a = 32 * gf s.dev FLASHC.FLADDR FLASHC.FLADDR_ADDR ∧ s.dev.fl.op = 0 ∧
      s.dev.flSusp = none ∧ gf s.dev FLASHC.FLBOOT FLASHC.FLBOOT_ROM = 1 ∧ s.dev.swaps < 4096) ∧
    (∃ (s : State) (a : Nat), s.pwr.root = true ∧ a = 32 * gf s.dev FLASHC.FLADDR FLASHC.FLADDR_ADDR ∧ s.dev.fl.op = 0 ∧
      s.dev.flSusp = none ∧ rdpAllowed s.dev = true ∧ gf s.dev FLASHC.FLRDPKEY FLASHC.FLRDPKEY_NEW ≠ 0) ∧
    (∃ (s : State) (a : Nat), s.pwr.root = true ∧ a = 32 * gf s.dev FLASHC.FLADDR FLASHC.FLADDR_ADDR ∧ s.dev.fl.op = 0 ∧
      s.dev.flSusp = none ∧ rdpAllowed s.dev = true ∧ gf s.dev FLASHC.FLRDPKEY FLASHC.FLRDPKEY_NEW = 0) ∧
    (∃ (s : State) (c : Instr), s.pwr.root = true ∧ s.dev.fl.op ≠ 0 ∧ c ∈ [Instr.program, .erase, .margin, .swap, .rdp]) ∧
    (∃ (s : State), s.pwr.root = true ∧ s.dev.flSusp = none ∧ s.dev.fl.op = 1) ∧
    (∃ (s : State), s.pwr.root = true ∧ s.dev.flSusp = none ∧ s.dev.fl.op = 2 ∧ s.dev.fl.sec < 512 ∧
      s.dev.fl.sec % 256 < 254 ∧ 1 ≤ jFree s.dev (jCur s.dev (s.dev.fl.sec / 256))) ∧
    (∃ (s : State), s.pwr.root = true ∧ s.dev.flSusp = none ∧ s.dev.fl.op = 2 ∧ s.dev.fl.ask ≠ 0) ∧
    (∃ (s : State), s.pwr.root = true ∧ s.dev.flSusp = none ∧ s.dev.fl.op = 2) ∧
    (∃ (s : State), s.pwr.root = true ∧ s.dev.flSusp = none ∧ s.dev.fl.op ≠ 2) ∧
    (∃ (s : State) (fail : Bool) (line : BitVec 11), s.pwr.root = true ∧ s.dev.flSusp = none ∧ s.dev.fl.op = 3) ∧
    (∃ (s : State), s.pwr.root = true ∧ s.dev.flSusp = none ∧ s.dev.fl.op = 4) ∧
    (∃ (s : State), s.pwr.root = true ∧ s.dev.flSusp = none ∧ s.dev.fl.op = 5) ∧
    (∃ (s : State) (x : EraseSt), s.pwr.root = true ∧ s.dev.flSusp = some x ∧ s.dev.fl.op = 0) ∧
    (∃ (s : State) (a : Nat), s.pwr.root = true ∧ inFlash a = true ∧ s.dev.fl.op = 2 ∧ s.dev.fl.sec / 256 = flBank s.dev a ∧
      s.dev.fl.ask = 0 ∧ gf s.dev FLASHC.FLCTL FLASHC.FLCTL_AUTOSUS = 1) :=
  ⟨⟨on fun d => flAt 0x100000 d, 0x100000, by decide⟩,
   ⟨on fun d => flAt 0x100000 d, 0x100000, by decide⟩,
   ⟨live, 32 * gf (live).dev FLASHC.FLADDR FLASHC.FLADDR_ADDR, by decide⟩,
   ⟨on fun d => wr (wr d FLASHC.FLRDP 0) FLASHC.FLRDPKEY (fset FLASHC.FLRDPKEY_KEY2 (fset FLASHC.FLRDPKEY_NEW 0 2) 0x3C),
      32 * gf (on fun d => wr (wr d FLASHC.FLRDP 0) FLASHC.FLRDPKEY (fset FLASHC.FLRDPKEY_KEY2 (fset FLASHC.FLRDPKEY_NEW 0 2) 0x3C)).dev FLASHC.FLADDR FLASHC.FLADDR_ADDR,
      by decide⟩,
   ⟨on fun d => wr (sf d FLASHC.FLRDP FLASHC.FLRDP_LEVEL 1) FLASHC.FLRDPKEY (fset FLASHC.FLRDPKEY_KEY2 0 0x3C),
      32 * gf (on fun d => wr (sf d FLASHC.FLRDP FLASHC.FLRDP_LEVEL 1) FLASHC.FLRDPKEY (fset FLASHC.FLRDPKEY_KEY2 0 0x3C)).dev FLASHC.FLADDR FLASHC.FLADDR_ADDR,
      by decide⟩,
   ⟨on fun d => { d with fl := flOp 1 }, .program, by decide⟩,
   ⟨on fun d => { d with fl := flOp 1 }, by decide⟩,
   ⟨on fun d => { d with fl := { op := 2, sec := 253 } }, by decide⟩,
   ⟨on fun d => { d with fl := { op := 2, ask := 2 } }, by decide⟩,
   ⟨on fun d => { d with fl := flOp 2 }, by decide⟩,
   ⟨live, by decide⟩,
   ⟨on fun d => { d with fl := flOp 3 }, true, 2047, by decide⟩,
   ⟨on fun d => { d with fl := flOp 4 }, by decide⟩,
   ⟨on fun d => { d with fl := flOp 5 }, by decide⟩,
   ⟨on fun d => { d with flSusp := some { addr := 0x100000, sec := 16, by_ := 2 } },
      { addr := 0x100000, sec := 16, by_ := 2 }, by decide⟩,
   ⟨on fun d => sf { d with fl := { op := 2, sec := 509 } } FLASHC.FLCTL FLASHC.FLCTL_AUTOSUS 1, 0x01FFFFFF, by decide⟩⟩

theorem witness_MemoryUpkeepAndCheckValues :
    (∃ (s : State) (k : Nat) (l : List Nat), s.pwr.root = true ∧ s.dev.wback = k :: l) ∧
    (∃ (s : State) (n : Nat) (x : Nat), s.pwr.root = true ∧ n = gf s.dev DDRC.SMCTL DDRC.SMCTL_SCRDIV ∧ n ≠ 0 ∧
      x = 0x4000000 + 4 * s.dev.scrS ∧ ((∀ k : Nat, k < 3 → look s.dev.ecc (x + k + 1) 0 = 0)) ∧ look s.dev.ecc x 0 = 0) ∧
    (∃ (s : State) (n : Nat) (x : Nat), s.pwr.root = true ∧ n = gf s.dev DDRC.SMCTL DDRC.SMCTL_SCRDIV ∧ n ≠ 0 ∧
      x = 0x4000000 + 4 * s.dev.scrS ∧ ((∀ k : Nat, k < 3 → look s.dev.ecc (x + k + 1) 0 = 0)) ∧ look s.dev.ecc x 0 = 1 ∧
      x ∉ s.dev.wback ∧ gateOpen s.dev 16 = true) ∧
    (∃ (s : State) (n : Nat) (x : Nat), s.pwr.root = true ∧ n = gf s.dev DDRC.DSCRUB DDRC.DSCRUB_DIV ∧ n ≠ 0 ∧
      ddrRunning s.dev = true ∧ s.dev.ddrUnk = false ∧ x = keyDdr (64 * s.dev.scrD) / 4 ∧ ((∀ k : Nat, k < 15 →
      look s.dev.ecc (x + k + 1) 0 = 0)) ∧ look s.dev.ecc x 0 = 0) ∧
    (∃ (s : State) (n : Nat) (x : Nat), s.pwr.root = true ∧ n = gf s.dev DDRC.DSCRUB DDRC.DSCRUB_DIV ∧ n ≠ 0 ∧
      ddrRunning s.dev = true ∧ s.dev.ddrUnk = false ∧ x = keyDdr (64 * s.dev.scrD) / 4 ∧ ((∀ k : Nat, k < 15 →
      look s.dev.ecc (x + k + 1) 0 = 0)) ∧ look s.dev.ecc x 0 = 1) ∧
    (∃ (s : State) (r : Bool) (hot : Bool), s.pwr.root = true) ∧
    (∃ (s : State), s.pwr.root = true ∧ gf s.dev DDRC.DSTAT DDRC.DSTAT_STATE = 1 ∧ gf s.dev DDRC.DCTL DDRC.DCTL_EN = 1) ∧
    (∃ (s : State), s.pwr.root = true ∧ gf s.dev DDRC.DSTAT DDRC.DSTAT_STATE = 1) ∧
    (∃ (s : State), s.pwr.root = true ∧ gf s.dev DDRC.DSTAT DDRC.DSTAT_STATE = 3 ∧ gf s.dev DDRC.DCTL DDRC.DCTL_EN = 0) ∧
    (∃ (s : State), s.pwr.root = true ∧ s.dev.ddrRetrain = true) ∧
    (∃ (s : State) (v : Word) (w : Fin 16), s.pwr.root = true ∧ gateOpen s.dev 16 = true ∧ fget DDRC.DCFG_DENS v ≠ 3) ∧
    (∃ (s : State) (v : Word) (w : Fin 16), s.pwr.root = true ∧ gateOpen s.dev 16 = true ∧ fget DDRC.DCFG_DENS v = 3) ∧
    (∃ (s : State) (v : Word) (w : Fin 16), s.pwr.root = true ∧ gateOpen s.dev 16 = true ∧ 1 ≤ fget DDRC.DWIN_DTAG v ∧
      fget DDRC.DWIN_DTAG v ≤ 9) ∧
    (∃ (s : State) (v : Word) (w : Fin 16), s.pwr.root = true ∧ gateOpen s.dev 16 = true ∧
      ((fget DDRC.DWIN_DTAG v = 0 ∨ 10 ≤ fget DDRC.DWIN_DTAG v))) ∧
    (∃ (s : State) (u : Fin 8) (it : CvuItem), s.pwr.root = true ∧ gateOpen s.dev 15 = true ∧
      gf s.dev (CVU.CVSTAT u) CVU.CVSTAT_STATE = 2 ∧ cvTake s.dev u it = none) ∧
    (∃ (s : State) (u : Fin 8) (it : CvuItem) (l : List Byte) (g : List Byte), s.pwr.root = true ∧
      gateOpen s.dev 15 = true ∧ gf s.dev (CVU.CVSTAT u) CVU.CVSTAT_STATE = 2 ∧ cvTake s.dev u it = some (l, g) ∧
      cvBuffered s.dev u + l.length + g.length ≤ 512) ∧
    (∃ (s : State) (u : Fin 8) (it : CvuItem) (l : List Byte) (g : List Byte), s.pwr.root = true ∧
      gateOpen s.dev 15 = true ∧ gf s.dev (CVU.CVSTAT u) CVU.CVSTAT_STATE = 2 ∧ cvTake s.dev u it = some (l, g) ∧
      512 < cvBuffered s.dev u + l.length + g.length) ∧
    (∃ (s : State) (u : Fin 8) (v : Word), s.pwr.root = true ∧ gateOpen s.dev 15 = true) ∧
    (∃ (s : State) (u : Fin 8) (v : Word), s.pwr.root = true ∧ gateOpen s.dev 15 = true ∧
      gf s.dev (CVU.CVCFG u) CVU.CVCFG_GUARD = 0 ∧ gf s.dev (CVU.CVCFG u) CVU.CVCFG_POLY ≠ 2) ∧
    (∃ (s : State) (u : Fin 8) (v : Word), s.pwr.root = true ∧ gateOpen s.dev 15 = true ∧
      gf s.dev (CVU.CVCFG u) CVU.CVCFG_GUARD = 1 ∧ gf s.dev (CVU.CVCFG u) CVU.CVCFG_SRC = 1 ∧
      gf s.dev (CVU.CVCFG u) CVU.CVCFG_POLY ≠ 2) ∧
    (∃ (s : State) (u : Fin 8) (v : Word), s.pwr.root = true ∧ gateOpen s.dev 15 = true ∧
      gf s.dev (CVU.CVSTAT u) CVU.CVSTAT_STATE = 3) ∧
    (∃ (s : State) (u : Fin 8) (v : Word) (o : Nat) (r : Reg) (m : Word), s.pwr.root = true ∧ gateOpen s.dev 15 = true ∧
      o < 0x40 ∧ cvTicked u o = some (r, m) ∧ cvBad s.dev u o v = false) ∧
    (∃ (s : State) (u : Fin 8) (v : Word) (o : Nat) (r : Reg) (m : Word), s.pwr.root = true ∧ gateOpen s.dev 15 = true ∧
      o < 0x40 ∧ cvTicked u o = some (r, m) ∧ cvBad s.dev u o v = true) :=
  ⟨⟨on fun d => { d with wback := [7] }, 7, [], by decide⟩,
   ⟨on fun d => { sf d DDRC.SMCTL DDRC.SMCTL_SCRDIV 1 with ecc := [], scrS := 5 }, 1, 0x4000014, by decide⟩,
   ⟨on fun d => { sf d DDRC.SMCTL DDRC.SMCTL_SCRDIV 1 with ecc := [(0x4000014, 1)], scrS := 5 }, 1, 0x4000014, by decide⟩,
   ⟨on fun d => { ddrOn 2 (sf d DDRC.DSCRUB DDRC.DSCRUB_DIV 1) with ecc := [], scrD := 5, ddrUnk := false }, 1,
      keyDdr 320 / 4, by decide⟩,
   ⟨on fun d => { ddrOn 2 (sf d DDRC.DSCRUB DDRC.DSCRUB_DIV 1) with ecc := [(keyDdr 320 / 4, 1)], scrD := 5, ddrUnk := false },
      1, keyDdr 320 / 4, by decide⟩,
   ⟨live, false, false, by decide⟩,
   ⟨on fun d => ddrOn 1 (sf d DDRC.DCTL DDRC.DCTL_EN 1), by decide⟩,
   ⟨on fun d => ddrOn 1 d, by decide⟩,
   ⟨on fun d => ddrOn 3 d, by decide⟩,
   ⟨on fun d => { d with ddrRetrain := true }, by decide⟩,
   ⟨live, 0, 0, by decide⟩,
   ⟨live, fset DDRC.DCFG_DENS 0 3, 0, by decide⟩,
   ⟨live, fset DDRC.DWIN_DTAG 0 9, 15, by decide⟩,
   ⟨live, 0, 0, by decide⟩,
   ⟨on fun d => cvOn 7 d, 7, .flash 0 [], by decide⟩,
   ⟨on fun d => cvOn 7 d, 7, .curd 0 [1, 2, 3, 4, 5, 6, 7, 8, 9, 10, 11, 12], [1, 2, 3, 4, 5, 6, 7, 8, 9, 10, 11, 12], [],
      by decide⟩,
   ⟨on fun d => { cvOn 7 d with cvBusy := [(7, 10000)] }, 7, .curd 0 [1, 2, 3, 4, 5, 6, 7, 8, 9, 10, 11, 12], [1, 2, 3, 4,
      5, 6, 7, 8, 9, 10, 11, 12], [], by decide⟩,
   ⟨live, 0, 0, by decide⟩,
   ⟨live, 0, 0, by decide⟩,
   ⟨on fun d => sf (sf d (CVU.CVCFG 7) CVU.CVCFG_GUARD 1) (CVU.CVCFG 7) CVU.CVCFG_SRC 1, 7, 0, by decide⟩,
   ⟨on fun d => sf d (CVU.CVSTAT 7) CVU.CVSTAT_STATE 3, 7, 0, by decide⟩,
   ⟨live, 7, 0, 0xC, CVU.CVHI 7, 0xFFFFFFFF, by decide⟩,
   ⟨live, 7, fset CVU.CVCFG_POLY 0 3, 0, CVU.CVCFG 7, 0xFE000000, by decide⟩⟩

theorem witness_RingsFetchAndExecuteDescriptors :
    (∃ (s : State) (r : Fin 12) (x : Desc) (c : Instr) (d : Dev), s.pwr.root = true ∧ fetchable s.dev r = true ∧
      recovery s.dev = false ∧ (ringGet s.dev r).orphan = false ∧ ((((ringGet s.dev r).wrong = 0 ∧
      c = .descriptorFetch r true x ∧ d = s.dev) ∨ ((ringGet s.dev r).wrong ≠ 0 ∧ c = .descriptorReread r true x ∧
      d = advance s.dev 600))) ∧ dByte x 0x3F % 2 = phaseOf s.dev r (ringIdx s.dev r) ∧
      dByte x 1 / 16 = gf s.dev HOST.HFMT HOST.HFMT_RMAJ ∧ typeGood r (dByte x 0) = true) ∧
    (∃ (s : State) (r : Fin 12) (x : Desc) (c : Instr) (d : Dev), s.pwr.root = true ∧ fetchable s.dev r = true ∧
      recovery s.dev = false ∧ (ringGet s.dev r).orphan = false ∧ ((((ringGet s.dev r).wrong = 0 ∧
      c = .descriptorFetch r true x ∧ d = s.dev) ∨ ((ringGet s.dev r).wrong ≠ 0 ∧ c = .descriptorReread r true x ∧
      d = advance s.dev 600))) ∧ dByte x 0x3F % 2 = phaseOf s.dev r (ringIdx s.dev r) ∧
      dByte x 1 / 16 = gf s.dev HOST.HFMT HOST.HFMT_RMAJ ∧ typeGood r (dByte x 0) = false) ∧
    (∃ (s : State) (r : Fin 12) (x : Desc) (c : Instr) (d : Dev), s.pwr.root = true ∧ fetchable s.dev r = true ∧
      recovery s.dev = false ∧ (ringGet s.dev r).orphan = false ∧ ((((ringGet s.dev r).wrong = 0 ∧
      c = .descriptorFetch r true x ∧ d = s.dev) ∨ ((ringGet s.dev r).wrong ≠ 0 ∧ c = .descriptorReread r true x ∧
      d = advance s.dev 600))) ∧ dByte x 0x3F % 2 = phaseOf s.dev r (ringIdx s.dev r) ∧
      dByte x 1 / 16 ≠ gf s.dev HOST.HFMT HOST.HFMT_RMAJ) ∧
    (∃ (s : State) (r : Fin 12) (x : Desc) (c : Instr) (d : Dev), s.pwr.root = true ∧ fetchable s.dev r = true ∧
      recovery s.dev = false ∧ (ringGet s.dev r).orphan = false ∧ ((((ringGet s.dev r).wrong = 0 ∧
      c = .descriptorFetch r true x ∧ d = s.dev) ∨ ((ringGet s.dev r).wrong ≠ 0 ∧ c = .descriptorReread r true x ∧
      d = advance s.dev 600))) ∧ dByte x 0x3F % 2 ≠ phaseOf s.dev r (ringIdx s.dev r) ∧ (ringGet s.dev r).wrong < 3) ∧
    (∃ (s : State) (r : Fin 12) (x : Desc) (c : Instr) (d : Dev), s.pwr.root = true ∧ fetchable s.dev r = true ∧
      recovery s.dev = false ∧ (ringGet s.dev r).orphan = false ∧ ((((ringGet s.dev r).wrong = 0 ∧
      c = .descriptorFetch r true x ∧ d = s.dev) ∨ ((ringGet s.dev r).wrong ≠ 0 ∧ c = .descriptorReread r true x ∧
      d = advance s.dev 600))) ∧ dByte x 0x3F % 2 ≠ phaseOf s.dev r (ringIdx s.dev r) ∧ 3 ≤ (ringGet s.dev r).wrong) ∧
    (∃ (s : State) (r : Fin 12) (x : Desc) (t : Nat), s.pwr.root = true ∧ hostUp s.dev = true ∧
      (ringGet s.dev r).desc = some x ∧ (ringGet s.dev r).orphan = false ∧ dByte x 0 = t ∧ t = 1) ∧
    (∃ (s : State) (r : Fin 12) (x : Desc) (t : Nat) (q : Dev × List Nat), s.pwr.root = true ∧ hostUp s.dev = true ∧
      (ringGet s.dev r).desc = some x ∧ (ringGet s.dev r).orphan = false ∧ dByte x 0 = t ∧ t = 2 ∧ dByte x 0x10 ≤ 2 ∧
      q = armOp s.dev (maskGroups (dHalf x 8)) (dWord x 3)) ∧
    (∃ (s : State) (r : Fin 12) (x : Desc) (t : Nat), s.pwr.root = true ∧ hostUp s.dev = true ∧
      (ringGet s.dev r).desc = some x ∧ (ringGet s.dev r).orphan = false ∧ dByte x 0 = t ∧ t = 2 ∧ 2 < dByte x 0x10) ∧
    (∃ (s : State) (r : Fin 12) (x : Desc) (t : Nat), s.pwr.root = true ∧ hostUp s.dev = true ∧
      (ringGet s.dev r).desc = some x ∧ (ringGet s.dev r).orphan = false ∧ dByte x 0 = t ∧ t = 5 ∧ dByte x 4 ≤ 15) ∧
    (∃ (s : State) (r : Fin 12) (x : Desc) (t : Nat), s.pwr.root = true ∧ hostUp s.dev = true ∧
      (ringGet s.dev r).desc = some x ∧ (ringGet s.dev r).orphan = false ∧ dByte x 0 = t ∧ t = 5 ∧ 15 < dByte x 4) ∧
    (∃ (s : State) (r : Fin 12) (x : Desc) (t : Nat), s.pwr.root = true ∧ hostUp s.dev = true ∧
      (ringGet s.dev r).desc = some x ∧ (ringGet s.dev r).orphan = false ∧ dByte x 0 = t ∧ t = 6 ∧
      gf s.dev CXLC.MBXINST CXLC.MBXINST_FULL = 0) ∧
    (∃ (s : State) (r : Fin 12) (x : Desc) (t : Nat), s.pwr.root = true ∧ hostUp s.dev = true ∧
      (ringGet s.dev r).desc = some x ∧ (ringGet s.dev r).orphan = false ∧ dByte x 0 = t ∧ t = 6 ∧
      gf s.dev CXLC.MBXINST CXLC.MBXINST_FULL = 1) ∧
    (∃ (s : State) (r : Fin 12) (x : Desc) (l : List (Nat × Word × Word)) (d1 : Dev), s.pwr.root = true ∧
      hostUp s.dev = true ∧ (ringGet s.dev r).desc = some x ∧ (ringGet s.dev r).orphan = false ∧ dByte x 0 = 3 ∧
      1 ≤ dByte x 4 ∧ dByte x 4 ≤ 6 ∧ l = (List.range (dByte x 4)).map (fun j => (j, dWord x (2 + 2 * j),
      dWord x (3 + 2 * j))) ∧ ((∀ e ∈ l, recovery s.dev = true ∨ hostAllows s.dev true e.2.1 = true)) ∧
      hostWriteEach l s.dev = (d1, none) ∧ s.dev.boot.stage ≠ 1 ∧ d1.boot.stage ≠ 1) ∧
    (∃ (s : State) (r : Fin 12) (x : Desc) (l : List (Nat × Word × Word)) (j : Nat), s.pwr.root = true ∧
      hostUp s.dev = true ∧ (ringGet s.dev r).desc = some x ∧ (ringGet s.dev r).orphan = false ∧ dByte x 0 = 3 ∧
      1 ≤ dByte x 4 ∧ dByte x 4 ≤ 6 ∧ l = (List.range (dByte x 4)).map (fun j => (j, dWord x (2 + 2 * j),
      dWord x (3 + 2 * j))) ∧ recovery s.dev = false ∧ (l.find? (fun e => !hostAllows s.dev true e.2.1)).map (·.1) = some j) ∧
    (∃ (s : State) (r : Fin 12) (x : Desc) (l : List (Nat × Word)) (d1 : Dev) (ws : List Word), s.pwr.root = true ∧
      hostUp s.dev = true ∧ (ringGet s.dev r).desc = some x ∧ (ringGet s.dev r).orphan = false ∧ dByte x 0 = 4 ∧
      1 ≤ dByte x 4 ∧ dByte x 4 ≤ 11 ∧ l = (List.range (dByte x 4)).map (fun j => (j, dWord x (2 + j))) ∧ ((∀ e ∈ l,
      hostAllows s.dev false e.2 = true)) ∧ hostReadEach l s.dev = (d1, ws, none)) ∧
    (∃ (s : State) (r : Fin 12) (x : Desc) (l : List (Nat × Word)) (j : Nat), s.pwr.root = true ∧ hostUp s.dev = true ∧
      (ringGet s.dev r).desc = some x ∧ (ringGet s.dev r).orphan = false ∧ dByte x 0 = 4 ∧ 1 ≤ dByte x 4 ∧ dByte x 4 ≤ 11 ∧
      l = (List.range (dByte x 4)).map (fun j => (j, dWord x (2 + j))) ∧
      (l.find? (fun e => !hostAllows s.dev false e.2)).map (·.1) = some j) ∧
    (∃ (s : State) (r : Fin 12) (x : Desc) (buf : List Byte) (off : Nat) (len : Nat), s.pwr.root = true ∧
      hostUp s.dev = true ∧ (ringGet s.dev r).desc = some x ∧ (ringGet s.dev r).orphan = false ∧ dByte x 0 = 0x10 ∧
      off = (dWord x 1).toNat ∧ len = (dWord x 2).toNat ∧ off % 32 = 0 ∧ len % 32 = 0 ∧ 32 ≤ len ∧ len ≤ 65536 ∧
      off + len ≤ 0xF80000) ∧
    (∃ (s : State) (r : Fin 12) (x : Desc) (buf : List Byte) (off : Nat) (len : Nat) (d1 : Dev) (d2 : Dev),
      s.pwr.root = true ∧ hostUp s.dev = true ∧ (ringGet s.dev r).desc = some x ∧ (ringGet s.dev r).orphan = false ∧
      dByte x 0 = 0x10 ∧ off = (dWord x 1).toNat ∧ len = (dWord x 2).toNat ∧ off % 32 = 0 ∧ len % 32 = 0 ∧ 32 ≤ len ∧
      len ≤ 65536 ∧ off + len ≤ 0xF80000 ∧
      (if (dByte x 0x0C).testBit 0 then imageErase ((List.range ((off + len - 1) / 65536 + 1 - off / 65536)).map (fun i => 2 ^ 24 + 65536 * (off / 65536 + i))) s.dev else (s.dev,
      none)) = (d1, none) ∧ imageLines buf len ((List.range (len / 32)).map (fun i => (i, 2 ^ 24 + off + 32 * i))) d1 = (d2,
      none)) :=
  ⟨⟨on fun d => wr (rOn 1 d) (HOST.RHIDX 1) 1, 1, ds [0x1010] 0x01000000, .descriptorFetch 1 true (ds [0x1010] 0x01000000),
      (on fun d => wr (rOn 1 d) (HOST.RHIDX 1) 1).dev, by decide +kernel⟩,
   ⟨on fun d => ringPut (wr (rOn 0 d) (HOST.RHIDX 0) 1) 0 { wrong := 1 }, 0, ds [0x1007] 0x01000000,
      .descriptorReread 0 true (ds [0x1007] 0x01000000),
      advance (on fun d => ringPut (wr (rOn 0 d) (HOST.RHIDX 0) 1) 0 { wrong := 1 }).dev 600, by decide +kernel⟩,
   ⟨on fun d => wr (rOn 0 d) (HOST.RHIDX 0) 1, 0, ds [0x2001] 0x01000000, .descriptorFetch 0 true (ds [0x2001] 0x01000000),
      (on fun d => wr (rOn 0 d) (HOST.RHIDX 0) 1).dev, by decide +kernel⟩,
   ⟨on fun d => ringPut (wr (rOn 0 d) (HOST.RHIDX 0) 1) 0 { wrong := 2 }, 0, ds [0x1001] 0,
      .descriptorReread 0 true (ds [0x1001] 0),
      advance (on fun d => ringPut (wr (rOn 0 d) (HOST.RHIDX 0) 1) 0 { wrong := 2 }).dev 600, by decide +kernel⟩,
   ⟨on fun d => ringPut (wr (rOn 0 d) (HOST.RHIDX 0) 1) 0 { wrong := 3 }, 0, ds [0x1001] 0,
      .descriptorReread 0 true (ds [0x1001] 0),
      advance (on fun d => ringPut (wr (rOn 0 d) (HOST.RHIDX 0) 1) 0 { wrong := 3 }).dev 600, by decide +kernel⟩,
   ⟨on fun d => rDesc 0 (ds [0x1001] 0x01000000) d, 0, ds [0x1001] 0x01000000, 1, by decide⟩,
   ⟨on fun d => rDesc 0 (ds [0x1002, 0, 0xFFFE] 0x01000000) d, 0, ds [0x1002, 0, 0xFFFE] 0x01000000, 2,
      armOp (on fun d => rDesc 0 (ds [0x1002, 0, 0xFFFE] 0x01000000) d).dev (maskGroups 0xFFFE) 0, by decide +kernel⟩,
   ⟨on fun d => rDesc 0 (ds [0x1002, 0, 0, 0, 3] 0x01000000) d, 0, ds [0x1002, 0, 0, 0, 3] 0x01000000, 2, by decide⟩,
   ⟨on fun d => rDesc 0 (ds [0x1005, 15] 0x01000000) d, 0, ds [0x1005, 15] 0x01000000, 5, by decide⟩,
   ⟨on fun d => rDesc 0 (ds [0x1005, 16] 0x01000000) d, 0, ds [0x1005, 16] 0x01000000, 5, by decide⟩,
   ⟨on fun d => rDesc 0 (ds [0x1006] 0x01000000) d, 0, ds [0x1006] 0x01000000, 6, by decide⟩,
   ⟨on fun d => sf (rDesc 0 (ds [0x1006] 0x01000000) d) CXLC.MBXINST CXLC.MBXINST_FULL 1, 0, ds [0x1006] 0x01000000, 6,
      by decide⟩,
   ⟨on fun d => (fun e : Dev => { e with boot := { e.boot with stage := 0 } }) <| wr (wr (rDesc 0 (ds [0x1003, 2,
      0x40000000, 5, 0x4000000C, 6] 0x01000000) d) CXLC.HWMASKLO 0xFFFFFFFF) CXLC.HRMASKLO 0xFFFFFFFF, 0, ds [0x1003, 2,
      0x40000000, 5, 0x4000000C, 6] 0x01000000, [(0, 0x40000000, 5), (1, 0x4000000C, 6)], (hostWriteEach [(0, 0x40000000,
      5), (1, 0x4000000C,
      6)] (on fun d => (fun e : Dev => { e with boot := { e.boot with stage := 0 } }) <| wr (wr (rDesc 0 (ds [0x1003, 2,
      0x40000000, 5, 0x4000000C, 6] 0x01000000) d) CXLC.HWMASKLO 0xFFFFFFFF) CXLC.HRMASKLO 0xFFFFFFFF).dev).1,
      by decide +kernel⟩,
   ⟨on fun d => rDesc 0 (ds [0x1003, 2, 0x40000000, 5, 0x4000000C, 6] 0x01000000) d, 0, ds [0x1003, 2, 0x40000000, 5,
      0x4000000C, 6] 0x01000000, [(0, 0x40000000, 5), (1, 0x4000000C, 6)], 0, by decide⟩,
   ⟨on fun d => wr (wr (rDesc 0 (ds [0x1004, 2, 0x40000000,
      0x40000004] 0x01000000) d) CXLC.HWMASKLO 0xFFFFFFFF) CXLC.HRMASKLO 0xFFFFFFFF, 0, ds [0x1004, 2, 0x40000000,
      0x40000004] 0x01000000, [(0, 0x40000000), (1, 0x40000004)], (hostReadEach [(0, 0x40000000), (1,
      0x40000004)] (on fun d => wr (wr (rDesc 0 (ds [0x1004, 2, 0x40000000,
      0x40000004] 0x01000000) d) CXLC.HWMASKLO 0xFFFFFFFF) CXLC.HRMASKLO 0xFFFFFFFF).dev).1, (hostReadEach [(0, 0x40000000),
      (1, 0x40000004)] (on fun d => wr (wr (rDesc 0 (ds [0x1004, 2, 0x40000000,
      0x40000004] 0x01000000) d) CXLC.HWMASKLO 0xFFFFFFFF) CXLC.HRMASKLO 0xFFFFFFFF).dev).2.1, by decide +kernel⟩,
   ⟨on fun d => rDesc 0 (ds [0x1004, 2, 0x40000000, 0x40000004] 0x01000000) d, 0, ds [0x1004, 2, 0x40000000,
      0x40000004] 0x01000000, [(0, 0x40000000), (1, 0x40000004)], 0, by decide⟩,
   ⟨on fun d => rDesc 1 (ds [0x1010, 0xF7FFE0, 32, 0] 0x01000000) d, 1, ds [0x1010, 0xF7FFE0, 32, 0] 0x01000000, [],
      0xF7FFE0, 32, by decide⟩,
   ⟨on fun d => rDesc 1 (ds [0x1010, 0xF7FFE0, 32, 0] 0x01000000) d, 1, ds [0x1010, 0xF7FFE0, 32, 0] 0x01000000,
      List.replicate 48 7, 0xF7FFE0, 32, (on fun d => rDesc 1 (ds [0x1010, 0xF7FFE0, 32, 0] 0x01000000) d).dev,
      (imageLines (List.replicate 48 7) 32 [(0, 2 ^ 24 + 0xF7FFE0)] (on fun d => rDesc 1 (ds [0x1010, 0xF7FFE0, 32,
      0] 0x01000000) d).dev).1, by decide +kernel⟩⟩

theorem witness_RingsDeliverAndAreSetUp :
    (∃ (s : State) (q : HostEv) (l : List HostEv), s.pwr.root = true ∧ served s.dev = true ∧ ringOn s.dev 2 = true ∧
      0 < ringRoom s.dev 2 ∧ s.dev.hostSt.rstDone = none ∧ s.dev.evHold = q :: l) ∧
    (∃ (s : State), s.pwr.root = true ∧ s.dev.evHold.length < 32) ∧
    (∃ (s : State) (r : Fin 12) (f : RingFly) (l : List RingFly), s.pwr.root = true ∧ (ringGet s.dev r).fly = f :: l) ∧
    (∃ (s : State), s.pwr.root = true ∧ s.dev.hostSt.dirty = true ∧ served s.dev = true ∧ rd s.dev HOST.HSTLO ≠ 0) ∧
    (∃ (s : State) (v : Fin 32) (x : VecSt), s.pwr.root = true ∧ x = look s.dev.hostSt.vec v {} ∧ x.p ≠ 0 ∧ x.cov = x.p ∧
      max 1 (gf s.dev (HOST.VMOD v) HOST.VMOD_CNT) ≤ x.p) ∧
    (∃ (s : State) (k : Fin 8) (x : OqRes), s.pwr.root = true ∧ hostWrites s.dev = true ∧ ringOn s.dev (4 + k) = true ∧
      s.dev.spill.find? (fun y => y.ring = k.val) = none ∧ s.dev.oq.find? (fun y => y.ring = k.val) = some x ∧
      x.recs.length ≤ ringRoom s.dev (4 + k)) ∧
    (∃ (s : State) (x : SnapSt) (l : List SnapSt), s.pwr.root = true ∧ s.dev.snReady = x :: l ∧ hostWrites s.dev = true ∧
      ringOn s.dev 3 = true ∧ 0 < ringRoom s.dev 3) ∧
    (∃ (s : State) (line : Fin 64), s.pwr.root = true ∧ look s.dev.hostSt.line line 0 = 2) ∧
    (∃ (s : State) (line : Fin 64) (r : Fin 12) (data : List Word) (p : Word), s.pwr.root = true ∧
      1 ≤ look s.dev.hostSt.line line 0 ∧ look s.dev.hostSt.line line 0 ≤ 2 ∧ ringOn s.dev r = true ∧
      gf s.dev (HOST.RCFG r) HOST.RCFG_DBLINE = line ∧ ((∀ q : Nat, q < 12 → q ≠ r →
      ringOn s.dev q = false ∨ gf s.dev (HOST.RCFG q) HOST.RCFG_DBLINE ≠ line)) ∧
      p = data.getD (gf s.dev (HOST.RCFG r) HOST.RCFG_DBWORD) 0 ∧ r < 2 ∧ atOrPast p (ringHost s.dev r) = true ∧
      (p - ringIdx s.dev r).toNat ≤ ringN s.dev r) ∧
    (∃ (s : State) (line : Fin 64) (r : Fin 12) (data : List Word) (p : Word), s.pwr.root = true ∧
      1 ≤ look s.dev.hostSt.line line 0 ∧ look s.dev.hostSt.line line 0 ≤ 2 ∧ ringOn s.dev r = true ∧
      gf s.dev (HOST.RCFG r) HOST.RCFG_DBLINE = line ∧ ((∀ q : Nat, q < 12 → q ≠ r →
      ringOn s.dev q = false ∨ gf s.dev (HOST.RCFG q) HOST.RCFG_DBLINE ≠ line)) ∧
      p = data.getD (gf s.dev (HOST.RCFG r) HOST.RCFG_DBWORD) 0 ∧ r < 2 ∧
      ((atOrPast p (ringHost s.dev r) = false ∨ ringN s.dev r < (p - ringIdx s.dev r).toNat))) ∧
    (∃ (s : State) (line : Fin 64) (r : Fin 12) (data : List Word) (p : Word), s.pwr.root = true ∧
      1 ≤ look s.dev.hostSt.line line 0 ∧ look s.dev.hostSt.line line 0 ≤ 2 ∧ ringOn s.dev r = true ∧
      gf s.dev (HOST.RCFG r) HOST.RCFG_DBLINE = line ∧ ((∀ q : Nat, q < 12 → q ≠ r →
      ringOn s.dev q = false ∨ gf s.dev (HOST.RCFG q) HOST.RCFG_DBLINE ≠ line)) ∧
      p = data.getD (gf s.dev (HOST.RCFG r) HOST.RCFG_DBWORD) 0 ∧ 2 ≤ r.val ∧ atOrPast p (ringHost s.dev r) = true ∧
      atOrPast (ringIdx s.dev r) p = true) ∧
    (∃ (s : State) (line : Fin 64) (r : Fin 12) (data : List Word) (p : Word), s.pwr.root = true ∧
      1 ≤ look s.dev.hostSt.line line 0 ∧ look s.dev.hostSt.line line 0 ≤ 2 ∧ ringOn s.dev r = true ∧
      gf s.dev (HOST.RCFG r) HOST.RCFG_DBLINE = line ∧ ((∀ q : Nat, q < 12 → q ≠ r →
      ringOn s.dev q = false ∨ gf s.dev (HOST.RCFG q) HOST.RCFG_DBLINE ≠ line)) ∧
      p = data.getD (gf s.dev (HOST.RCFG r) HOST.RCFG_DBWORD) 0 ∧ 2 ≤ r.val ∧
      ((atOrPast p (ringHost s.dev r) = false ∨ atOrPast (ringIdx s.dev r) p = false))) ∧
    (∃ (s : State) (line : Fin 64), s.pwr.root = true ∧ gf s.dev HOST.DBPOLL HOST.DBPOLL_US ≠ 0) ∧
    (∃ (s : State) (r : Fin 12) (v : Word) (w : Word), s.pwr.root = true ∧ served s.dev = true ∧ recovery s.dev = false ∧
      ((r.val ≠ 2 ∨ s.dev.hostSt.reject = none)) ∧ w = v &&& 0x81FFFFE0 ∧ fget HOST.RCFG_EN v = 1 ∧
      gf s.dev (HOST.RCFG r) HOST.RCFG_EN = 0 ∧ ringRefused s.dev w = false ∧ (ringGet s.dev r).desc = none ∧
      (ringGet s.dev r).fly = []) ∧
    (∃ (s : State) (r : Fin 12) (v : Word) (w : Word), s.pwr.root = true ∧ served s.dev = true ∧ recovery s.dev = false ∧
      ((r.val ≠ 2 ∨ s.dev.hostSt.reject = none)) ∧ w = v &&& 0x81FFFFE0 ∧ fget HOST.RCFG_EN v = 1 ∧
      gf s.dev (HOST.RCFG r) HOST.RCFG_EN = 0 ∧ ringRefused s.dev w = true) ∧
    (∃ (s : State) (r : Fin 12) (v : Word) (w : Word), s.pwr.root = true ∧ served s.dev = true ∧ recovery s.dev = false ∧
      ((r.val ≠ 2 ∨ s.dev.hostSt.reject = none)) ∧ w = v &&& 0x81FFFFE0 ∧ fget HOST.RCFG_EN v = 0) ∧
    (∃ (s : State) (v : Word), s.pwr.root = true ∧ served s.dev = true ∧ recovery s.dev = false ∧ ringsOff s.dev = true ∧
      fget HOST.HFMT_RMAJ v = 1 ∧ fget HOST.HFMT_RMIN v ≤ 1 ∧ fget HOST.HFMT_CMAJ v = 1 ∧ fget HOST.HFMT_CMIN v ≤ 1) ∧
    (∃ (s : State) (v : Word), s.pwr.root = true ∧ served s.dev = true ∧ recovery s.dev = false ∧
      ((ringsOff s.dev = false ∨ fget HOST.HFMT_RMAJ v ≠ 1 ∨ fget HOST.HFMT_CMAJ v ≠ 1))) ∧
    (∃ (s : State) (k : Fin 64) (v : Word), s.pwr.root = true ∧ served s.dev = true ∧ ((∀ r : Nat, r < 12 →
      gf s.dev (HOST.RCFG r) HOST.RCFG_EN = 1 → gf s.dev (HOST.RCFG r) HOST.RCFG_DBLINE ≠ k))) ∧
    (∃ (s : State) (k : Fin 64) (v : Word) (r : Fin 12), s.pwr.root = true ∧ served s.dev = true ∧
      gf s.dev (HOST.RCFG r) HOST.RCFG_EN = 1 ∧ gf s.dev (HOST.RCFG r) HOST.RCFG_DBLINE = k) :=
  ⟨⟨on fun d => { rOn 2 d with evHold := [{ typ := 0x85 }] }, { typ := 0x85 }, [], by decide⟩,
   ⟨live, by decide⟩,
   ⟨on fun d => ringPut d 11 { fly := [⟨1, 4096, [], none, none, none, none⟩] }, 11, ⟨1, 4096, [], none, none, none, none⟩,
      [], by decide⟩,
   ⟨on fun d => wr (hSet (hUp d) (fun h => { h with dirty := true })) HOST.HSTLO 0x1000, by decide⟩,
   ⟨on fun d => hSet d (fun h => { h with vec := [(31, { p := 1, cov := 1 })] }), 31, { p := 1, cov := 1 }, by decide⟩,
   ⟨on fun d => { rOn 11 d with oq := [⟨7, [[]]⟩] }, 7, ⟨7, [[]]⟩, by decide⟩,
   ⟨on fun d => { rOn 3 d with snReady := [snap0] }, snap0, [], by decide⟩,
   ⟨on fun d => hSet d (fun h => { h with line := [(63, 2)] }), 63, by decide⟩,
   ⟨on fun d => wr (hSet (rOn 1 d) (fun h => { h with line := [(0, 1)] })) (HOST.RHIDX 1) 0, 0, 1, [16], 16, by decide⟩,
   ⟨on fun d => wr (hSet (rOn 1 d) (fun h => { h with line := [(0, 1)] })) (HOST.RHIDX 1) 0, 0, 1, [17], 17, by decide⟩,
   ⟨on fun d => wr (wr (hSet (rOn 11 d) (fun h => { h with line := [(0, 2)] })) (HOST.RHIDX 11) 1) (HOST.RIDX 11) 5, 0, 11,
      [5], 5, by decide⟩,
   ⟨on fun d => wr (hSet (rOn 11 d) (fun h => { h with line := [(0, 1)] })) (HOST.RHIDX 11) 1, 0, 11, [2], 2, by decide⟩,
   ⟨live, 0, by decide⟩,
   ⟨on fun d => wr (wr (hUp d) (HOST.DBLO 0) 64) HOST.HSTLO 64, 11, 0x81000000, 0x81000000, by decide⟩,
   ⟨on fun d => hUp d, 11, 0x81000000, 0x81000000, by decide⟩,
   ⟨on fun d => hUp d, 11, 0, 0, by decide⟩,
   ⟨on fun d => hUp d, 0x01010101, by decide⟩,
   ⟨on fun d => hUp d, 0x02010101, by decide⟩,
   ⟨on fun d => hUp d, 63, 0, by decide⟩,
   ⟨on fun d => sf (rOn 11 d) (HOST.RCFG 11) HOST.RCFG_DBLINE 63, 63, 0, 11, by decide⟩⟩

theorem witness_CxlLinkMemoryAndResets :
    (∃ (s : State) (w : Fin 4) (spd : Fin 6), s.pwr.root = true ∧ gf s.dev CXLC.CXCFG CXLC.CXCFG_EN = 1 ∧
      ((linkState s.dev = 0 ∨ linkState s.dev = 1)) ∧ spd ≠ 0) ∧
    (∃ (s : State), s.pwr.root = true ∧ linkState s.dev = 2) ∧
    (∃ (s : State), s.pwr.root = true ∧ linkState s.dev = 3) ∧
    (∃ (s : State), s.pwr.root = true ∧ linkState s.dev = 1) ∧
    (∃ (s : State), s.pwr.root = true ∧ hostUp s.dev = true) ∧
    (∃ (s : State) (r : Fin 12) (a : Nat) (n : Nat) (v : Option Word), s.pwr.root = true ∧ served s.dev = true) ∧
    (∃ (s : State) (base : Nat) (size : Nat) (skip : Nat) (ways : Nat) (gran : Nat), s.pwr.root = true ∧ size % 2 ^ 28 = 0 ∧
      size ≠ 0 ∧ ways ∈ [1, 2, 4, 8] ∧ gran ∈ [256, 512, 1024, 2048, 4096, 8192, 16384] ∧ skip + size / ways ≤ ddrCap s.dev) ∧
    (∃ (s : State) (base : Nat) (size : Nat) (skip : Nat) (ways : Nat) (gran : Nat), s.pwr.root = true ∧ size % 2 ^ 28 ≠ 0) ∧
    (∃ (s : State) (a : Nat) (x : Nat) (b : List Byte), s.pwr.root = true ∧ memActive s.dev = true ∧
      hdmDpa s.dev (a / 64 * 64) = some x ∧ b.length = 64) ∧
    (∃ (s : State) (a : Nat) (x : Nat), s.pwr.root = true ∧ memActive s.dev = true ∧ hdmDpa s.dev (a / 64 * 64) = some x ∧
      s.dev.ddrUnk = false ∧ ((∀ i : Nat, i < 16 → look s.dev.ecc (keyDdr (x + 4 * i) / 4) 0 = 0))) ∧
    (∃ (s : State) (a : Nat) (w : Option (List Byte)), s.pwr.root = true ∧
      ((memActive s.dev = false ∨ hdmDpa s.dev (a / 64 * 64) = none))) ∧
    (∃ (s : State) (g : Nat), s.pwr.root = true ∧ look s.dev.bias g 0 = 0 ∧ ((∃ c ∈ granuleLanes s.dev g,
      ∀ x ∈ (celGranules s.dev c).takeWhile (· != g), look s.dev.bias x 0 ≠ 0)) ∧ hostUp s.dev = true) ∧
    (∃ (s : State) (g : Nat), s.pwr.root = true ∧ look s.dev.bias g 0 = 1 ∧ ((∀ c ∈ granuleLanes s.dev g,
      (look s.dev.cel c {}).hold = []))) ∧
    (∃ (s : State) (g : Nat) (c : Nat) (w : Word) (t : Nat), s.pwr.root = true ∧ look s.dev.bias g 0 = 1 ∧
      granuleLanes s.dev g = [c] ∧ (look s.dev.cel c {}).hold = [(w, t)] ∧
      (celBase s.dev c + 0x40 + 4 * ((look s.dev.cel c {}).count % celLen s.dev c)) / 2 ^ 21 = g) ∧
    (∃ (s : State) (o : Nat) (v : Word) (r : Reg) (m : Word) (bad : Bool), s.pwr.root = true ∧ gateOpen s.dev 18 = true ∧
      o < 0x800 ∧ cxlcTicked o v = some (r, m, bad) ∧ bad = false) ∧
    (∃ (s : State) (o : Nat) (v : Word) (r : Reg) (m : Word) (bad : Bool), s.pwr.root = true ∧ gateOpen s.dev 18 = true ∧
      o < 0x800 ∧ cxlcTicked o v = some (r, m, bad) ∧ bad = true) :=
  ⟨⟨on fun d => sf d CXLC.CXCFG CXLC.CXCFG_EN 1, 3, 5, by decide⟩,
   ⟨on fun d => hUp d, by decide⟩,
   ⟨on fun d => sf d CXLC.CXSTAT CXLC.CXSTAT_LSTATE 3, by decide⟩,
   ⟨on fun d => sf d CXLC.CXSTAT CXLC.CXSTAT_LSTATE 1, by decide⟩,
   ⟨on fun d => hUp d, by decide⟩,
   ⟨on fun d => hUp d, 0, 0, 0, none, by decide⟩,
   ⟨live, 0, 2 ^ 33, 0, 1, 256, by decide⟩,
   ⟨live, 0, 64, 0, 0, 0, by decide⟩,
   ⟨on fun d => { ddrOn 2 d with ddrUnk := false, hostSt := { d.hostSt with hdm := [(0, ⟨2 ^ 40, 2 ^ 33, 0, 1, 256⟩)] } },
      2 ^ 40 + 2 ^ 33 - 64, 2 ^ 33 - 64, List.replicate 64 1, by decide⟩,
   ⟨on fun d => { ddrOn 2 d with ddrUnk := false, hostSt := { d.hostSt with hdm := [(0, ⟨2 ^ 40, 2 ^ 33, 0, 1, 256⟩)] } },
      2 ^ 40, 0, by decide⟩,
   ⟨live, 0, none, by decide⟩,
   ⟨on fun d => cel1 127 (hUp d), 0, by decide⟩,
   ⟨on fun d => { cel1 127 d with bias := [(0, 1)] }, 0, by decide⟩,
   ⟨on fun d => { cel1 127 d with bias := [(0, 1)], cel := [(127, { hold := [(5, 6)] })] }, 0, 127, 5, 6, by decide⟩,
   ⟨live, 0x1C, 0, CXLC.HRMASKHI, 0xFFFFFFFF, false, by decide⟩,
   ⟨live, 8, 0, CXLC.CXCFG, 0x8000007F, true, by decide⟩⟩

theorem witness_ChainLinksAndTime :
    (∃ (s : State) (p : Fin 3), s.pwr.root = true ∧ portSt s.dev p = 0 ∧
      (gf s.dev CHAIN.CHCFG CHAIN.CHCFG_PORTEN).testBit p = true ∧ gateOpen s.dev 17 = true) ∧
    (∃ (s : State) (p : Fin 3) (x : Peer), s.pwr.root = true ∧ portSt s.dev p = 1 ∧ wiringGood p x = false) ∧
    (∃ (s : State) (p : Fin 3) (x : Peer), s.pwr.root = true ∧ portSt s.dev p = 1 ∧ wiringGood p x = true ∧
      x.parent = false ∧ isHead s.dev = false) ∧
    (∃ (s : State) (p : Fin 3) (x : Peer), s.pwr.root = true ∧ portSt s.dev p = 1 ∧ wiringGood p x = true ∧
      x.parent = true ∧ isHead s.dev = false ∧ s.dev.chain.aligned = false ∧ 0 ≤ x.off) ∧
    (∃ (s : State) (p : Fin 3) (x : Peer), s.pwr.root = true ∧ portSt s.dev p = 1 ∧ wiringGood p x = true ∧
      x.parent = true ∧ isHead s.dev = false ∧ s.dev.chain.aligned = true ∧ x.off ≠ 0 ∧ x.off.natAbs ≤ 16384) ∧
    (∃ (s : State) (p : Fin 3) (x : Peer), s.pwr.root = true ∧ portSt s.dev p = 1 ∧ wiringGood p x = true ∧
      x.parent = true ∧ isHead s.dev = false ∧ s.dev.chain.aligned = true ∧ 16384 < x.off.natAbs) ∧
    (∃ (s : State) (p : Fin 3), s.pwr.root = true ∧ ((portUp s.dev p = true ∨ portSt s.dev p = 1))) ∧
    (∃ (s : State) (p : Fin 3) (rtt : Nat) (f : Frame) (v : Int), s.pwr.root = true ∧
      v = (rtt : Int) - (ofLeBytes (f.payload.take 8) : Int) + (BitVec.ofNat 16 (gf s.dev (CHAIN.CHPASYM p) CHAIN.CHPASYM_ASYM)).toInt ∧
      portSt s.dev p = 1) ∧
    (∃ (s : State) (p : Fin 3) (rtt : Nat) (f : Frame) (v : Int), s.pwr.root = true ∧
      v = (rtt : Int) - (ofLeBytes (f.payload.take 8) : Int) + (BitVec.ofNat 16 (gf s.dev (CHAIN.CHPASYM p) CHAIN.CHPASYM_ASYM)).toInt ∧
      portUp s.dev p = true ∧ parentPort s.dev = some p.val) ∧
    (∃ (s : State) (p : Fin 3) (m : Marker) (l : List Int), s.pwr.root = true ∧ parentPort s.dev = some p.val ∧
      portSt s.dev p = 2 ∧ l = (m.eps :: s.dev.chain.eps).take 16 ∧ s.dev.chain.fix = false ∧ s.dev.chain.jump = false) ∧
    (∃ (s : State) (p : Fin 3) (m : Marker) (l : List Int) (k : Nat), s.pwr.root = true ∧ parentPort s.dev = some p.val ∧
      portSt s.dev p = 2 ∧ l = (m.eps :: s.dev.chain.eps).take 16 ∧ s.dev.chain.fix = false ∧ s.dev.chain.jump = true ∧
      s.dev.chain.off / 32 = k) ∧
    (∃ (s : State), s.pwr.root = true ∧ slewing s.dev = true) ∧
    (∃ (s : State), s.pwr.root = true ∧ gateOpen s.dev 17 = true ∧ bitOf s.dev CHAIN.CHSTAT 4 = true ∧
      s.dev.chain.far = true) ∧
    (∃ (s : State) (p : Nat), s.pwr.root = true ∧ parentPort s.dev = some p ∧ s.dev.chain.lost = false ∧ portSt s.dev p ≠ 0) ∧
    (∃ (s : State) (p : Fin 3), s.pwr.root = true ∧ s.dev.boot.stage ≠ 10) ∧
    (∃ (s : State) (p : Fin 3) (x : Int), portSt s.dev p = 3 ∧ s.dev.chain.coarse.length < 15) ∧
    (∃ (s : State) (p : Fin 3) (x : Int), portSt s.dev p = 3 ∧ 15 ≤ s.dev.chain.coarse.length) :=
  ⟨⟨live, 0, by decide⟩,
   ⟨on fun d => portIn 2 1 d, 2, peer0, by decide⟩,
   ⟨on fun d => portIn 2 1 d, 2, ⟨3, none, false, false, 0, 0, 0⟩, by decide⟩,
   ⟨on fun d => portIn 0 1 d, 0, ⟨2, none, false, true, 0, 0, 0⟩, by decide⟩,
   ⟨on fun d => portIn 0 1 { d with chain := { d.chain with aligned := true } }, 0, ⟨2, none, false, true, -16384, 0, 0⟩,
      by decide⟩,
   ⟨on fun d => portIn 0 1 { d with chain := { d.chain with aligned := true } }, 0, ⟨2, none, false, true, -16385, 0, 0⟩,
      by decide⟩,
   ⟨on fun d => portIn 2 3 d, 2, by decide⟩,
   ⟨on fun d => portIn 2 1 d, 2, 100, frame0, 100, by decide⟩,
   ⟨on fun d => portIn 0 2 (toParent 0 d), 0, 100, frame0, 100, by decide⟩,
   ⟨on fun d => portIn 0 2 (toParent 0 d), 0, marker0, [0], by decide⟩,
   ⟨on fun d => portIn 0 2 (toParent 0 { d with chain := { d.chain with jump := true, off := 320 } }), 0, marker0, [0], 10,
      by decide⟩,
   ⟨on fun d => sf d CHAIN.CHSTAT CHAIN.CHSTAT_SLEW 1, by decide⟩,
   ⟨on fun d => setBit { d with chain := { d.chain with far := true } } CHAIN.CHSTAT 4 true, by decide⟩,
   ⟨on fun d => portIn 2 3 (toParent 2 d), 2, by decide⟩,
   ⟨live, 0, by decide⟩,
   ⟨on fun d => portIn 2 3 { d with chain := { d.chain with coarse := List.replicate 14 1 } }, 2, -1, by decide⟩,
   ⟨on fun d => portIn 2 3 { d with chain := { d.chain with coarse := List.replicate 15 1 } }, 2, -1, by decide⟩⟩

theorem witness_ChainFramesAndTopology :
    (∃ (s : State) (p : Fin 3) (f : Frame), s.pwr.root = true ∧ portUp s.dev p = true) ∧
    (∃ (s : State) (p : Fin 3) (f : Frame), s.pwr.root = true ∧ s.dev.boot.stage ≠ 10 ∧ portUp s.dev p = true ∧
      firstOf (look s.dev.chq p []) = some f ∧ portSt s.dev p = 2) ∧
    (∃ (s : State) (p : Fin 3) (f : Frame), s.pwr.root = true ∧ s.dev.boot.stage ≠ 10 ∧ portUp s.dev p = true ∧
      firstOf (look s.dev.chq p []) = some f ∧ portSt s.dev p = 3 ∧ ((f.cls = 2 ∨ f.cls = 3))) ∧
    (∃ (s : State) (a : AckWait) (l : List AckWait), s.pwr.root = true ∧ s.dev.chAck = a :: l ∧ a.tries < 3 ∧
      portUp s.dev a.port = true) ∧
    (∃ (s : State) (a : AckWait) (l : List AckWait), s.pwr.root = true ∧ s.dev.chAck = a :: l ∧ 3 ≤ a.tries) ∧
    (∃ (s : State) (t : Nat) (f : Frame) (l : List (Nat × Frame)), s.pwr.root = true ∧ s.dev.chTwice = (t, f) :: l) ∧
    (∃ (s : State) (f : Frame) (n : Nat) (per : Word), s.pwr.root = true ∧ n = ofLeBytes (f.payload.take 6) ∧
      per = BitVec.ofNat 32 (ofLeBytes ((f.payload.drop 8).take 4)) ∧ n = s.dev.tickno.toNat ∧ per = rd s.dev TICK.TICKPER) ∧
    (∃ (s : State) (f : Frame) (n : Nat) (per : Word), s.pwr.root = true ∧ n = ofLeBytes (f.payload.take 6) ∧
      per = BitVec.ofNat 32 (ofLeBytes ((f.payload.drop 8).take 4)) ∧
      ((n ≠ s.dev.tickno.toNat ∨ per ≠ rd s.dev TICK.TICKPER))) ∧
    (∃ (s : State) (f : Frame) (i : Nat) (a : Nat), s.pwr.root = true ∧ inScope s.dev f = true ∧ f.nopip = false ∧
      gf s.dev CHAIN.XCFG CHAIN.XCFG_SUB = 1 ∧ f.src.toNat = gf s.dev CHAIN.XCFG CHAIN.XCFG_XLO + i ∧ i < 32 ∧
      (rd s.dev CHAIN.XSUB).getLsbD i = true ∧
      a = 32768 * gf s.dev CHAIN.XRBASE CHAIN.XRBASE_ADDR + 8192 * (f.seq.toNat % 4) + 256 * i ∧ f.payload.length ≤ 256 ∧
      ((tnoLow s.dev).setWidth 16 - f.seq).toNat < xlat s.dev) ∧
    (∃ (s : State) (f : Frame) (i : Nat) (a : Nat), s.pwr.root = true ∧ inScope s.dev f = true ∧ f.nopip = false ∧
      gf s.dev CHAIN.XCFG CHAIN.XCFG_SUB = 1 ∧ f.src.toNat = gf s.dev CHAIN.XCFG CHAIN.XCFG_XLO + i ∧ i < 32 ∧
      (rd s.dev CHAIN.XSUB).getLsbD i = true ∧
      a = 32768 * gf s.dev CHAIN.XRBASE CHAIN.XRBASE_ADDR + 8192 * (f.seq.toNat % 4) + 256 * i ∧ f.payload.length ≤ 256 ∧
      xlat s.dev ≤ ((tnoLow s.dev).setWidth 16 - f.seq).toNat ∧ ((tnoLow s.dev).setWidth 16 - f.seq).toNat < 32768) ∧
    (∃ (s : State) (l : List UnitInfo) (h : UnitInfo), s.pwr.root = true ∧ isHead s.dev = true ∧
      l.find? (fun u => u.parent.isNone) = some h ∧ gf s.dev CHAIN.CHSTAT CHAIN.CHSTAT_ENUM < 2 ∧
      gf s.dev CHAIN.CHCFG CHAIN.CHCFG_MAPHOLD = 0) ∧
    (∃ (s : State) (l : List UnitInfo) (h : UnitInfo), s.pwr.root = true ∧ isHead s.dev = true ∧
      l.find? (fun u => u.parent.isNone) = some h ∧ gf s.dev CHAIN.CHSTAT CHAIN.CHSTAT_ENUM < 2 ∧
      gf s.dev CHAIN.CHCFG CHAIN.CHCFG_MAPHOLD = 1) ∧
    (∃ (s : State) (l : List UnitInfo) (h : UnitInfo), s.pwr.root = true ∧ isHead s.dev = true ∧
      l.find? (fun u => u.parent.isNone) = some h ∧ gateOpen s.dev 17 = true ∧ s.dev.chain.wait = some l) ∧
    (∃ (s : State), s.pwr.root = true ∧ gateOpen s.dev 17 = true ∧ s.dev.chain.wait = none) ∧
    (∃ (s : State) (l : List UnitInfo) (u : UnitInfo) (q : Nat), s.pwr.root = true ∧ isHead s.dev = true ∧
      gf s.dev CHAIN.CHSTAT CHAIN.CHSTAT_ENUM = 2 ∧ u ∈ l ∧ pipHolder s.dev u.serial = none ∧ joinPip s.dev l u = some q ∧
      q < 512 ∧ (s.dev.chain.serial.map (·.1)).Nodup ∧ (l.map (·.serial)).Nodup ∧ ((∀ v ∈ l, v.serial ≠ u.serial →
      (pipHolder s.dev v.serial).isSome = true))) ∧
    (∃ (s : State) (l : List UnitInfo) (q : Nat) (n : Nat), s.pwr.root = true ∧ isHead s.dev = true ∧
      gf s.dev CHAIN.CHSTAT CHAIN.CHSTAT_ENUM = 2 ∧ (q, n) ∈ s.dev.chain.serial ∧ ((∀ m : Nat, (q, m) ∈ s.dev.chain.serial →
      m = n)) ∧ ((∀ u ∈ l, u.serial.toNat ≠ n)) ∧ gf s.dev (CHAIN.CHTOPO q) CHAIN.CHTOPO_V = 1 ∧ q < 512 ∧ ((∀ v ∈ l,
      (pipHolder s.dev v.serial).isSome = true))) ∧
    (∃ (s : State) (q : Nat), s.pwr.root = true ∧ gateOpen s.dev 17 = true ∧ q = gf s.dev CHAIN.CHCMD CHAIN.CHCMD_PIP ∧
      gf s.dev (CHAIN.CHTOPO q) CHAIN.CHTOPO_V = 0 ∧ gf s.dev (CHAIN.CHTOPO q) CHAIN.CHTOPO_HELD = 1) ∧
    (∃ (s : State) (q : Nat), s.pwr.root = true ∧ gateOpen s.dev 17 = true ∧ q = gf s.dev CHAIN.CHCMD CHAIN.CHCMD_PIP ∧
      gf s.dev (CHAIN.CHTOPO q) CHAIN.CHTOPO_V = 1) ∧
    (∃ (s : State) (o : Nat) (v : Word) (r : Reg) (m : Word) (bad : Bool), s.pwr.root = true ∧ gateOpen s.dev 17 = true ∧
      o < 0x800 ∧ chainTicked o v = some (r, m, bad) ∧ bad = false) ∧
    (∃ (s : State) (o : Nat) (v : Word) (r : Reg) (m : Word) (bad : Bool), s.pwr.root = true ∧ gateOpen s.dev 17 = true ∧
      o < 0x800 ∧ chainTicked o v = some (r, m, bad) ∧ bad = true) :=
  ⟨⟨on fun d => portIn 2 3 d, 2, frame0, by decide⟩,
   ⟨on fun d => portIn 2 2 { d with chq := [(2, [frame0])] }, 2, frame0, by decide⟩,
   ⟨on fun d => portIn 2 3 { d with chq := [(2, [{ frame0 with cls := 3 }])] }, 2, { frame0 with cls := 3 }, by decide⟩,
   ⟨on fun d => portIn 2 2 { d with chAck := [⟨2, frame0, 9, 2⟩] }, ⟨2, frame0, 9, 2⟩, [], by decide⟩,
   ⟨on fun d => { d with chAck := [⟨2, frame0, 9, 3⟩] }, ⟨2, frame0, 9, 3⟩, [], by decide⟩,
   ⟨on fun d => { d with chTwice := [(9, frame0)] }, 9, frame0, [], by decide⟩,
   ⟨live, { frame0 with payload := [0, 0, 0, 0, 0, 0, 0, 0] ++ leBytes 4 (rd live.dev TICK.TICKPER).toNat }, 0,
      rd live.dev TICK.TICKPER, by decide⟩,
   ⟨live, frame0, ofLeBytes ((frame0).payload.take 6), BitVec.ofNat 32 (ofLeBytes (((frame0).payload.drop 8).take 4)),
      by decide⟩,
   ⟨on fun d => wr (sf (sf d CHAIN.XCFG CHAIN.XCFG_SUB 1) CHAIN.XCFG CHAIN.XCFG_XLAT 1) CHAIN.XSUB 0x80000000,
      { frame0 with scope := 2, src := 31, payload := [1, 2, 3, 4] }, 31, 0x10001F00, by decide⟩,
   ⟨on fun d => { wr (sf (sf d CHAIN.XCFG CHAIN.XCFG_SUB 1) CHAIN.XCFG CHAIN.XCFG_XLAT 1) CHAIN.XSUB 0x80000000 with tickno := 32767 },
      { frame0 with scope := 2, src := 31, payload := [1, 2, 3, 4] }, 31, 0x10001F00, by decide⟩,
   ⟨on fun d => headOn d, [unitA, unitB], unitA, by decide⟩,
   ⟨on fun d => sf (headOn d) CHAIN.CHCFG CHAIN.CHCFG_MAPHOLD 1, [unitA, unitB], unitA, by decide⟩,
   ⟨on fun d => headOn { d with chain := { d.chain with wait := some [unitA, unitB] } }, [unitA, unitB], unitA, by decide⟩,
   ⟨live, by decide⟩,
   ⟨on fun d => sf (sf (enumOn d) CHAIN.CHVER CHAIN.CHVER_RMAJ 1) CHAIN.CHVER CHAIN.CHVER_RMIN 0, [unitA, unitB], unitB, 1,
      by decide⟩,
   ⟨on fun d => sf { enumOn d with chain := { d.chain with serial := [(0, 5), (511, 7)] } } (CHAIN.CHTOPO 511) CHAIN.CHTOPO_V 1, [unitA], 511, 7, by
        have hs : (on fun d => sf { enumOn d with chain := { d.chain with serial := [(0, 5), (511, 7)] } } (CHAIN.CHTOPO 511) CHAIN.CHTOPO_V 1).dev.chain.serial = [(0, 5), (511, 7)] := by decide +kernel
        and_intros <;> first | decide +kernel | (rw [hs]; decide) | (rw [hs]; simp) | simp⟩,
   ⟨on fun d => sf d (CHAIN.CHTOPO 0) CHAIN.CHTOPO_HELD 1, 0, by decide⟩,
   ⟨on fun d => sf d (CHAIN.CHTOPO 0) CHAIN.CHTOPO_V 1, 0, by decide⟩,
   ⟨live, 0x68, 0, CHAIN.CHPASYM 2, 0xFFFF, false, by decide⟩,
   ⟨live, 0x80, 0, CHAIN.XCFG, 0xFFF001FF, true, by decide⟩⟩

theorem witness_ClocksGatesAndClaims :
    (∃ (s : State), s.pwr.crystal = false ∧ s.dev.off = false) ∧
    (∃ (s : State), s.pwr.crystal = true ∧ s.pwr.root = false ∧ s.pwr.asleep = false ∧ s.pwr.frozen = false ∧
      s.dev.tapWait = []) ∧
    (∃ (s : State) (v : Word) (t : Nat), s.pwr.root = true ∧ s.dev.vset = some (v, t)) ∧
    (∃ (s : State) (b : Fin 19), s.pwr.root = true ∧ gateOn s.dev b = true) ∧
    (∃ (s : State) (b : Fin 19), s.pwr.root = true ∧ gateOn s.dev b = false) ∧
    (∃ (s : State) (b : Fin 19), s.pwr.root = true ∧ gateClosing s.dev b = true ∧ blockOff s.dev b = true) ∧
    (∃ (s : State) (b : Fin 19), s.pwr.root = true ∧ blockOff s.dev b = false) ∧
    (∃ (s : State) (b : Fin 19), s.pwr.root = true ∧ gateOpening s.dev b = true) ∧
    (∃ (s : State) (o : BitVec 16), s.pwr.root = true ∧ ownerOff s.dev o.toNat = true) ∧
    (∃ (s : State) (o : BitVec 16), s.pwr.root = true ∧ ownerOff s.dev o.toNat = false) :=
  ⟨⟨State.reset, by decide⟩,
   ⟨{ State.reset with pwr := ⟨true, false, false, false, false⟩ }, by decide⟩,
   ⟨on fun d => { d with vset := some (5, 9) }, 5, 9, by decide⟩,
   ⟨live, 0, by decide⟩,
   ⟨on fun d => setBit d SYSCFG.SGATE 18 false, 18, by decide⟩,
   ⟨on fun d => setBit d SYSCFG.SGPEND 16 true, 16, by decide⟩,
   ⟨on fun d => sf d (GPT.GCFG 31) GPT.GCFG_MODE 1, 0, by decide⟩,
   ⟨on fun d => setBit d SYSCFG.SGSTART 18 true, 18, by decide⟩,
   ⟨live, 0x100F, by decide⟩,
   ⟨live, 0, by decide⟩⟩

theorem witness_SleepWakeAndFreeze :
    (∃ (s : State) (code : Nat), s.pwr.root = true ∧ huskMode s.dev = 0 ∧ sleepRefuse s.dev = some code) ∧
    (∃ (s : State) (n : Nat), s.pwr.root = true ∧ huskMode s.dev = 0 ∧ n < 8 ∧ adcState s.dev n ≠ 0) ∧
    (∃ (s : State), s.pwr.root = true ∧ huskMode s.dev = 0 ∧ sleepRefuse s.dev = none) ∧
    (∃ (s : State), s.pwr.root = true ∧ s.dev.entering = true) ∧
    (∃ (s : State) (k : Fin 5), ((huskMode s.dev = 2 ∧ s.pwr.asleep = true) ∨ huskMode s.dev = 1) ∧
      wakeHolds s.dev k = true) ∧
    (∃ (s : State), s.pwr.root = true ∧ rdpLevel s.dev = 0 ∧ huskMode s.dev = 0 ∧ frz s.dev = 0) ∧
    (∃ (s : State), s.pwr.root = true ∧ rdpLevel s.dev = 0 ∧ huskMode s.dev ≠ 0) ∧
    (∃ (s : State), s.pwr.root = true ∧ rdpLevel s.dev ≠ 0) ∧
    (∃ (s : State), s.pwr.root = true ∧ frz s.dev = 1) ∧
    (∃ (s : State), s.pwr.frozen = true ∧ frz s.dev = 2) :=
  ⟨⟨on fun d => sf d CXLC.CXSTAT CXLC.CXSTAT_LSTATE 2, 2, by decide +kernel⟩,
   ⟨on fun d => adcSetState d 7 2, 7, by decide⟩,
   ⟨live, by decide +kernel⟩,
   ⟨on fun d => { d with entering := true }, by decide⟩,
   ⟨on fun d => sf (sf d HUSK.HSTAT HUSK.HSTAT_MODE 1) HUSK.HWEN HUSK.HWEN_EN 8, 4, by decide⟩,
   ⟨live, by decide⟩,
   ⟨on fun d => sf d HUSK.HSTAT HUSK.HSTAT_MODE 1, by decide⟩,
   ⟨on fun d => sf d FLASHC.FLRDP FLASHC.FLRDP_LEVEL 2, by decide⟩,
   ⟨on fun d => sf d DBG.DBGSTAT DBG.DBGSTAT_FRZ 1, by decide⟩,
   ⟨{ live with pwr := ⟨true, false, false, false, true⟩, dev := sf live.dev DBG.DBGSTAT DBG.DBGSTAT_FRZ 2 }, by decide⟩⟩

theorem witness_DebuggerReachesTheUnit :
    (∃ (s : State) (w : Bool) (i : BitVec 10) (v : Word), (s.pwr.root = true ∨ s.pwr.frozen = true) ∧ rdpLevel s.dev ≠ 0) ∧
    (∃ (s : State) (w : Bool) (i : BitVec 10) (v : Word), (s.pwr.root = true ∨ s.pwr.frozen = true) ∧ rdpLevel s.dev = 0 ∧
      frz s.dev = 2 ∧ 6 ≤ i.toNat) ∧
    (∃ (s : State) (v : Word), s.pwr.root = true ∧ rdpLevel s.dev = 0 ∧ frz s.dev ≠ 2) ∧
    (∃ (s : State), frz s.dev ≠ 2) ∧
    (∃ (s : State), frz s.dev = 2) ∧
    (∃ (s : State) (a : Nat) (inc : Nat), s.pwr.root = true ∧ a = (rd s.dev DBG.DBGMADDR).toNat ∧
      inc = (if gf s.dev DBG.DBGMCMD DBG.DBGMCMD_INC = 1 then 4 else 0) ∧ dbgBarred s.dev a false = true) ∧
    (∃ (s : State) (a : Nat) (inc : Nat), s.pwr.root = true ∧ a = (rd s.dev DBG.DBGMADDR).toNat ∧
      inc = (if gf s.dev DBG.DBGMCMD DBG.DBGMCMD_INC = 1 then 4 else 0) ∧ dbgBarred s.dev a true = true) ∧
    (∃ (s : State) (a : Nat) (inc : Nat), s.pwr.root = true ∧ a = (rd s.dev DBG.DBGMADDR).toNat ∧
      inc = (if gf s.dev DBG.DBGMCMD DBG.DBGMCMD_INC = 1 then 4 else 0) ∧ inSram a = true ∧ a % 4 = 0 ∧ rdpLevel s.dev = 0) ∧
    (∃ (s : State) (a : Nat) (inc : Nat), s.pwr.root = true ∧ a = (rd s.dev DBG.DBGMADDR).toNat ∧
      inc = (if gf s.dev DBG.DBGMCMD DBG.DBGMCMD_INC = 1 then 4 else 0) ∧ inSram a = true ∧ a % 4 = 0 ∧ rdpLevel s.dev = 0 ∧
      look s.dev.ecc (a / 4) 0 = 0) ∧
    (∃ (s : State) (v : BitVec 8), s.pwr.root = true ∧ rdpLevel s.dev = 0) ∧
    (∃ (s : State) (v : BitVec 8), s.pwr.root = true ∧ rdpLevel s.dev ≠ 0) ∧
    (∃ (s : State) (c : Fin 8), s.pwr.root = true ∧ rdpLevel s.dev = 0 ∧ (coreGet s.dev c).halt = true ∧
      isLeader s.dev c = false ∧ isFollower s.dev c = false) ∧
    (∃ (s : State) (c : Fin 8), s.pwr.root = true ∧ ((coreGet s.dev c).halt = false ∨ rdpLevel s.dev ≠ 0)) ∧
    (∃ (s : State), s.pwr.root = true ∧ gf s.dev DBG.DBGCTL DBG.DBGCTL_TRCEN = 1 ∧ rdpLevel s.dev = 0 ∧ frz s.dev ≠ 2 ∧
      s.dev.trLost = 0) ∧
    (∃ (s : State), s.pwr.root = true ∧ gf s.dev DBG.DBGCTL DBG.DBGCTL_TRCEN = 1 ∧ rdpLevel s.dev = 0 ∧ frz s.dev ≠ 2 ∧
      s.dev.trLost ≠ 0 ∧ (s.dev.trace.drop 1).length < 64) ∧
    (∃ (s : State), s.pwr.root = true ∧ gf s.dev DBG.DBGCTL DBG.DBGCTL_TRCEN = 0) ∧
    (∃ (s : State), s.pwr.root = true ∧ s.dev.trMissed ≠ 0) ∧
    (∃ (s : State) (c : Fin 8) (v : Word), s.pwr.root = true ∧ gf s.dev DBG.DBGCTL DBG.DBGCTL_TRCEN = 1 ∧
      gf s.dev DBG.DBGCTL DBG.DBGCTL_TRMARK = 1 ∧ rdpLevel s.dev = 0 ∧ s.dev.trace.length < 64) ∧
    (∃ (s : State) (c : Fin 8) (v : Word), s.pwr.root = true ∧
      (gf s.dev DBG.DBGCTL DBG.DBGCTL_TRCEN = 0 ∨ gf s.dev DBG.DBGCTL DBG.DBGCTL_TRMARK = 0)) ∧
    (∃ (s : State) (v : Word), s.pwr.root = true) :=
  ⟨⟨on fun d => wr d FLASHC.FLRDP 2, false, 0, 0, by decide⟩,
   ⟨on fun d => sf d DBG.DBGSTAT DBG.DBGSTAT_FRZ 2, false, 6, 0, by decide⟩,
   ⟨live, 0, by decide⟩,
   ⟨live, by decide⟩,
   ⟨on fun d => sf d DBG.DBGSTAT DBG.DBGSTAT_FRZ 2, by decide⟩,
   ⟨on fun d => wr d DBG.DBGMADDR 1, 1, 0, by decide⟩,
   ⟨live, 0, (if gf (live).dev DBG.DBGMCMD DBG.DBGMCMD_INC = 1 then 4 else 0), by decide⟩,
   ⟨on fun d => wr d DBG.DBGMADDR 0x10BFFFFC, 0x10BFFFFC, 0, by decide⟩,
   ⟨on fun d => wr d DBG.DBGMADDR 0x10BFFFFC, 0x10BFFFFC, 0, by decide⟩,
   ⟨live, 0, by decide⟩,
   ⟨on fun d => wr d FLASHC.FLRDP 2, 0, by decide⟩,
   ⟨on fun d => cpu [] (fun x => { x with halt := true }) d, 0, by decide⟩,
   ⟨live, 0, by decide⟩,
   ⟨on fun d => sf d DBG.DBGCTL DBG.DBGCTL_TRCEN 1, by decide⟩,
   ⟨on fun d => sf { d with trLost := 5 } DBG.DBGCTL DBG.DBGCTL_TRCEN 1, by decide⟩,
   ⟨live, by decide⟩,
   ⟨on fun d => { d with trMissed := 1 }, by decide⟩,
   ⟨on fun d => sf (sf d DBG.DBGCTL DBG.DBGCTL_TRCEN 1) DBG.DBGCTL DBG.DBGCTL_TRMARK 1, 7, 0, by decide⟩,
   ⟨live, 0, 0, by decide⟩,
   ⟨live, 0, by decide⟩⟩

theorem witness_ResetsReachTheirParts :
    (∃ (s : State) (v : Word), s.pwr.root = true ∧ v = 0x5A7C) ∧
    (∃ (s : State) (v : Word), s.pwr.root = true ∧ v ≠ 0x5A7C) ∧
    (∃ (s : State) (f : Frame) (mine : Bool), s.pwr.root = true ∧
      mine = (f.cls = 4 && f.sub = 5 && f.scope = 0 && hasPip s.dev && f.dst.toNat = ownPip s.dev && gf s.dev CHAIN.CHCFG CHAIN.CHCFG_RSTEN = 1) ∧
      mine = true) ∧
    (∃ (s : State) (f : Frame) (mine : Bool), s.pwr.root = true ∧
      mine = (f.cls = 4 && f.sub = 5 && f.scope = 0 && hasPip s.dev && f.dst.toNat = ownPip s.dev && gf s.dev CHAIN.CHCFG CHAIN.CHCFG_RSTEN = 1) ∧
      mine = false) :=
  ⟨⟨live, 0x5A7C, by decide⟩,
   ⟨live, 0, by decide⟩,
   ⟨on fun d => sf (sf d CHAIN.CHPOS CHAIN.CHPOS_V 1) CHAIN.CHCFG CHAIN.CHCFG_RSTEN 1, { frame0 with cls := 4, sub := 5 },
      true, by decide⟩,
   ⟨live, frame0,
      ((frame0).cls = 4 && (frame0).sub = 5 && (frame0).scope = 0 && hasPip (live).dev && (frame0).dst.toNat = ownPip (live).dev && gf (live).dev CHAIN.CHCFG CHAIN.CHCFG_RSTEN = 1),
      by decide⟩⟩

theorem witness_BootVotesAndConfirms :
    (∃ (s : State) (bad : List Nat) (d : Dev), s.pwr.root = true ∧ s.dev.boot.stage = 1 ∧
      d = journalScan (bootFlash s.dev) bad) ∧
    (∃ (s : State) (bad : List Nat), s.pwr.root = true ∧ s.dev.boot.stage ≠ 1) ∧
    (∃ (s : State), s.pwr.root = true ∧ s.dev.boot.stage = 8) ∧
    (∃ (s : State) (f : Frame), s.pwr.root = true ∧ s.dev.boot.stage = 0 ∧ f.cls = 4 ∧ f.sub = 7 ∧ inScope s.dev f = true ∧
      ofLeBytes (f.payload.take 4) = 2 ∧ statusLines s.dev (stgBank s.dev) = []) ∧
    (∃ (s : State) (f : Frame), s.pwr.root = true ∧ s.dev.boot.stage = 0 ∧ f.cls = 4 ∧ f.sub = 7 ∧ inScope s.dev f = true ∧
      ofLeBytes (f.payload.take 4) = 2 ∧ statusLines s.dev (stgBank s.dev) ≠ []) ∧
    (∃ (s : State) (f : Frame), s.pwr.root = true ∧ (f.cls ≠ 4 ∨ f.sub ≠ 7)) ∧
    (∃ (s : State) (v : Word), s.pwr.root = true ∧ v = 0x6B2D ∧ gf s.dev SYSCFG.BOOTSTAT SYSCFG.BOOTSTAT_CONF = 0) ∧
    (∃ (s : State) (v : Word), s.pwr.root = true ∧ (v ≠ 0x6B2D ∨ gf s.dev SYSCFG.BOOTSTAT SYSCFG.BOOTSTAT_CONF = 1)) ∧
    (∃ (s : State) (m : Nat × List Byte) (p : Nat), s.pwr.root = true ∧ s.dev.boot.stage = 8 ∧
      memberList s.dev (stgBank s.dev) = [m] ∧ routeTo s.dev m.1 = some p ∧ portUp s.dev p = true) ∧
    (∃ (s : State) (m : Nat × List Byte), s.pwr.root = true ∧ s.dev.boot.stage = 8 ∧ s.dev.boot.after = 0 ∧
      mfTries s.dev (actBank s.dev) = 0 ∧
      (memberList s.dev (stgBank s.dev)).find? (fun m => !s.dev.boot.pass.contains m.1) = some m) :=
  ⟨⟨(on fun d => { d with boot := { d.boot with stage := 1 } }), [],
      journalScan (bootFlash (on fun d => { d with boot := { d.boot with stage := 1 } }).dev) [], by decide +kernel⟩,
   ⟨on fun d => { d with boot := { d.boot with stage := 9 } }, [], by decide⟩,
   ⟨(on fun d => portIn 0 2 (toParent 0 { d with boot := { d.boot with stage := 8, after := 0 }, mem := [(keyFlash 1 7, 1)] })),
      by decide⟩,
   ⟨on fun d => { d with boot := { d.boot with stage := 0 } },
      { frame0 with cls := 4, sub := 7, scope := 2, payload := [2] }, by decide⟩,
   ⟨on fun d => { d with boot := { d.boot with stage := 0 }, flProg := [(flLineIx 1 0xF000, true)] },
      { frame0 with cls := 4, sub := 7, scope := 2, payload := [2] }, by decide⟩,
   ⟨live, frame0, by decide⟩,
   ⟨live, 0x6B2D, by decide⟩,
   ⟨live, 0, by decide⟩,
   ⟨(on fun d => portIn 0 2 (toParent 0 { d with boot := { d.boot with stage := 8, after := 0 }, mem := [(keyFlash 1 7, 1)] })),
      (0, List.replicate 48 0), 0, by decide +kernel⟩,
   ⟨(on fun d => portIn 0 2 (toParent 0 { d with boot := { d.boot with stage := 8, after := 0 }, mem := [(keyFlash 1 7, 1)] })),
      (0, List.replicate 48 0), by decide +kernel⟩⟩

theorem witness_PinsAndRegisterWrites :
    (∃ (s : State) (n : Fin 64) (lvl : Bool), s.pwr.root = true ∧ pmuxFunc s.dev n = 0) ∧
    (∃ (s : State) (n : Fin 64) (lvl : Bool), s.pwr.root = true ∧ pmuxFunc s.dev n ≠ 0 ∧ pmuxFunc s.dev n ≠ 2 ∧
      pmuxFunc s.dev n ≠ 5 ∧ s.dev.pinSyn.getLsbD n ≠ lvl) ∧
    (∃ (s : State) (n : Fin 64) (lvl : Bool), pmuxFunc s.dev n = 4 ∧ (lvl != pmuxInv s.dev n) = true) ∧
    (∃ (s : State) (n : Fin 64) (lvl : Bool), (pmuxFunc s.dev n ≠ 4 ∨ (lvl != pmuxInv s.dev n) = false)) ∧
    (∃ (s : State) (h : Fin 2) (v : Word), s.pwr.root = true) ∧
    (∃ (s : State) (n : Fin 64) (v : Word), s.pwr.root = true ∧ fget PINMUX.PMUX_FUNC v < 6) ∧
    (∃ (s : State) (ini : Initiator) (a : Nat) (size : Nat) (v : Word) (code : Nat), s.pwr.root = true ∧
      (((size ≠ 4 ∨ a % 4 ≠ 0) ∧ code = 2) ∨ (size = 4 ∧ a % 4 = 0 ∧ slotExists a = false ∧ code = 1)) ∧ ((∀ c : Fin 8,
      ini ≠ .core c))) ∧
    (∃ (s : State) (ini : Initiator) (a : Nat) (size : Nat) (v : Word) (code : Nat) (c : Fin 8), s.pwr.root = true ∧
      (((size ≠ 4 ∨ a % 4 ≠ 0) ∧ code = 2) ∨ (size = 4 ∧ a % 4 = 0 ∧ slotExists a = false ∧ code = 1)) ∧ ini = .core c ∧
      CanEnter s.dev c 10) ∧
    (∃ (s : State) (ini : Initiator) (a : Nat) (b : Nat) (v : Word), s.pwr.root = true ∧ a % 4 = 0 ∧ slotExists a = true ∧
      coreLocal a = false ∧ gateOf a = some b ∧ gateOpen s.dev b = false) ∧
    (∃ (s : State) (ini : Initiator) (v : Word), s.pwr.root = true) :=
  ⟨⟨live, 0, false, by decide⟩,
   ⟨on fun d => sf d (PINMUX.PMUX 63) PINMUX.PMUX_FUNC 1, 63, true, by decide⟩,
   ⟨on fun d => sf d (PINMUX.PMUX 63) PINMUX.PMUX_FUNC 4, 63, true, by decide⟩,
   ⟨live, 0, false, by decide⟩,
   ⟨live, 0, 0, by decide⟩,
   ⟨live, 0, 0, by decide⟩,
   ⟨live, .host, 1, 4, 0, 2, by decide⟩,
   ⟨on fun _ => (excOn 10 []).dev, .core 0, 0x400B0000, 4, 0, 1, 0, ⟨by decide, by decide, by decide, ⟨by decide +kernel,
      by decide +kernel, by decide +kernel⟩⟩⟩,
   ⟨on fun d => { d with gshut := 1 }, .host, 0x40020000, 0, 0, by decide⟩,
   ⟨live, .host, 0, by decide⟩⟩

theorem witness_PinmuxRefusesReservedFunctions :
    ∃ (s : State) (n : Fin 64) (v : Word) (a : Nat), s.pwr.root = true ∧ 6 ≤ fget PINMUX.PMUX_FUNC v ∧
      (a = 0x40300100 + 4 * n ∨ a = 0x40300900 + 4 * n) :=
  ⟨live, 63, 6, 0x403001FC, by decide⟩

theorem witness_TimeBaseStartsAtZero :
    ∃ (s : State) (v : Word) (f : Frame) (p : Fin 4) (w : Bool) (l : List Nat) (c : Instr), c ∈ [Instr.sreset v,
      .chainReset f, .pairReset p w, .watchdogExpiry p, .rdpLowering, .flr, .cxlReset, .hotReset, .cxlLinkDown, .boot l] :=
  ⟨live, 0, frame0, 3, false, [], .flr, by decide⟩

theorem witness_StoppedClocksHoldEverythingElse :
    ∃ (c : Instr) (s : State) (t : State), s.pwr.root = false ∧ exec c s = .next t ∧ t ≠ s :=
  ⟨.crystalStable, State.reset, { State.reset with pwr := ⟨true, false, false, false, false⟩ }, ⟨rfl, rfl, by decide⟩⟩

end

end Sys2Proof.Tests
end

section

namespace Sys2Proof.Machine

open Sys2Proof

/-! Commands and the devices they leave. -/

/-- A root-clocked command does what its meaning does to the device. -/
theorem does_of_clocked {c : Instr} {s : State} {P : Dev → Prop} {f : Dev → Dev} (h : exec c s = clocked s f)
    (hr : s.pwr.root = true) (hp : P (f s.dev)) : Does c s P :=
  ⟨f s.dev, h.trans (clocked_next s f hr), hp⟩

/-- A write to a register changes that register only. -/
theorem only_wr (d : Dev) (r : Reg) (v : Word) : Only d (wr d r v) [r] :=
  ⟨rfl, fun q hq => rd_wr_other d r q v (fun h => hq (List.mem_singleton.2 h))⟩

theorem only_sf (d : Dev) (r : Reg) (f : Fld) (v : Nat) : Only d (sf d r f v) [r] := only_wr d r _

theorem only_setBit (d : Dev) (r : Reg) (b : Nat) (v : Bool) : Only d (setBit d r b v) [r] := only_wr d r _

theorem RegsStay.trans {d e f : Dev} {l m : List Reg} (h : RegsStay d e l) (g : RegsStay e f m) : RegsStay d f (l ++ m) := by
  intro q hq
  simp only [List.map_append, List.mem_append, not_or] at hq
  rw [g q hq.2, h q hq.1]

theorem RegsStay.mono {d e : Dev} {l m : List Reg} (h : RegsStay d e l) (hs : l ⊆ m) : RegsStay d e m :=
  fun q hq => h q (fun hl => hq (List.map_subset Reg.addr hs hl))

theorem Only.refl (d : Dev) (l : List Reg) : Only d d l := ⟨rfl, fun _ _ => rfl⟩

theorem Only.trans {d e f : Dev} {l m : List Reg} (h : Only d e l) (g : Only e f m) : Only d f (l ++ m) := by
  obtain ⟨he, hl⟩ := h
  obtain ⟨hf, hm⟩ := g
  exact ⟨by rw [hf, he], RegsStay.trans hl hm⟩

theorem Only.mono {d e : Dev} {l m : List Reg} (h : Only d e l) (hs : l ⊆ m) : Only d e m :=
  ⟨h.1, RegsStay.mono h.2 hs⟩

/-- What an operation on registers alone leaves of the registers. -/
theorem Only.regsStay {d e : Dev} {l : List Reg} (h : Only d e l) : RegsStay d e l := h.2

/-- After an operation on one register every other one reads as before. -/
theorem Only.rd_other {d e : Dev} {r : Reg} (h : Only d e [r]) (q : Reg) (hq : q.addr ≠ r.addr) : rd e q = rd d q :=
  h.2 q (fun hm => hq (List.mem_singleton.1 hm))

/-! Bits and flags. -/

theorem getLsbD_bit (b : Nat) {i : Nat} (hi : i < 32) : (bit b).getLsbD i = decide (b = i) := by
  rw [bit, BitVec.getLsbD_twoPow]
  by_cases h : b = i <;> simp [h, hi]

theorem rd_setBit_true (d : Dev) (r : Reg) (b : Nat) : rd (setBit d r b true) r = rd d r ||| bit b := by
  unfold setBit
  rw [rd_sf_same]
  refine BitVec.eq_of_getLsbD_eq fun i hi => ?_
  rw [getLsbD_fset, BitVec.getLsbD_or, getLsbD_bit b hi]
  by_cases hb : b = i
  · subst hb; simp [hi]
  · rw [if_neg (by dsimp only; omega)]
    simp [hi, hb]

/-- Setting a bit that stands changes nothing. -/
theorem or_bit_of_getLsbD {w : Word} {b : Nat} (h : w.getLsbD b = true) : w ||| bit b = w := by
  refine BitVec.eq_of_getLsbD_eq fun i hi => ?_
  rw [BitVec.getLsbD_or, getLsbD_bit b hi]
  by_cases hb : b = i
  · subst hb; simp [h]
  · simp [hb]

/-- A source that exists rises, and nothing else changes (R470). -/
theorem raise_eq (d : Dev) {src : Nat} (h : srcReserved src = false) : raise d src = setBit d (ipend src) (src % 32) true := by
  simp [raise, h, ipend]

theorem raise_rises (d : Dev) {src : Nat} (h : srcReserved src = false) : Rises d (raise d src) src := by
  rw [raise_eq d h]
  exact rd_setBit_true d (ipend src) (src % 32)

theorem only_raise (d : Dev) (src : Nat) : Only d (raise d src) [ipend src] := by
  unfold raise
  split
  · exact Only.refl d _
  · exact only_setBit d (ipend src) _ _

theorem only_setFlag (d : Dev) (r : Reg) (b ie src : Nat) : Only d (setFlag d r b ie src) [r, ipend src] := by
  unfold setFlag
  split
  · exact Only.refl d _
  · split
    · exact (only_setBit d r b true).trans (only_raise _ src)
    · exact (only_setBit d r b true).mono (List.cons_subset_cons r (List.nil_subset _))

/-- A status flag is set with its source (R18, R470). -/
theorem setFlag_flagUp (d : Dev) (r : Reg) (b ie src : Nat) (hs : srcReserved src = false) (hr : (ipend src).addr ≠ r.addr) :
    FlagUp d (setFlag d r b ie src) r b ie src := by
  have hpend : rd (setBit d r b true) (ipend src) = rd d (ipend src) := (only_setBit d r b true).rd_other _ hr
  unfold setFlag
  by_cases hb : bitOf d r b = true
  · rw [if_pos hb]
    exact ⟨(or_bit_of_getLsbD hb).symm, by simp [hb]⟩
  · rw [if_neg hb]
    by_cases he : ie.testBit b = true
    · rw [if_pos he]
      have hup : rd (raise (setBit d r b true) src) r = rd (setBit d r b true) r := (only_raise _ src).rd_other r hr.symm
      refine ⟨by rw [hup, rd_setBit_true], ?_⟩
      rw [raise_rises _ hs, hpend]
      simp [hb, he]
    · rw [if_neg he]
      exact ⟨rd_setBit_true d r b, by rw [hpend]; simp [he]⟩

/-! Pending copies and the items for a twin partner (R19, R454). -/

/-- From `d` to `e` items may have gone to the twin partner, and nothing else has changed. -/
def MirroredFrom (d e : Dev) : Prop := e = { d with twin := e.twin, chq := e.chq, chSeq := e.chSeq }

theorem MirroredFrom.trans {d e f : Dev} (h : MirroredFrom d e) (g : MirroredFrom e f) : MirroredFrom d f := by
  unfold MirroredFrom at *
  rw [g, h]

theorem mirroredFrom_toPartner (d : Dev) (cls sub : Nat) (payload : List Byte) : MirroredFrom d (toPartner d cls sub payload) := by
  unfold toPartner
  dsimp only
  split <;> rfl

theorem mirroredFrom_mirSend (l : List MirItem) : ∀ d : Dev, MirroredFrom d (mirSend l d) := by
  induction l with
  | nil => intro d; rfl
  | cons it l ih =>
    intro d
    rw [mirSend]
    split
    · have hsent : MirroredFrom d { d with twin := { d.twin with sent := d.twin.sent + mirSize it } } := rfl
      exact (hsent.trans (mirroredFrom_toPartner _ _ _ _)).trans (ih _)
    · rfl

theorem mirroredFrom_mirror (d : Dev) (it : MirItem) : MirroredFrom d (mirror d it) := by
  unfold mirror
  split
  · exact mirroredFrom_mirSend _ d
  · rfl

/-- An accepted write to a pending copy sets that copy alone (R19, R20). -/
theorem wrPend_pendingTo (d : Dev) (r : Reg) (v : Word) : PendingTo d (wrPend d r v) r v := by
  have hm : MirroredFrom (setPend d r v) (wrPend d r v) := mirroredFrom_mirror _ _
  have hp : ∀ q : Reg, rdPend (wrPend d r v) q = rdPend (setPend d r v) q := fun q => by rw [hm]; rfl
  refine ⟨by rw [hp, rdPend_setPend_same], fun q hq => by rw [hp, rdPend_setPend_other d r q v hq], ?_⟩
  rw [hm]
  rfl

end Sys2Proof.Machine

end

section

namespace Sys2Proof.Machine

open Sys2Proof

/-! Configuration writes of the converters and references (R20, R72, R93, R106). -/

/-- A write inside converter `n` goes to the ticked register of its offset, or is refused with the error flag. -/
theorem writeAdcTicked_converter (d : Dev) (n : Fin 8) (o : Nat) (v : Word) {r : Reg} {m : Word} {bad : Bool}
    (ho : o < 0x1000) (hg : gateOpen d (1 + n) = true) (ht : adcTicked n (tickedOff o) v = some (r, m, bad)) :
    writeAdcTicked d (0x40100000 + 0x1000 * n + o) v = if bad then adcFlag d n 6 else wrPend d r (v &&& m) := by
  have hn := n.isLt
  have hnum : (0x40100000 + 0x1000 * (n : Nat) + o - 0x40100000) / 0x1000 = n := by omega
  have hoff : (0x40100000 + 0x1000 * (n : Nat) + o - 0x40100000) % 0x1000 = o := by omega
  have href : (decide (0x40100000 + 0x1000 * (n : Nat) + o = 0x40108000)
      || decide (0x40100000 + 0x1000 * (n : Nat) + o = 0x40108800)) = false := by
    simp only [Bool.or_eq_false_iff, decide_eq_false_iff_not]; omega
  have hin : (decide (0x40100000 ≤ 0x40100000 + 0x1000 * (n : Nat) + o)
      && decide (0x40100000 + 0x1000 * (n : Nat) + o < 0x40108000)) = true := by
    simp only [Bool.and_eq_true, decide_eq_true_eq]; omega
  simp only [writeAdcTicked, href, hin, hnum, hoff, hg, ht, if_true, Bool.false_eq_true, if_false]

theorem writeAdcTicked_refctl (d : Dev) (v : Word) (hg : gateOpen d 9 = true) :
    writeAdcTicked d 0x40108000 v = wrPend d REF.REFCTL (v &&& 0xFF) := by
  simp [writeAdcTicked, hg]

/-- A flag of a converter is set with its source, and nothing else changes. -/
theorem adcFlag_flagUp (d : Dev) (n : Fin 8) (b : Nat) :
    FlagUp d (adcFlag d n b) (ADC.ASTAT n) b (gf d (ADC.ASEL n) ADC.ASEL_IE) (48 + n)
      ∧ Only d (adcFlag d n b) [ADC.ASTAT n, ipend (48 + n)] := by
  have hn := n.isLt
  have hsrc : srcReserved (48 + n) = false := by revert n; decide
  have haddr : (ipend (48 + n)).addr ≠ (ADC.ASTAT n).addr := by
    show 0x40030100 + 0x4 * ((48 + n) / 32) ≠ 0x40100014 + 0x1000 * (n : Nat)
    omega
  exact ⟨setFlag_flagUp d (ADC.ASTAT n) b _ (48 + n) hsrc haddr, only_setFlag d (ADC.ASTAT n) b _ (48 + n)⟩

end Sys2Proof.Machine

end

section

open Sys2Proof Sys2Proof.Machine

/-- Settles O17: a write in a converter's block is `adcTicked` at its offset, which either sets a pending copy or a flag. -/
theorem converterConfigurationIsPending : Obligations.ConverterConfigurationIsPending := by
  unfold Obligations.ConverterConfigurationIsPending
  refine ⟨fun s n o v r m hr hg ho ht => ?_, fun s n o v r m hr hg ho ht => ?_, fun s v hr hg => ?_⟩
  · refine does_of_clocked (f := (writeAdcTicked · _ v)) rfl hr ?_
    rw [writeAdcTicked_converter s.dev n o v ho hg ht]
    exact wrPend_pendingTo s.dev r (v &&& m)
  · refine does_of_clocked (f := (writeAdcTicked · _ v)) rfl hr ?_
    rw [writeAdcTicked_converter s.dev n o v ho hg ht]
    exact adcFlag_flagUp s.dev n 6
  · refine does_of_clocked (f := (writeAdcTicked · _ v)) rfl hr ?_
    rw [writeAdcTicked_refctl s.dev v hg]
    exact wrPend_pendingTo s.dev REF.REFCTL (v &&& 0xFF)

end

section

namespace Sys2Proof.Machine

open Sys2Proof

/-! What an entry's frame spill may change. Registers of a core lie above 2^32, those of the blocks below. -/

/-- From `d` to `e` nothing has changed but registers, cores, and memory with its check bits. -/
def CoreSide (d e : Dev) : Prop :=
  e = { d with regs := e.regs, core := e.core, mem := e.mem, mtag := e.mtag, ecc := e.ecc, wback := e.wback, ddrOk := e.ddrOk }

theorem CoreSide.trans {d e f : Dev} (h : CoreSide d e) (g : CoreSide e f) : CoreSide d f := by
  unfold CoreSide at *
  rw [g, h]

theorem CoreSide.busErr {d e : Dev} (h : CoreSide d e) : e.busErr = d.busErr := by
  unfold CoreSide at h
  rw [h]

theorem Only.coreSide {d e : Dev} {l : List Reg} (h : Only d e l) : CoreSide d e := by
  unfold CoreSide
  rw [h.1]

/-- What an operation on registers alone leaves of the cores and of memory. -/
theorem Only.core {d e : Dev} {l : List Reg} (h : Only d e l) : e.core = d.core := by rw [h.1]

theorem Only.coreGet {d e : Dev} {l : List Reg} (h : Only d e l) (c : Nat) : coreGet e c = coreGet d c := by
  unfold Machine.coreGet
  rw [h.core]

theorem Only.memStays {d e : Dev} {l : List Reg} (h : Only d e l) : MemStays d e := fun k => by rw [h.1]; exact ⟨rfl, rfl⟩

theorem MemStays.trans {d e f : Dev} (h : MemStays d e) (g : MemStays e f) : MemStays d f :=
  fun k => ⟨(g k).1.trans (h k).1, (g k).2.trans (h k).2⟩

/-- From `d` to `e` core `c` may have stored words: memory with its check bits, the error reports of DDR5, and of the core its
store buffer and signature may have changed, and nothing else has. -/
structure Spilled (c : Nat) (d e : Dev) : Prop where
  frame : CoreSide d e
  regs : ∀ r : Reg, 2 ^ 32 ≤ r.addr → rd e r = rd d r
  others : Others d.core e.core c
  own : ∃ sb sig, coreGet e c = { coreGet d c with sb := sb, sig := sig }

@[simp] theorem coreGet_corePut_same (d : Dev) (c : Nat) (x : CoreSt) : coreGet (corePut d c x) c = x :=
  look_put_same d.core c x {}

theorem others_corePut (d : Dev) (c : Nat) (x : CoreSt) : Others d.core (corePut d c x).core c :=
  fun j y hj => look_put_other d.core c j x y hj

theorem Others.trans {α : Type} {a b t : Tab α} {k : Nat} (h : Others a b k) (g : Others b t k) : Others a t k :=
  fun j x hj => (g j x hj).trans (h j x hj)

namespace Spilled

theorem refl (c : Nat) (d : Dev) : Spilled c d d := ⟨rfl, fun _ _ => rfl, fun _ _ _ => rfl, _, _, rfl⟩

theorem trans {c : Nat} {d e f : Dev} (h : Spilled c d e) (g : Spilled c e f) : Spilled c d f := by
  obtain ⟨sb, sig, he⟩ := h.own
  obtain ⟨sb', sig', hf⟩ := g.own
  exact ⟨h.frame.trans g.frame, fun r hr => (g.regs r hr).trans (h.regs r hr), h.others.trans g.others,
    sb', sig', by rw [hf, he]⟩

/-- Stores that leave registers and cores alone. -/
theorem of_memory {c : Nat} {d e : Dev}
    (h : e = { d with mem := e.mem, mtag := e.mtag, ecc := e.ecc, wback := e.wback, ddrOk := e.ddrOk }) : Spilled c d e :=
  ⟨by unfold CoreSide; rw [h], fun r _ => by rw [h]; rfl, fun _ _ _ => by rw [h], _, _, by rw [h]; rfl⟩

/-- Reports in registers of the blocks. -/
theorem of_only {c : Nat} {d e : Dev} {l : List Reg} (h : Only d e l) (hl : ∀ r ∈ l, r.addr < 2 ^ 32) : Spilled c d e := by
  refine ⟨h.coreSide, fun r hlow => h.2 r fun hmem => ?_, fun _ _ _ => by rw [h.core], _, _, h.coreGet c⟩
  obtain ⟨q, hq, hqr⟩ := List.mem_map.1 hmem
  have := hl q hq
  omega

theorem of_corePut (c : Nat) (d : Dev) (sb : List (Nat × TWord)) (sig : BitVec 64) :
    Spilled c d (corePut d c { coreGet d c with sb := sb, sig := sig }) :=
  ⟨rfl, fun _ _ => rfl, others_corePut d c _, sb, sig, coreGet_corePut_same d c _⟩

theorem sigFold (c : Nat) (d : Dev) (item : Nat) : Spilled c d (sigFold d c item) := by
  unfold Machine.sigFold
  split
  · exact of_corePut c d _ _
  · exact refl c d

theorem sramWrite (c : Nat) (d : Dev) (a : Nat) (t : TWord) : Spilled c d (sramWrite d a t) := by
  refine of_memory ?_
  simp only [Machine.sramWrite, wrTW, wrTag, wrW]
  rw [wrBytes_dev]

theorem ddrWrite (c : Nat) (d : Dev) (x : Nat) (l : List Byte) : Spilled c d (ddrWrite d x l) := by
  have hbytes : Spilled c d (wrBytes d (keyDdr x) l) := of_memory (by rw [wrBytes_dev])
  unfold Machine.ddrWrite
  dsimp only
  split
  · refine List.foldlRecOn (motive := fun e => Spilled c d e) _ _ (hbytes.trans (of_memory rfl)) fun e he k _ => ?_
    exact he.trans (of_memory rfl)
  · exact hbytes.trans (of_memory rfl)

theorem winError (c : Nat) (d : Dev) (a : Nat) : Spilled c d (winError d a) := by
  refine of_only ((only_wr d DDRC.DWERR _).trans (only_setFlag _ DDRC.DSTAT 4 _ 176)) ?_
  decide

theorem winWrite (c : Nat) (d : Dev) (a : Nat) (t : TWord) : Spilled c d (winWrite d a t).1 := by
  unfold Machine.winWrite
  dsimp only
  split
  · exact winError c d _
  · split
    · exact refl c d
    · refine List.foldlRecOn (motive := fun r : Dev × List Byte => Spilled c d r.1) _ _ (refl c d) fun r hr p _ => ?_
      split
      · exact hr.trans (ddrWrite c _ _ _)
      · exact hr

theorem memWrite (c : Nat) (d : Dev) (a : Nat) (t : TWord) : Spilled c d (memWrite d a t).1 := by
  unfold Machine.memWrite
  split
  · exact sramWrite c d a t
  · split
    · exact winWrite c d a t
    · exact refl c d

theorem frameSpill (c : Nat) (d : Dev) (f : Nat × List TWord) : Spilled c d (frameSpill c d f) := by
  refine List.foldlRecOn (motive := fun e => Spilled c d e) _ _ (refl c d) fun e he w _ => ?_
  have hsig : Spilled c d (sigWord (sigAddr e c ((f.1 + 4 * w.2) % 2 ^ 32)) c w.1) :=
    (he.trans (sigFold c e _)).trans (sigFold c _ _)
  dsimp only
  split
  · exact hsig
  · exact (hsig.trans (of_corePut c _ _ _)).trans (memWrite c _ _ _)

end Spilled

/-! The new frame of a handler (R385, R407). -/

/-- The frames of a core with a new one on top (R385). -/
def stackedFrames (x : CoreSt) (a : Nat) (ws : List TWord) : List (Nat × List TWord) :=
  (a, ws ++ List.replicate (64 - ws.length) tVoid) :: x.frames.filter (fun g => g.1 != a)

/-- Those of them that stay resident (R386). -/
def pushedFrames (x : CoreSt) (a : Nat) (ws : List TWord) : List (Nat × List TWord) := (stackedFrames x a ws).take 4

/-- The device with a frame pushed, before what leaves the window is spilled. -/
def pushed (d : Dev) (c a : Nat) (ws : List TWord) : Dev :=
  corePut (corePut (wr d (CORE.FP c) (w32 a)) c { coreGet d c with frames := stackedFrames (coreGet d c) a ws }) c
    { coreGet d c with frames := pushedFrames (coreGet d c) a ws }

@[simp] theorem rd_corePut (d : Dev) (c : Nat) (x : CoreSt) (r : Reg) : rd (corePut d c x) r = rd d r := rfl

@[simp] theorem rd_pushed (d : Dev) (c a : Nat) (ws : List TWord) (r : Reg) :
    rd (pushed d c a ws) r = rd (wr d (CORE.FP c) (w32 a)) r := rfl

@[simp] theorem coreGet_pushed (d : Dev) (c a : Nat) (ws : List TWord) :
    coreGet (pushed d c a ws) c = { coreGet d c with frames := pushedFrames (coreGet d c) a ws } := coreGet_corePut_same _ c _

theorem others_pushed (d : Dev) (c a : Nat) (ws : List TWord) : Others d.core (pushed d c a ws).core c :=
  (others_corePut (wr d (CORE.FP c) (w32 a)) c _).trans (others_corePut _ c _)

theorem framePush_eq (d : Dev) (c a : Nat) (ws : List TWord) :
    framePush d c a ws = ((stackedFrames (coreGet d c) a ws).drop 4).foldl (frameSpill c) (pushed d c a ws) := by
  simp only [framePush, frameTrim, coreGet_corePut_same]
  rfl

theorem spilled_framePush (d : Dev) (c a : Nat) (ws : List TWord) : Spilled c (pushed d c a ws) (framePush d c a ws) := by
  rw [framePush_eq]
  exact List.foldlRecOn (motive := fun e => Spilled c _ e) _ _ (Spilled.refl c _)
    fun e he f _ => he.trans (Spilled.frameSpill c e f)

/-- With fewer than four frames resident nothing is spilled (R386). -/
theorem framePush_of_room (d : Dev) (c a : Nat) (ws : List TWord) (h : (coreGet d c).frames.length < 4) :
    framePush d c a ws = pushed d c a ws := by
  have hlen : (stackedFrames (coreGet d c) a ws).length ≤ 4 := 
    Nat.succ_le_of_lt (Nat.lt_of_le_of_lt (List.length_filter_le _ _) h)
  rw [framePush_eq, List.drop_eq_nil_of_le hlen]
  rfl

/-! Addresses of a core's registers (R404). -/

namespace CORE

theorem STATUS_addr (c : Nat) : (STATUS c).addr = 0x40411000 + coreOff c := rfl
theorem FP_addr (c : Nat) : (FP c).addr = 0x4041100C + coreOff c := rfl
theorem SP_addr (c p : Nat) : (SP c p).addr = 0x40411010 + coreOff c + 0x4 * p := rfl
theorem FCAUSE_addr (c : Nat) : (FCAUSE c).addr = 0x4041101C + coreOff c := rfl
theorem FADDR_addr (c : Nat) : (FADDR c).addr = 0x40411020 + coreOff c := rfl
theorem FVEC_addr (c k : Nat) : (FVEC c k).addr = 0x40411040 + coreOff c + 0x4 * k := rfl
theorem SSPC_addr (c s : Nat) : (SSPC c s).addr = 0x40411200 + coreOff c + 0x20 * s := rfl
theorem SSST_addr (c s : Nat) : (SSST c s).addr = 0x40411204 + coreOff c + 0x20 * s := rfl
theorem SSFP_addr (c s : Nat) : (SSFP c s).addr = 0x40411208 + coreOff c + 0x20 * s := rfl
theorem SSSP_addr (c s : Nat) : (SSSP c s).addr = 0x4041120C + coreOff c + 0x20 * s := rfl
theorem SSPRG_addr (c s : Nat) : (SSPRG c s).addr = 0x40411210 + coreOff c + 0x20 * s := rfl
theorem SSCP_addr (c s : Nat) : (SSCP c s).addr = 0x40411214 + coreOff c + 0x20 * s := rfl

end CORE

theorem coreOff_ge (c : Nat) : 2 ^ 32 ≤ coreOff c := by unfold coreOff; omega

/-! Entering a handler (R407 steps 2 to 4), stage by stage. -/

/-- The handler's stack register is set where its privilege is another one. -/
def entrySp (d : Dev) (c h : Nat) : Dev := if priv d c = h then d else wr d (CORE.SP c h) (w32 (entryFp d c h))

/-- The status word of a handler. -/
def entryStatus (d : Dev) (c h : Nat) : Dev := sf (sf d (CORE.STATUS c) stPriv h) (CORE.STATUS c) stBlk 0

/-- The core goes on at its handler. -/
def entryCore (x : CoreSt) (vec : Word) : CoreSt :=
  { x with pc := vec, prog := 0, blk := none, ent := none, nest := if x.wft then x.nest + 1 else 0 }

/-- The new frame and the status word of a handler. -/
def entryFrame (d : Dev) (c h : Nat) : Dev := entryStatus (framePush (entrySp d c h) c (entryFp d c h) []) c h

theorem enterAt_eq (d : Dev) (c h : Nat) (vec : Word) :
    enterAt d c h vec = corePut (sigAddr (entryFrame d c h) c vec.toNat) c
      (entryCore (coreGet (sigAddr (entryFrame d c h) c vec.toNat) c) vec) := rfl

theorem only_entrySp (d : Dev) (c h : Nat) : Only d (entrySp d c h) [CORE.SP c h] := by
  unfold entrySp
  split
  · exact Only.refl d _
  · exact only_wr d _ _

theorem rd_entrySp_sp (d : Dev) (c h : Nat) :
    rd (entrySp d c h) (CORE.SP c h) = if priv d c = h then rd d (CORE.SP c h) else w32 (entryFp d c h) := by
  unfold entrySp
  by_cases hp : priv d c = h
  · rw [if_pos hp, if_pos hp]
  · rw [if_neg hp, if_neg hp, rd_wr_same]

theorem only_entryStatus (d : Dev) (c h : Nat) : Only d (entryStatus d c h) [CORE.STATUS c] :=
  ((only_wr d (CORE.STATUS c) _).trans (only_wr _ (CORE.STATUS c) _)).mono
    (List.cons_subset.2 ⟨List.mem_cons_self, List.Subset.refl _⟩)

theorem gf_entryStatus (d : Dev) (c h : Nat) (hh : h < 4) :
    gf (entryStatus d c h) (CORE.STATUS c) stPriv = h ∧ gf (entryStatus d c h) (CORE.STATUS c) stBlk = 0 := by
  refine ⟨?_, gf_sf_same _ _ stBlk 0 (by decide)⟩
  rw [entryStatus, gf_sf_field _ _ stBlk stPriv 0 (by decide) (by decide), gf_sf_same _ _ stPriv h (by decide)]
  exact Nat.mod_eq_of_lt hh

@[simp] theorem rd_sigAddr (d : Dev) (c a : Nat) (r : Reg) : rd (sigAddr d c a) r = rd d r := by
  unfold sigAddr sigFold
  split <;> rfl

theorem memStays_corePut (d : Dev) (c : Nat) (x : CoreSt) : MemStays d (corePut d c x) := fun _ => ⟨rfl, rfl⟩

theorem memStays_sigAddr (d : Dev) (c a : Nat) : MemStays d (sigAddr d c a) := by
  unfold sigAddr sigFold
  split
  · exact memStays_corePut d c _
  · exact fun _ => ⟨rfl, rfl⟩

theorem memStays_pushed (d : Dev) (c a : Nat) (ws : List TWord) : MemStays d (pushed d c a ws) := fun _ => ⟨rfl, rfl⟩

/-- The registers that a handler's entry writes. -/
def entryRegs (c h : Nat) : List Reg := [CORE.SP c h, CORE.FP c, CORE.STATUS c]

theorem not_mem_entryRegs {c h : Nat} {r : Reg} (hsp : r.addr ≠ (CORE.SP c h).addr) (hfp : r.addr ≠ (CORE.FP c).addr)
    (hst : r.addr ≠ (CORE.STATUS c).addr) : r.addr ∉ (entryRegs c h).map Reg.addr := by
  simp only [entryRegs, List.map_cons, List.map_nil, List.mem_cons, List.not_mem_nil, or_false, not_or]
  exact ⟨hsp, hfp, hst⟩

theorem rd_enterAt (d : Dev) (c h : Nat) (vec : Word) (r : Reg) : rd (enterAt d c h vec) r = rd (entryFrame d c h) r := by
  rw [enterAt_eq, rd_corePut, rd_sigAddr]

/-- Registers of the cores but those an entry writes stay. -/
theorem rd_entryFrame_other (d : Dev) (c h : Nat) (r : Reg) (hr : 2 ^ 32 ≤ r.addr)
    (hn : r.addr ∉ (entryRegs c h).map Reg.addr) : rd (entryFrame d c h) r = rd d r := by
  simp only [entryRegs, List.map_cons, List.map_nil, List.mem_cons, List.not_mem_nil, or_false, not_or] at hn
  obtain ⟨hsp, hfp, hst⟩ := hn
  rw [entryFrame, (only_entryStatus _ c h).rd_other r hst, (spilled_framePush _ c _ _).regs r hr, rd_pushed,
    rd_wr_other _ _ _ _ hfp, (only_entrySp d c h).rd_other r hsp]

theorem rd_entryFrame_fp (d : Dev) (c h : Nat) : rd (entryFrame d c h) (CORE.FP c) = w32 (entryFp d c h) := by
  have hoff := coreOff_ge c
  rw [entryFrame, (only_entryStatus _ c h).rd_other _ (by rw [CORE.FP_addr, CORE.STATUS_addr]; omega),
    (spilled_framePush _ c _ _).regs _ (by rw [CORE.FP_addr]; omega), rd_pushed,
    rd_wr_same]

theorem rd_entryFrame_sp (d : Dev) (c h : Nat) (hh : h < 4) :
    rd (entryFrame d c h) (CORE.SP c h) = if priv d c = h then rd d (CORE.SP c h) else w32 (entryFp d c h) := by
  have hoff := coreOff_ge c
  rw [entryFrame, (only_entryStatus _ c h).rd_other _ (by rw [CORE.SP_addr, CORE.STATUS_addr]; omega),
    (spilled_framePush _ c _ _).regs _ (by rw [CORE.SP_addr]; omega), rd_pushed,
    rd_wr_other _ _ _ _ (by rw [CORE.SP_addr, CORE.FP_addr]; omega), rd_entrySp_sp]

/-- The core's own state after an entry, but for its store buffer and signature. -/
theorem coreGet_enterAt (d : Dev) (c h : Nat) (vec : Word) :
    ∃ sb sig, coreGet (enterAt d c h vec) c
      = entryCore { coreGet d c with frames := pushedFrames (coreGet d c) (entryFp d c h) [], sb := sb, sig := sig } vec := by
  obtain ⟨sb, sig, hpush⟩ := (spilled_framePush (entrySp d c h) c (entryFp d c h) []).own
  obtain ⟨sb', sig', hsig⟩ := (Spilled.sigFold c (entryFrame d c h) vec.toNat).own
  have hframe : coreGet (entryFrame d c h) c
      = { coreGet d c with frames := pushedFrames (coreGet d c) (entryFp d c h) [], sb := sb, sig := sig } := by
    rw [entryFrame, (only_entryStatus _ c h).coreGet, hpush, coreGet_pushed, (only_entrySp d c h).coreGet]
  refine ⟨sb', sig', ?_⟩
  rw [enterAt_eq, coreGet_corePut_same, sigAddr, hsig, hframe]

theorem others_enterAt (d : Dev) (c h : Nat) (vec : Word) : Others d.core (enterAt d c h vec).core c := by
  have hframe : Others d.core (entryFrame d c h).core c := by
    rw [entryFrame, (only_entryStatus _ c h).core, ← (only_entrySp d c h).core]
    exact (others_pushed _ c _ _).trans (spilled_framePush _ c _ _).others
  exact (hframe.trans (Spilled.sigFold c _ _).others).trans (others_corePut _ c _)

theorem coreSide_enterAt (d : Dev) (c h : Nat) (vec : Word) : CoreSide d (enterAt d c h vec) := by
  have hpush : CoreSide d (pushed (entrySp d c h) c (entryFp d c h) []) := (only_entrySp d c h).coreSide.trans rfl
  have hframe : CoreSide d (entryFrame d c h) :=
    (hpush.trans (spilled_framePush _ c _ _).frame).trans (only_entryStatus _ c h).coreSide
  exact (hframe.trans (Spilled.sigFold c _ vec.toNat).frame).trans rfl

theorem enterAt_inHandler (d : Dev) (c h : Nat) (vec : Word) (hh : h < 4) : InHandler d (enterAt d c h vec) c h vec := by
  obtain ⟨sb, sig, hcore⟩ := coreGet_enterAt d c h vec
  have hst : rd (enterAt d c h vec) (CORE.STATUS c) = rd (entryFrame d c h) (CORE.STATUS c) := rd_enterAt d c h vec _
  obtain ⟨hpriv, hblk⟩ := gf_entryStatus (framePush (entrySp d c h) c (entryFp d c h) []) c h hh
  unfold InHandler
  rw [hcore]
  refine ⟨rfl, ?_, ?_, ?_, rfl, ?_, rfl, rfl⟩
  · rw [priv, gf, hst]; exact hpriv
  · rw [gf, hst]; exact hblk
  · rw [rd_enterAt, rd_entryFrame_fp]
  · rw [rd_enterAt, rd_entryFrame_sp d c h hh]

/-- With fewer than four frames resident an entry leaves memory, and of the registers all but its own. -/
theorem enterAt_of_room (d : Dev) (c h : Nat) (vec : Word) (hroom : (coreGet d c).frames.length < 4) :
    MemStays d (enterAt d c h vec) ∧ RegsStay d (enterAt d c h vec) (entryRegs c h) := by
  have hpush : framePush (entrySp d c h) c (entryFp d c h) [] = pushed (entrySp d c h) c (entryFp d c h) [] :=
    framePush_of_room _ c _ _ (by rw [(only_entrySp d c h).coreGet]; exact hroom)
  have hsig : MemStays (entryFrame d c h) (enterAt d c h vec) := by
    rw [enterAt_eq]
    exact (memStays_sigAddr _ c vec.toNat).trans (memStays_corePut _ c _)
  refine ⟨MemStays.trans ?_ hsig, fun r hr => ?_⟩
  · rw [entryFrame, hpush]
    exact ((only_entrySp d c h).memStays.trans (memStays_pushed _ c _ _)).trans (only_entryStatus _ c h).memStays
  · simp only [entryRegs, List.map_cons, List.map_nil, List.mem_cons, List.not_mem_nil, or_false, not_or] at hr
    obtain ⟨hsp, hfp, hst⟩ := hr
    rw [rd_enterAt, entryFrame, (only_entryStatus _ c h).rd_other r hst, hpush, rd_pushed, rd_wr_other _ _ _ _ hfp,
      (only_entrySp d c h).rd_other r hsp]

end Sys2Proof.Machine

end

section

namespace Sys2Proof.Machine

open Sys2Proof

/-! Taking an exception that can be taken (R407, R410, R414, R416). -/

theorem fget_lt (f : Fld) (w : Word) : fget f w < 2 ^ (f.hi + 1 - f.lo) := Nat.mod_lt _ (Nat.two_pow_pos _)

theorem fpriv_lt (d : Dev) (c : Nat) : gf d (CORE.HPRIV c) CORE.HPRIV_FPRIV < 2 := fget_lt CORE.HPRIV_FPRIV _

/-- A trace item changes only the trace. -/
theorem emitTrace_eq (d : Dev) (kind : Fld) (typ src : Nat) (payload : List Byte) :
    emitTrace d kind typ src payload
      = { d with trace := (emitTrace d kind typ src payload).trace, trMissed := (emitTrace d kind typ src payload).trMissed } := by
  unfold emitTrace
  repeat' split
  all_goals rfl

/-- The registers of an exception: save set 0 with cause and fault address. -/
def excRegs (c : Nat) : List Reg := setRegs c 0 ++ [CORE.FCAUSE c] ++ [CORE.FADDR c]

/-- The device with the state saved and the cause reported, before the handler is entered. -/
def excReported (d : Dev) (c k code opnd faddr : Nat) (pc : Word) : Dev :=
  wr (wr (saveSet d c 0 (gf d (CORE.HPRIV c) CORE.HPRIV_FPRIV) pc) (CORE.FCAUSE c)
    (w32 (k * 2 ^ 24 + code % 256 * 2 ^ 16 + opnd % 256 * 2 ^ 8))) (CORE.FADDR c) (w32 faddr)

theorem only_saveSet (d : Dev) (c h : Nat) (pc : Word) : Only d (saveSet d c 0 h pc) (setRegs c 0) :=
  (((((only_wr d (CORE.SSPC c 0) _).trans (only_wr _ (CORE.SSST c 0) _)).trans (only_wr _ (CORE.SSFP c 0) _)).trans
    (only_wr _ (CORE.SSSP c 0) _)).trans (only_wr _ (CORE.SSPRG c 0) _)).trans (only_wr _ (CORE.SSCP c 0) _)

theorem only_excReported (d : Dev) (c k code opnd faddr : Nat) (pc : Word) :
    Only d (excReported d c k code opnd faddr pc) (excRegs c) :=
  ((only_saveSet d c _ pc).trans (only_wr _ (CORE.FCAUSE c) _)).trans (only_wr _ (CORE.FADDR c) _)

@[simp] theorem coreGet_wr (d : Dev) (r : Reg) (v : Word) (c : Nat) : coreGet (wr d r v) c = coreGet d c := rfl

/-- A save set takes the state as it is before any of it is written. -/
theorem saveSet_saved (d : Dev) (c h : Nat) (pc : Word) (hh : h < 4) : Saved d (saveSet d c 0 h pc) c 0 h pc := by
  unfold Saved saveSet priv gf
  simp (disch := (simp only [CORE.STATUS_addr, CORE.FP_addr, CORE.SP_addr, CORE.SSPC_addr, CORE.SSST_addr, CORE.SSFP_addr,
    CORE.SSSP_addr, CORE.SSPRG_addr, CORE.SSCP_addr]; omega)) only [rd_wr_same, rd_wr_other, coreGet_wr, and_self]

/-- A save set is read from its registers alone. -/
theorem Saved.congr {d e f : Dev} {c h : Nat} {pc : Word} (hs : Saved d e c 0 h pc) (hr : ∀ r ∈ setRegs c 0, rd f r = rd e r) :
    Saved d f c 0 h pc := by
  simp only [setRegs, List.mem_cons, List.not_mem_nil, or_false, forall_eq_or_imp, forall_eq] at hr
  obtain ⟨hpc, hst, hfp, hsp, hprg, hcp⟩ := hr
  unfold Saved
  rw [hpc, hst, hfp, hsp, hprg, hcp]
  exact hs

/-- A handler's place is decided by the registers it names. -/
theorem InHandler.congr {d d' e e' : Dev} {c h : Nat} {vec : Word} (hi : InHandler d e c h vec)
    (hd : ∀ r ∈ [CORE.STATUS c, CORE.FP c, CORE.SP c h], rd d' r = rd d r)
    (he : ∀ r ∈ [CORE.FP c, CORE.SP c h], rd e' r = rd e r)
    (hpriv : priv e' c = priv e c) (hblk : gf e' (CORE.STATUS c) stBlk = gf e (CORE.STATUS c) stBlk)
    (hcore : coreGet e' c = coreGet e c) : InHandler d' e' c h vec := by
  simp only [List.mem_cons, List.not_mem_nil, or_false, forall_eq_or_imp, forall_eq] at hd he
  obtain ⟨hst, hfp, hsp⟩ := hd
  obtain ⟨hfp', hsp'⟩ := he
  have hp : priv d' c = priv d c := by rw [priv, gf, hst]; rfl
  have hf : entryFp d' c h = entryFp d c h := by unfold entryFp fp; rw [hp, hfp, hsp]
  unfold InHandler
  rw [hcore, hpriv, hblk, hfp', hsp', hp, hf, hsp]
  exact hi

/-- The device once the handler of exception `k` stands with FAULT set, before the trace item. -/
def excEntered (d : Dev) (c k code opnd faddr : Nat) (pc : Word) : Dev :=
  sf (enterAt (excReported d c k code opnd faddr pc) c (gf d (CORE.HPRIV c) CORE.HPRIV_FPRIV)
    (rd (excReported d c k code opnd faddr pc) (CORE.FVEC c k))) (CORE.STATUS c) stFault 1

/-- An exception that can be taken is: no double fault (R410). -/
theorem takeExc_of_canEnter (d : Dev) (c k code opnd faddr : Nat) (pc : Word) (h : CanEnter d c k) :
    takeExc d c k code opnd faddr pc = emitTrace (excEntered d c k code opnd faddr pc) DBG.DBGCTL_TREXC 4 c
      (leBytes 4 (rd (excEntered d c k code opnd faddr pc) (CORE.FCAUSE c)).toNat ++ leBytes 4 pc.toNat) := by
  obtain ⟨hf, hv, hm⟩ := h
  simp only [takeExc, hf, hv, hm, Option.isSome_none, Bool.or_self, Bool.false_eq_true, if_false]
  rfl

theorem le_addr_of_mem_setRegs {c : Nat} {r : Reg} (h : r ∈ setRegs c 0) : 0x40411200 + coreOff c ≤ r.addr := by
  simp only [setRegs, List.mem_cons, List.not_mem_nil, or_false] at h
  rcases h with rfl | rfl | rfl | rfl | rfl | rfl
  · rw [CORE.SSPC_addr]; omega
  · rw [CORE.SSST_addr]; omega
  · rw [CORE.SSFP_addr]; omega
  · rw [CORE.SSSP_addr]; omega
  · rw [CORE.SSPRG_addr]; omega
  · rw [CORE.SSCP_addr]; omega

/-- The registers of a core from FCAUSE on read as reported once the handler is entered: the entry writes lower ones. -/
theorem rd_excEntered_high (d : Dev) (c k code opnd faddr : Nat) (pc : Word) (r : Reg) (hr : 0x4041101C + coreOff c ≤ r.addr) :
    rd (excEntered d c k code opnd faddr pc) r = rd (excReported d c k code opnd faddr pc) r := by
  have hh := fpriv_lt d c
  have hoff := coreOff_ge c
  have hst : r.addr ≠ (CORE.STATUS c).addr := by rw [CORE.STATUS_addr]; omega
  have hn : r.addr ∉ (entryRegs c (gf d (CORE.HPRIV c) CORE.HPRIV_FPRIV)).map Reg.addr :=
    not_mem_entryRegs (by rw [CORE.SP_addr]; omega) (by rw [CORE.FP_addr]; omega) hst
  rw [excEntered, rd_sf_other _ _ _ _ _ hst, rd_enterAt, rd_entryFrame_other _ c _ r (by omega) hn]

theorem rd_excReported_other (d : Dev) (c k code opnd faddr : Nat) (pc : Word) (r : Reg)
    (hn : r.addr < 0x4041101C + coreOff c ∨ 0x40411020 + coreOff c < r.addr ∧ r.addr < 0x40411200 + coreOff c) :
    rd (excReported d c k code opnd faddr pc) r = rd d r := by
  refine (only_excReported d c k code opnd faddr pc).2 r fun hmem => ?_
  obtain ⟨q, hq, hqr⟩ := List.mem_map.1 hmem
  simp only [excRegs, List.mem_append, List.mem_cons, List.not_mem_nil, or_false] at hq
  rcases hq with (hset | rfl) | rfl
  · have := le_addr_of_mem_setRegs hset
    omega
  · rw [CORE.FCAUSE_addr] at hqr
    omega
  · rw [CORE.FADDR_addr] at hqr
    omega

theorem excEntered_saved (d : Dev) (c k code opnd faddr : Nat) (pc : Word) :
    Saved d (excEntered d c k code opnd faddr pc) c 0 (gf d (CORE.HPRIV c) CORE.HPRIV_FPRIV) pc := by
  have hh := fpriv_lt d c
  refine (saveSet_saved d c _ pc (by omega)).congr fun r hr => ?_
  have haddr := le_addr_of_mem_setRegs hr
  rw [rd_excEntered_high d c k code opnd faddr pc r (by omega), excReported,
    rd_wr_other _ _ _ _ (by rw [CORE.FADDR_addr]; omega), rd_wr_other _ _ _ _ (by rw [CORE.FCAUSE_addr]; omega)]

theorem excEntered_inHandler (d : Dev) (c k code opnd faddr : Nat) (pc : Word) (hk : k < 64) :
    InHandler d (excEntered d c k code opnd faddr pc) c (gf d (CORE.HPRIV c) CORE.HPRIV_FPRIV) (rd d (CORE.FVEC c k)) := by
  have hh := fpriv_lt d c
  have hvec : rd (excReported d c k code opnd faddr pc) (CORE.FVEC c k) = rd d (CORE.FVEC c k) :=
    rd_excReported_other d c k code opnd faddr pc _ (by rw [CORE.FVEC_addr]; omega)
  have hin := enterAt_inHandler (excReported d c k code opnd faddr pc) c _ (rd d (CORE.FVEC c k))
    (Nat.lt_of_lt_of_le hh (by decide))
  refine hin.congr (fun r hr => (rd_excReported_other d c k code opnd faddr pc r ?_).symm) (fun r hr => ?_) ?_ ?_ ?_
  · simp only [List.mem_cons, List.not_mem_nil, or_false] at hr
    rcases hr with rfl | rfl | rfl
    · rw [CORE.STATUS_addr]; omega
    · rw [CORE.FP_addr]; omega
    · rw [CORE.SP_addr]; omega
  · rw [excEntered, hvec]
    simp only [List.mem_cons, List.not_mem_nil, or_false] at hr
    rcases hr with rfl | rfl
    · exact rd_sf_other _ _ _ _ _ (by rw [CORE.FP_addr, CORE.STATUS_addr]; omega)
    · exact rd_sf_other _ _ _ _ _ (by rw [CORE.SP_addr, CORE.STATUS_addr]; omega)
  · rw [excEntered, hvec]
    exact gf_sf_field _ _ stFault stPriv 1 (by decide) (by decide)
  · rw [excEntered, hvec]
    exact gf_sf_field _ _ stFault stBlk 1 (by decide) (by decide)
  · rw [excEntered, hvec]
    exact (only_wr _ (CORE.STATUS c) _).coreGet c

/-- With fewer than four frames resident an exception leaves memory, and of the registers all but its own. -/
theorem excEntered_of_room (d : Dev) (c k code opnd faddr : Nat) (pc : Word) (hroom : (coreGet d c).frames.length < 4) :
    MemStays d (excEntered d c k code opnd faddr pc)
      ∧ RegsStay d (excEntered d c k code opnd faddr pc)
          (excRegs c ++ entryRegs c (gf d (CORE.HPRIV c) CORE.HPRIV_FPRIV) ++ [CORE.STATUS c]) := by
  have hrep := only_excReported d c k code opnd faddr pc
  have hflag := only_sf (enterAt (excReported d c k code opnd faddr pc) c (gf d (CORE.HPRIV c) CORE.HPRIV_FPRIV)
    (rd (excReported d c k code opnd faddr pc) (CORE.FVEC c k))) (CORE.STATUS c) stFault 1
  obtain ⟨hmem, hregs⟩ := enterAt_of_room (excReported d c k code opnd faddr pc) c (gf d (CORE.HPRIV c) CORE.HPRIV_FPRIV)
    (rd (excReported d c k code opnd faddr pc) (CORE.FVEC c k)) (by rw [hrep.coreGet]; exact hroom)
  exact ⟨(hrep.memStays.trans hmem).trans hflag.memStays, (hrep.regsStay.trans hregs).trans hflag.regsStay⟩

/-- The registers an exception writes are among those `Excepted` lists. -/
theorem excRegs_subset (c h : Nat) : excRegs c ++ entryRegs c h ++ [CORE.STATUS c] ⊆
    setRegs c 0 ++ [CORE.STATUS c, CORE.FP c, CORE.SP c h, CORE.FCAUSE c, CORE.FADDR c, DBG.DBGPC c] := by
  intro r hr
  simp only [excRegs, entryRegs, List.mem_append, List.mem_cons, List.not_mem_nil, or_false] at hr ⊢
  rcases hr with (((hset | hcause) | haddr) | hsp | hfp | hst) | hst
  · exact .inl hset
  · exact .inr (.inr (.inr (.inr (.inl hcause))))
  · exact .inr (.inr (.inr (.inr (.inr (.inl haddr)))))
  · exact .inr (.inr (.inr (.inl hsp)))
  · exact .inr (.inr (.inl hfp))
  · exact .inr (.inl hst)
  · exact .inr (.inl hst)

theorem excEntered_excepted (d : Dev) (c k code opnd faddr : Nat) (pc : Word) (hk : k < 64) :
    Excepted d (excEntered d c k code opnd faddr pc) c k code opnd faddr pc := by
  refine ⟨excEntered_saved d c k code opnd faddr pc, excEntered_inHandler d c k code opnd faddr pc hk, ?_, ?_, ?_, ?_,
    fun hroom => ?_⟩
  · rw [rd_excEntered_high d c k code opnd faddr pc (CORE.FCAUSE c) (Nat.le_refl _), excReported,
      rd_wr_other _ _ _ _ (by rw [CORE.FCAUSE_addr, CORE.FADDR_addr]; omega), rd_wr_same]
  · rw [rd_excEntered_high d c k code opnd faddr pc _ (by rw [CORE.FADDR_addr]; omega), excReported, rd_wr_same]
  · exact decide_eq_true (gf_sf_same _ _ stFault 1 (by decide))
  · rw [excEntered, (only_sf _ (CORE.STATUS c) _ _).core, ← (only_excReported d c k code opnd faddr pc).core]
    exact others_enterAt _ c _ _
  · obtain ⟨hmem, hregs⟩ := excEntered_of_room d c k code opnd faddr pc hroom
    exact ⟨hmem, hregs.mono (excRegs_subset c _)⟩

theorem coreSide_excEntered (d : Dev) (c k code opnd faddr : Nat) (pc : Word) : CoreSide d (excEntered d c k code opnd faddr pc) :=
  ((only_excReported d c k code opnd faddr pc).coreSide.trans (coreSide_enterAt _ c _ _)).trans
    (only_sf _ (CORE.STATUS c) _ _).coreSide

/-- An exception says nothing of the trace. -/
theorem Excepted.with_trace {d e : Dev} {c k code opnd faddr : Nat} {pc : Word} (h : Excepted d e c k code opnd faddr pc)
    (t : List TrItem) (m : Nat) : Excepted d { e with trace := t, trMissed := m } c k code opnd faddr pc := h

/-- An exception that can be taken saves the state, reports its cause and stands at its handler (R407, R414, R416). -/
theorem takeExc_excepted (d : Dev) (c k code opnd faddr : Nat) (pc : Word) (h : CanEnter d c k) (hk : k < 64) :
    Excepted d (takeExc d c k code opnd faddr pc) c k code opnd faddr pc := by
  rw [takeExc_of_canEnter d c k code opnd faddr pc h, emitTrace_eq]
  exact (excEntered_excepted d c k code opnd faddr pc hk).with_trace _ _

theorem takeExc_busErr (d : Dev) (c k code opnd faddr : Nat) (pc : Word) (h : CanEnter d c k) :
    (takeExc d c k code opnd faddr pc).busErr = d.busErr := by
  rw [takeExc_of_canEnter d c k code opnd faddr pc h, emitTrace_eq]
  exact (coreSide_excEntered d c k code opnd faddr pc).busErr

end Sys2Proof.Machine

end

section

namespace Sys2Proof.Machine

open Sys2Proof

/-! Levels on pins (R715, R716, R719). -/

theorem getLsbD_bitPut_same (w : BitVec 64) (n : Fin 64) (v : Bool) : (bitPut w n v).getLsbD n = v := by
  have hbit : (BitVec.ofNat 64 (2 ^ (n : Nat))).getLsbD n = true := by
    rw [BitVec.getLsbD_ofNat, Nat.testBit_two_pow_self]
    exact (Bool.and_true _).trans (decide_eq_true n.isLt)
  cases v
  · rw [bitPut, if_neg (by decide), BitVec.getLsbD_and, BitVec.getLsbD_not, hbit]
    simp
  · rw [bitPut, if_pos rfl, BitVec.getLsbD_or, hbit, Bool.or_true]

/-- The level of a pin that the unit does not drive is the one last told from outside. -/
theorem pinLevel_of_input (d : Dev) (n : Nat) (h2 : pmuxFunc d n ≠ 2) (h5 : pmuxFunc d n ≠ 5) :
    pinLevel d n = d.pinLvl.getLsbD n := by
  unfold pinLevel
  split
  · contradiction
  · contradiction
  · rfl

theorem gpioEdge_of_off (d : Dev) (n : Nat) (lvl : Bool) (h : pmuxFunc d n = 0) :
    gpioEdge d n lvl = { d with pinLvl := bitPut d.pinLvl n lvl } :=
  if_pos h

theorem gpioEdge_of_input (d : Dev) (n : Fin 64) (lvl : Bool) (h0 : pmuxFunc d n ≠ 0) (h2 : pmuxFunc d n ≠ 2)
    (h5 : pmuxFunc d n ≠ 5) : gpioEdge d n lvl = pinSync { d with pinLvl := bitPut d.pinLvl n lvl } n lvl := by
  have hlvl : pinLevel { d with pinLvl := bitPut d.pinLvl n lvl } n = lvl :=
    (pinLevel_of_input { d with pinLvl := bitPut d.pinLvl n lvl } n h2 h5).trans (getLsbD_bitPut_same d.pinLvl n lvl)
  refine (if_neg h0).trans ?_
  rw [hlvl]

/-- The device with a synchronised level and its bit of `GPIN`. -/
def pinShown (d : Dev) (n : Nat) (lvl : Bool) : Dev := gpinShow { d with pinSyn := bitPut d.pinSyn n lvl } n

theorem only_pinShown (d : Dev) (n : Nat) (lvl : Bool) :
    Only { d with pinSyn := bitPut d.pinSyn n lvl } (pinShown d n lvl) [PINMUX.GPIN (n / 32)] :=
  only_setBit _ _ _ _

theorem bitOf_pinShown (d : Dev) (n : Fin 64) (lvl : Bool) (h0 : pmuxFunc d n ≠ 0) :
    bitOf (pinShown d n lvl) (PINMUX.GPIN (n / 32)) (n % 32) = (lvl != pmuxInv d n) := by
  rw [pinShown, gpinShow, bitOf_setBit_same _ _ _ _ (Nat.mod_lt _ (by decide))]
  have hsyn : (bitPut d.pinSyn n lvl).getLsbD n = lvl := getLsbD_bitPut_same d.pinSyn n lvl
  show (decide (pmuxFunc d n ≠ 0) && ((bitPut d.pinSyn n lvl).getLsbD n != pmuxInv d n)) = _
  rw [hsyn, decide_eq_true h0, Bool.true_and]

/-- Whether `EDGE` selects the edge to a level, as seen after `INV` (R716). -/
def edgeSelected (d : Dev) (n : Nat) (lvl : Bool) : Bool :=
  (gf d (PINMUX.PMUX n) PINMUX.PMUX_EDGE).testBit (if (lvl != pmuxInv d n) = true then 0 else 1)

theorem pinSync_of_change (d : Dev) (n : Nat) (lvl : Bool) (h : d.pinSyn.getLsbD n ≠ lvl) :
    pinSync d n lvl = if edgeSelected d n lvl then raise (pinShown d n lvl) (272 + n) else pinShown d n lvl := by
  have hmux : rd (pinShown d n lvl) (PINMUX.PMUX n) = rd d (PINMUX.PMUX n) :=
    (only_pinShown d n lvl).rd_other _ (by
      show 0x40300100 + 0x4 * n ≠ 0x40300010 + 0x4 * (n / 32)
      omega)
  have hedge : edgeSelected (pinShown d n lvl) n lvl = edgeSelected d n lvl := by
    unfold edgeSelected pmuxInv gf
    rw [hmux]
  rw [← hedge]
  exact if_neg h

/-- The sources of the pins exist (R469). -/
theorem srcReserved_pin : ∀ n : Fin 64, srcReserved (272 + n) = false := by decide

/-- An input pin's new level: what a change of the synchronised level does (R716). -/
theorem pinSync_effect (d : Dev) (n : Fin 64) (lvl : Bool) (h : d.pinSyn.getLsbD n ≠ lvl) :
    Only { d with pinSyn := bitPut d.pinSyn n lvl } (pinSync d n lvl) [PINMUX.GPIN (n / 32), ipend (272 + n)]
      ∧ (pmuxFunc d n ≠ 0 → bitOf (pinSync d n lvl) (PINMUX.GPIN (n / 32)) (n % 32) = (lvl != pmuxInv d n))
      ∧ (edgeSelected d n lvl = true → Rises d (pinSync d n lvl) (272 + n))
      ∧ (edgeSelected d n lvl = false → rd (pinSync d n lvl) (ipend (272 + n)) = rd d (ipend (272 + n))) := by
  have hshown := only_pinShown d n lvl
  have haddr : (ipend (272 + n)).addr ≠ (PINMUX.GPIN (n / 32)).addr := by
    have := n.isLt
    show 0x40030100 + 0x4 * ((272 + n) / 32) ≠ 0x40300010 + 0x4 * ((n : Nat) / 32)
    omega
  have hpend : rd (pinShown d n lvl) (ipend (272 + n)) = rd d (ipend (272 + n)) := hshown.rd_other _ haddr
  rw [pinSync_of_change d n lvl h]
  by_cases hedge : edgeSelected d n lvl = true
  · rw [if_pos hedge]
    refine ⟨hshown.trans (only_raise _ _), fun h0 => ?_, fun _ => ?_, fun hno => absurd (hedge.symm.trans hno) (by decide)⟩
    · rw [bitOf, (only_raise _ _).rd_other _ haddr.symm]
      exact bitOf_pinShown d n lvl h0
    · rw [Rises, raise_rises _ (srcReserved_pin n), hpend]
  · rw [if_neg hedge]
    exact ⟨hshown.mono (List.cons_subset_cons _ (List.nil_subset _)), bitOf_pinShown d n lvl,
      fun hyes => absurd hyes hedge, fun _ => hpend⟩

/-! Trip pins (R719). -/

theorem tripPinOn_told (d : Dev) (n : Fin 64) (lvl : Bool) :
    tripPinOn { d with pinLvl := bitPut d.pinLvl n lvl } n = (decide (pmuxFunc d n = 4) && (lvl != pmuxInv d n)) := by
  show (decide (pmuxFunc d n = 4) && ((bitPut d.pinLvl n lvl).getLsbD n != pmuxInv d n)) = _
  rw [getLsbD_bitPut_same]

theorem tripPin_of_active (d : Dev) (n : Fin 64) (lvl : Bool) (hf : pmuxFunc d n = 4) (hl : (lvl != pmuxInv d n) = true) :
    tripPin d n lvl = setBit { d with pinLvl := bitPut d.pinLvl n lvl } RIND.RILAT (8 + n % 8) true :=
  if_pos (by rw [tripPinOn_told, hf, hl]; rfl)

theorem tripPin_of_inactive (d : Dev) (n : Fin 64) (lvl : Bool) (h : pmuxFunc d n ≠ 4 ∨ (lvl != pmuxInv d n) = false) :
    tripPin d n lvl = { d with pinLvl := bitPut d.pinLvl n lvl } := by
  refine if_neg ?_
  rw [tripPinOn_told]
  rcases h with hf | hl
  · simp [hf]
  · simp [hl]

/-! Outputs and configuration of pins (R717, R721). -/

theorem writeGpout_out (d : Dev) (h : Fin 2) (v : Word) : writeGpout d (0x18 + 4 * h) v = wr d (PINMUX.GPOUT h) v := by
  match h with
  | 0 => rfl
  | 1 => rfl

theorem writeGpout_set (d : Dev) (h : Fin 2) (v : Word) :
    writeGpout d (0x20 + 4 * h) v = wr d (PINMUX.GPOUT h) (rd d (PINMUX.GPOUT h) ||| v) := by
  match h with
  | 0 => rfl
  | 1 => rfl

theorem writeGpout_clear (d : Dev) (h : Fin 2) (v : Word) :
    writeGpout d (0x28 + 4 * h) v = wr d (PINMUX.GPOUT h) (rd d (PINMUX.GPOUT h) &&& ~~~v) := by
  match h with
  | 0 => rfl
  | 1 => rfl

theorem wr_effect (d : Dev) (r : Reg) (v : Word) : rd (wr d r v) r = v ∧ Only d (wr d r v) [r] :=
  ⟨rd_wr_same d r v, only_wr d r v⟩

theorem writePmux_of_legal (d : Dev) (n : Fin 64) (v : Word) (h : fget PINMUX.PMUX_FUNC v < 6) :
    writePmux d (0x40300100 + 4 * n) v = wrPend d (PINMUX.PMUX n) (v &&& 0x1FC7) := by
  have hn := n.isLt
  have hoff : 0x40300100 + 4 * (n : Nat) - 0x40300000 = 0x100 + 4 * n := by omega
  have hown : ¬ 0x800 ≤ 0x100 + 4 * (n : Nat) := by omega
  have hin : (decide (0x40300000 ≤ 0x40300100 + 4 * (n : Nat)) && decide (0x100 ≤ 0x100 + 4 * (n : Nat))
      && decide (0x100 + 4 * (n : Nat) < 0x200) && decide ((0x100 + 4 * (n : Nat)) % 4 = 0)) = true := by
    simp only [Bool.and_eq_true, decide_eq_true_eq]; omega
  have hnum : (0x100 + 4 * (n : Nat) - 0x100) / 4 = n := by omega
  simp only [writePmux, hoff, hown, hin, hnum, if_false, if_true, Nat.not_le.2 h]

end Sys2Proof.Machine

end

section

namespace Sys2Proof.Machine

open Sys2Proof

/-! Answers to a write on the bus (R13, R414, R489, R490, R648). -/

/-- Why a write is answered with an error before it reaches a block: its code is 2 where it is no aligned word, and 1 where it
names no block. -/
def BusRefuses (a size code : Nat) : Prop :=
  ((size ≠ 4 ∨ a % 4 ≠ 0) ∧ code = 2) ∨ (size = 4 ∧ a % 4 = 0 ∧ slotExists a = false ∧ code = 1)

theorem registerWrite_of_refused (d : Dev) (ini : Initiator) (a size : Nat) (v : Word) (code : Nat) (h : BusRefuses a size code) :
    registerWrite d ini a size v = busAnswer d ini a (.error (10, code)) := by
  unfold registerWrite
  by_cases hsize : size = 4
  · rcases h with ⟨h4 | ha, rfl⟩ | ⟨-, ha, hslot, rfl⟩
    · exact absurd hsize h4
    · simp [hsize, busWrite, ha]
    · simp [hsize, busWrite, ha, hslot]
  · rcases h with ⟨-, rfl⟩ | ⟨h4, -⟩
    · rw [if_pos hsize]
    · exact absurd h4 hsize

theorem busAnswer_error_of_not_core (d : Dev) (ini : Initiator) (a : Nat) (e : Nat × Nat) (h : ∀ c : Fin 8, ini ≠ .core c) :
    busAnswer d ini a (.error e) = { d with busErr := true } := by
  cases ini with
  | core c => exact absurd rfl (h c)
  | _ => rfl

theorem busAnswer_error_core (d : Dev) (c : Fin 8) (a : Nat) (e : Nat × Nat) :
    busAnswer d (.core c) a (.error e) = takeExc { d with busErr := true } c e.1 e.2 0 a (coreGet d c).pc := rfl

/-! The last answer of the bus plays no part in what can be entered, in an exception, or in what a write leaves alone. -/

theorem CanEnter.with_busErr {d : Dev} {c k : Nat} (h : CanEnter d c k) (b : Bool) : CanEnter { d with busErr := b } c k := h

theorem Excepted.of_busErr {d e : Dev} {b : Bool} {c k code opnd faddr : Nat} {pc : Word}
    (h : Excepted { d with busErr := b } e c k code opnd faddr pc) : Excepted d e c k code opnd faddr pc := h

theorem Only.with_busErr {d e : Dev} {l : List Reg} (h : Only d e l) (b : Bool) :
    Only { d with busErr := b } { e with busErr := b } l := ⟨by rw [h.1], h.2⟩

theorem PendingTo.with_busErr {d e : Dev} {r : Reg} {v : Word} (h : PendingTo d e r v) (b : Bool) :
    PendingTo { d with busErr := b } { e with busErr := b } r v := by
  obtain ⟨hval, hoth, hframe⟩ := h
  exact ⟨hval, hoth, by rw [hframe]⟩

/-- A write of an aligned word that no error answers. -/
theorem registerWrite_of_ok (d e : Dev) (ini : Initiator) (a : Nat) (v : Word) (h : busWrite d ini a v = (e, .ok ())) :
    registerWrite d ini a 4 v = { e with busErr := false } := by
  rw [registerWrite, if_neg (by decide), h]
  rfl

/-- A block behind a closed gate ignores writes (R648). -/
theorem busWrite_of_gated (d : Dev) (ini : Initiator) (a b : Nat) (v : Word) (ha : a % 4 = 0) (hs : slotExists a = true)
    (hl : coreLocal a = false) (hb : gateOf a = some b) (hg : gateOpen d b = false) : busWrite d ini a v = (d, .ok ()) := by
  simp [busWrite, ha, hs, hl, hb, hg]

/-- An address of a block without a gate that is no core's own and no retention SRAM. -/
def OpenWord (a : Nat) : Prop :=
  a % 4 = 0 ∧ slotExists a = true ∧ coreLocal a = false ∧ gateOf a = none ∧ a < 0x400A4000

theorem busWrite_of_plain (d : Dev) (ini : Initiator) (a : Nat) (v : Word) (h : OpenWord a) (hp : pendAt a = none)
    (ht : tickedAt a = none) : busWrite d ini a v = (plainWrite d ini a v, .ok ()) := by
  obtain ⟨ha, hs, hl, hb, hr⟩ := h
  simp [busWrite, ha, hs, hl, hb, hp, ht, Nat.not_le.2 hr]

theorem busWrite_of_ticked (d : Dev) (ini : Initiator) (a : Nat) (v : Word) (r : Reg) (h : OpenWord a)
    (hr : (pendAt a).or (tickedAt a) = some r) : busWrite d ini a v = (tickedWrite d a r v, .ok ()) := by
  obtain ⟨ha, hs, hl, hb, hret⟩ := h
  cases hp : pendAt a with
  | some q =>
    have hq : q = r := by simpa [hp] using hr
    simp [busWrite, ha, hs, hl, hb, hp, hq, Nat.not_le.2 hret]
  | none =>
    have ht : tickedAt a = some r := by simpa [hp] using hr
    simp [busWrite, ha, hs, hl, hb, hp, ht, Nat.not_le.2 hret]

/-- `simp` turns the complement of 0 into this literal. -/
theorem and_ones (w : Word) : w &&& 4294967295#32 = w := BitVec.and_allOnes

/-! The access types of a row (R17, R19). -/

/-- What a write leaves in a register that is not ticked: its writable bits taken, those it clears cleared. -/
def rowNext (row : RegRow) (w v : Word) : Word := ((w &&& ~~~row.rw) ||| (v &&& row.rw)) &&& ~~~(v &&& row.w1c)

theorem rowWrite_effect (d : Dev) (a : Nat) (v : Word) (row : RegRow) (h : rowAt a = some row) (ht : row.rwt = 0) :
    rd (rowWrite d a v) ⟨a, row.rst⟩ = rowNext row (rd d ⟨a, row.rst⟩) v
      ∧ Only d (rowWrite d a v) [⟨a, row.rst⟩] := by
  simp only [rowWrite, h, ht, if_true]
  split
  · next hsame => exact ⟨hsame.symm, Only.refl d _⟩
  · exact ⟨rd_wr_same _ _ _, only_wr _ _ _⟩

theorem rowWrite_of_ticked (d : Dev) (a : Nat) (v : Word) (row : RegRow) (h : rowAt a = some row) (ht : row.rwt ≠ 0)
    (hrw : row.rw = 0) (hc : row.w1c = 0) :
    rowWrite d a v = wrPend d ⟨a, row.rst⟩ ((rdPend d ⟨a, row.rst⟩ &&& ~~~row.rwt) ||| (v &&& row.rwt)) := by
  have ht' : ¬ row.rwt = 0#32 := ht
  simp [rowWrite, h, hrw, hc, and_ones, ht']

/-! The registers of SYSCFG that stand as examples. -/

theorem rowAt_sclk : rowAt 0x40000000 = some ⟨0x40000000, 0x1, 1, 0x1, 1, 0x0, 0x0, 0x131, 0x0, 0x0, 0x0, .bits⟩ := by
  decide +kernel

theorem rowAt_scsel : rowAt 0x40000004 = some ⟨0x40000004, 0x1, 1, 0x1, 1, 0x0, 0xF0F, 0x0, 0x0, 0x0, 0x0, .bits⟩ := by
  decide +kernel

theorem rowAt_scstat : rowAt 0x40000008 = some ⟨0x40000008, 0x1, 1, 0x1, 1, 0x0, 0x0, 0x0, 0xB, 0x0, 0x0, .bits⟩ := by
  decide +kernel

theorem rowAt_pending_sclk : rowAt 0x40000800 = none := by decide +kernel

theorem busWrite_scsel (d : Dev) (ini : Initiator) (v : Word) :
    busWrite d ini 0x40000004 v = (rowWrite d 0x40000004 v, .ok ()) :=
  busWrite_of_plain d ini 0x40000004 v (by unfold OpenWord; decide) (by simp [pendAt, rowAt_scsel])
    (by simp [tickedAt, rowAt_scsel])

theorem busWrite_scstat (d : Dev) (ini : Initiator) (v : Word) :
    busWrite d ini 0x40000008 v = (rowWrite d 0x40000008 v, .ok ()) :=
  busWrite_of_plain d ini 0x40000008 v (by unfold OpenWord; decide) (by simp [pendAt, rowAt_scstat])
    (by simp [tickedAt, rowAt_scstat])

theorem tickedAt_sclk : tickedAt 0x40000000 = some SYSCFG.SCLK := by simp [tickedAt, rowAt_sclk, SYSCFG.SCLK]

theorem tickedWrite_sclk (d : Dev) (a : Nat) (v : Word) : tickedWrite d a SYSCFG.SCLK v = rowWrite d 0x40000000 v := by
  simp [tickedWrite, SYSCFG.SCLK]

/-- SCLK is written at its own and at its pending address (R19). -/
theorem busWrite_sclk (d : Dev) (ini : Initiator) (a : Nat) (v : Word) (h : a = 0x40000000 ∨ a = 0x40000800) :
    busWrite d ini a v = (rowWrite d 0x40000000 v, .ok ()) := by
  have hreg : OpenWord a ∧ (pendAt a).or (tickedAt a) = some SYSCFG.SCLK := by
    rcases h with rfl | rfl
    · exact ⟨by unfold OpenWord; decide, by simp [pendAt, rowAt_sclk, tickedAt_sclk]⟩
    · exact ⟨by unfold OpenWord; decide, by simp [pendAt, rowAt_pending_sclk, tickedAt_sclk]⟩
  rw [busWrite_of_ticked d ini a v SYSCFG.SCLK hreg.1 hreg.2, tickedWrite_sclk]

theorem registerWrite_scsel (d : Dev) (ini : Initiator) (v : Word) :
    rd (registerWrite d ini 0x40000004 4 v) SYSCFG.SCSEL = v &&& 0xF0F ||| rd d SYSCFG.SCSEL &&& ~~~0xF0F
      ∧ Only { d with busErr := false } (registerWrite d ini 0x40000004 4 v) [SYSCFG.SCSEL] := by
  obtain ⟨hval, honly⟩ := rowWrite_effect d 0x40000004 v _ rowAt_scsel rfl
  rw [registerWrite_of_ok d _ ini _ v (busWrite_scsel d ini v)]
  refine ⟨hval.trans ?_, honly.with_busErr false⟩
  simp [rowNext, BitVec.or_comm, and_ones, SYSCFG.SCSEL]

theorem registerWrite_scstat (d : Dev) (ini : Initiator) (v : Word) :
    rd (registerWrite d ini 0x40000008 4 v) SYSCFG.SCSTAT = rd d SYSCFG.SCSTAT &&& ~~~(v &&& 0xB)
      ∧ Only { d with busErr := false } (registerWrite d ini 0x40000008 4 v) [SYSCFG.SCSTAT] := by
  obtain ⟨hval, honly⟩ := rowWrite_effect d 0x40000008 v _ rowAt_scstat rfl
  rw [registerWrite_of_ok d _ ini _ v (busWrite_scstat d ini v)]
  refine ⟨hval.trans ?_, honly.with_busErr false⟩
  simp [rowNext, and_ones, SYSCFG.SCSTAT]

theorem registerWrite_sclk (d : Dev) (ini : Initiator) (a : Nat) (v : Word) (h : a = 0x40000000 ∨ a = 0x40000800) :
    PendingTo { d with busErr := false } (registerWrite d ini a 4 v) SYSCFG.SCLK
      (rdPend d SYSCFG.SCLK &&& ~~~0x131 ||| v &&& 0x131) := by
  rw [registerWrite_of_ok d _ ini a v (busWrite_sclk d ini a v h),
    rowWrite_of_ticked d 0x40000000 v _ rowAt_sclk (by decide) rfl rfl]
  exact (wrPend_pendingTo d SYSCFG.SCLK _).with_busErr false

end Sys2Proof.Machine

end

section

open Sys2Proof Sys2Proof.Machine

/-- Settles O57: pins, outputs and the answers of the bus, each by the effect of its operation; the exception of a core's
refused write is the entry of R407, whose frame spill leaves the core's own registers. -/
theorem pinsAndRegisterWrites : Obligations.PinsAndRegisterWrites := by
  unfold Obligations.PinsAndRegisterWrites
  refine ⟨?edge, ?tripin, ?outputs, ?pinmux, ?refused, ?gated, ?examples⟩
  case edge =>
    refine fun s n lvl hr => ⟨fun h0 => ?_, fun h0 h2 h5 hsyn => ?_⟩
    · exact does_of_clocked (f := (gpioEdge · n lvl)) rfl hr (gpioEdge_of_off s.dev n lvl h0)
    · refine does_of_clocked (f := (gpioEdge · n lvl)) rfl hr ?_
      obtain ⟨honly, hbit, hrise, hstay⟩ := pinSync_effect { s.dev with pinLvl := bitPut s.dev.pinLvl n lvl } n lvl hsyn
      rw [gpioEdge_of_input s.dev n lvl h0 h2 h5]
      exact ⟨congrArg Dev.pinSyn honly.1, congrArg Dev.pinLvl honly.1, hbit h0, hrise, hstay, honly.regsStay⟩
  case tripin =>
    refine fun s n lvl => ⟨fun hf hl => ⟨tripPin s.dev n lvl, rfl, ?_⟩, fun h => ⟨tripPin s.dev n lvl, rfl, ?_⟩⟩
    · rw [tripPin_of_active s.dev n lvl hf hl]
      exact ⟨bitOf_setBit_same _ _ _ _ (by omega), only_setBit _ _ _ _⟩
    · exact tripPin_of_inactive s.dev n lvl h
  case outputs =>
    refine fun s h v hr => ⟨does_of_clocked (f := (writeGpout · _ v)) rfl hr ?_,
      does_of_clocked (f := (writeGpout · _ v)) rfl hr ?_, does_of_clocked (f := (writeGpout · _ v)) rfl hr ?_⟩
    · rw [writeGpout_out]; exact wr_effect _ _ _
    · rw [writeGpout_set]; exact wr_effect _ _ _
    · rw [writeGpout_clear]; exact wr_effect _ _ _
  case pinmux =>
    refine fun s n v hr hf => does_of_clocked (f := (writePmux · _ v)) rfl hr ?_
    rw [writePmux_of_legal s.dev n v hf]
    exact wrPend_pendingTo _ _ _
  case refused =>
    refine fun s ini a size v code hr hcode => ⟨fun hini => ?_, fun c hini hc => ?_⟩
    · refine does_of_clocked (f := (registerWrite · ini a size v)) rfl hr ?_
      rw [registerWrite_of_refused s.dev ini a size v code hcode]
      exact busAnswer_error_of_not_core s.dev ini a _ hini
    · refine does_of_clocked (f := (registerWrite · ini a size v)) rfl hr ?_
      have henter : CanEnter { s.dev with busErr := true } c 10 := hc.with_busErr true
      rw [registerWrite_of_refused s.dev ini a size v code hcode, hini, busAnswer_error_core]
      exact ⟨takeExc_busErr _ _ _ _ _ _ _ henter, (takeExc_excepted _ _ _ _ _ _ _ henter (by decide)).of_busErr⟩
  case gated =>
    refine fun s ini a b v hr ha hs hl hb hg => does_of_clocked (f := (registerWrite · ini a 4 v)) rfl hr ?_
    exact registerWrite_of_ok s.dev s.dev ini a v (busWrite_of_gated s.dev ini a b v ha hs hl hb hg)
  case examples =>
    refine fun s ini v hr => ⟨?_, ?_, fun a ha => ?_⟩
    · exact does_of_clocked (f := (registerWrite · ini _ 4 v)) rfl hr (registerWrite_scsel s.dev ini v)
    · exact does_of_clocked (f := (registerWrite · ini _ 4 v)) rfl hr (registerWrite_scstat s.dev ini v)
    · exact does_of_clocked (f := (registerWrite · ini a 4 v)) rfl hr (registerWrite_sclk s.dev ini a v ha)

end

section

namespace Sys2Proof.Machine

open Sys2Proof

/-! Time (R27, R610). -/

@[simp] theorem advance_now (d : Dev) (n : Nat) : (advance d n).now = d.now + n := rfl

/-- Two waits are one. -/
theorem advance_advance (d : Dev) (m n : Nat) : advance (advance d m) n = advance d (m + n) := by
  have hk : m - d.tbHold + (n - (d.tbHold - m)) = m + n - d.tbHold := by omega
  have htb : d.tb + BitVec.ofNat 64 (m - d.tbHold) + BitVec.ofNat 64 (n - (d.tbHold - m))
      = d.tb + BitVec.ofNat 64 (m + n - d.tbHold) := by
    rw [← hk, BitVec.ofNat_add, BitVec.add_assoc]
  simp only [advance, Nat.add_assoc, hk, htb, Nat.sub_sub]

@[simp] theorem advanceTo_now (d : Dev) (t : Nat) : (advanceTo d t).now = max d.now t := by
  rw [advanceTo, advance_now]; omega

/-- Time that goes to one instant and on to another has gone to the later one. -/
theorem advanceTo_advanceTo (d : Dev) (t u : Nat) : advanceTo (advanceTo d t) u = advanceTo d (max t u) := by
  have hn : t - d.now + (u - (advanceTo d t).now) = max t u - d.now := by rw [advanceTo_now]; omega
  rw [advanceTo, advanceTo, advance_advance]
  exact congrArg (advance d) hn

/-- Where time went is told by the instant at which it stands. -/
theorem advanceTo_now_self (d : Dev) (t : Nat) : advanceTo d (advanceTo d t).now = advanceTo d t := by
  rw [advanceTo_now, advanceTo, advanceTo]
  exact congrArg (advance d) (by omega)

/-! Fields beside a field that is written. -/

theorem bitOf_sf_field (d : Dev) (r : Reg) (f : Fld) (v b : Nat) (h : b < f.lo ∨ f.hi < b) (hb : b < 32) :
    bitOf (sf d r f v) r b = bitOf d r b := by
  have hout : ¬(f.lo ≤ b ∧ b < f.lo + (f.hi + 1 - f.lo)) := by omega
  rw [bitOf, rd_sf_same, getLsbD_fset, if_neg hout]
  simp [hb, bitOf]

theorem gf_setBit_field (d : Dev) (r : Reg) (b : Nat) (v : Bool) (g : Fld) (h : g.hi < b ∨ b < g.lo) (hg : g.hi < 32) :
    gf (setBit d r b v) r g = gf d r g := gf_sf_field d r ⟨b, b⟩ g _ h hg

end Sys2Proof.Machine

end

section

namespace Sys2Proof.Machine

open Sys2Proof

/-! The reference buffers (R76, R79, R80). -/

@[simp] theorem refGet_refPut_same (d : Dev) (k : Nat) (x : RefSt) : refGet (refPut d k x) k = x :=
  look_store_same d.ref k x {}

/-- From `d` to `e` nothing has changed but REFSTAT and buffer `k`. -/
def RefOnly (k : Nat) (d e : Dev) : Prop := Others d.ref e.ref k ∧ Only { d with ref := e.ref } e [REF.REFSTAT]

theorem RefOnly.trans {k : Nat} {d e f : Dev} (h : RefOnly k d e) (g : RefOnly k e f) : RefOnly k d f := by
  obtain ⟨hother, hframe, hregs⟩ := h
  obtain ⟨gother, gframe, gregs⟩ := g
  refine ⟨hother.trans gother, ?_, fun r hr => (gregs r hr).trans (hregs r hr)⟩
  rw [gframe, hframe]

theorem refOnly_refPut (d : Dev) (k : Nat) (x : RefSt) : RefOnly k d (refPut d k x) :=
  ⟨fun j y hj => look_store_other d.ref k j x {} y hj, Only.refl _ _⟩

theorem Only.refOnly {d e : Dev} (h : Only d e [REF.REFSTAT]) (k : Nat) : RefOnly k d e := by
  have href : e.ref = d.ref := by rw [h.1]
  refine ⟨fun j x _ => by rw [href], ?_⟩
  rw [href]
  exact h

theorem refOnly_refSetState (d : Dev) (k st : Nat) : RefOnly k d (refSetState d k st) := (only_sf d REF.REFSTAT _ st).refOnly k

theorem refOnly_refUp (d : Dev) (k : Nat) : RefOnly k d (refUp d k) :=
  (refOnly_refPut d k _).trans ((only_setBit _ REF.REFSTAT (8 + k) true).refOnly k)

theorem refOnly_refStart (d : Dev) (k : Nat) : RefOnly k d (refStart d k) :=
  (refOnly_refPut d k _).trans (refOnly_refSetState _ k 1)

theorem refState_refSetState_same (d : Dev) (k : Fin 4) {st : Nat} (h : st < 4) : refState (refSetState d k st) k = st := by
  have hw : 2 * (k : Nat) + 1 + 1 - 2 * k = 2 := by omega
  rw [refState, refSetState, gf_sf_same _ _ _ _ (show 2 * (k : Nat) + 1 < 32 by omega)]
  simp only [refFld, hw]
  omega

/-- The state of another buffer has a field of its own. -/
theorem refState_refSetState_other (d : Dev) {j k : Fin 4} (st : Nat) (h : j ≠ k) :
    refState (refSetState d k st) j = refState d j := by
  have hjk : (j : Nat) ≠ k := fun e => h (Fin.ext e)
  exact gf_sf_field d REF.REFSTAT (refFld k) (refFld j) st (by simp only [refFld]; omega) (by simp only [refFld]; omega)

theorem ready_refSetState (d : Dev) (j k : Fin 4) (st : Nat) :
    bitOf (refSetState d k st) REF.REFSTAT (8 + j) = bitOf d REF.REFSTAT (8 + j) :=
  bitOf_sf_field d REF.REFSTAT (refFld k) st (8 + j) (by simp only [refFld]; omega) (by omega)

theorem rd_refUp (d : Dev) (k : Nat) : rd (refUp d k) REF.REFSTAT = rd d REF.REFSTAT ||| bit (8 + k) :=
  rd_setBit_true (refPut d k _) REF.REFSTAT (8 + k)

theorem refState_refUp (d : Dev) (j k : Fin 4) : refState (refUp d k) j = refState d j :=
  gf_setBit_field (refPut d k _) REF.REFSTAT (8 + k) true (refFld j) (by simp only [refFld]; omega)
    (by simp only [refFld]; omega)

theorem ready_refUp_same (d : Dev) (k : Fin 4) : bitOf (refUp d k) REF.REFSTAT (8 + k) = true :=
  bitOf_setBit_same (refPut d k _) REF.REFSTAT (8 + k) true (by omega)

theorem ready_refUp_other (d : Dev) {j k : Fin 4} (h : j ≠ k) :
    bitOf (refUp d k) REF.REFSTAT (8 + j) = bitOf d REF.REFSTAT (8 + j) :=
  bitOf_setBit_bit (refPut d k _) REF.REFSTAT (8 + k) (8 + j) true (fun e => h (Fin.ext (by omega))) (by omega)

theorem ext_refUp (d : Dev) (k : Nat) : (refGet (refUp d k) k).ext = none :=
  congrArg RefSt.ext (refGet_refPut_same d k _)

theorem due_refStart (d : Dev) (k : Nat) : (refGet (refStart d k) k).due = d.now + 120000 :=
  congrArg RefSt.due (refGet_refPut_same d k { refGet d k with due := d.now + 120000 })

theorem refReady_of_starting (d : Dev) (k : Nat) (h : refState d k = 1) :
    refReady d k = refUp (refSetState (advanceTo d (refGet d k).due) k 2) k := if_pos h

theorem refExtReady_of_chosen (d : Dev) (k t : Nat) (h : (refGet d k).ext = some t) :
    refExtReady d k = refUp (advanceTo d t) k := by rw [refExtReady, h]

theorem refStopDone_of_wanted (d : Dev) (k : Nat) (h : refState d k = 3) (hen : refEn (rd d REF.REFCTL) k = true)
    (hext : refExt (rd d REF.REFCTL) k = false) : refStopDone d k = refStart (advanceTo d (refGet d k).due) k := by
  rw [refStopDone, if_pos h]
  exact if_pos (by rw [show rd (advanceTo d _) REF.REFCTL = rd d REF.REFCTL from rfl, hen, hext]; rfl)

theorem refStopDone_of_unwanted (d : Dev) (k : Nat) (h : refState d k = 3)
    (hno : refEn (rd d REF.REFCTL) k = false ∨ refExt (rd d REF.REFCTL) k = true) :
    refStopDone d k = refSetState (advanceTo d (refGet d k).due) k 0 := by
  rw [refStopDone, if_pos h]
  refine if_neg ?_
  rw [show rd (advanceTo d _) REF.REFCTL = rd d REF.REFCTL from rfl]
  rcases hno with hen | hext
  · simp [hen]
  · simp [hext]

end Sys2Proof.Machine

end

section

open Sys2Proof Sys2Proof.Machine

/-- Settles O13: each end of a timed state sets the buffer's own field, and its own READY bit where it comes up. -/
theorem referencesStartAndStop : Obligations.ReferencesStartAndStop := by
  unfold Obligations.ReferencesStartAndStop
  refine ⟨fun s k hr h1 => ?_, fun s k t hr hext => ?_, fun s k hr h3 => ?_⟩
  · refine does_of_clocked (f := (refReady · k)) rfl hr ?_
    obtain ⟨hother, honly⟩ := (refOnly_refSetState (advanceTo s.dev (refGet s.dev k).due) k 2).trans (refOnly_refUp _ k)
    rw [refReady_of_starting s.dev k h1]
    refine ⟨?_, ready_refUp_same _ k, fun j hj => ⟨?_, ?_⟩, hother, honly⟩
    · rw [refState_refUp, refState_refSetState_same _ k (by decide)]
    · rw [refState_refUp, refState_refSetState_other _ 2 hj]; rfl
    · rw [ready_refUp_other _ hj, ready_refSetState]; rfl
  · refine does_of_clocked (f := (refExtReady · k)) rfl hr ?_
    obtain ⟨hother, honly⟩ := refOnly_refUp (advanceTo s.dev t) k
    rw [refExtReady_of_chosen s.dev k t hext]
    exact ⟨rd_refUp _ k, ext_refUp _ k, hother, honly⟩
  · refine does_of_clocked (f := (refStopDone · k)) rfl hr ?_
    by_cases hwant : refEn (rd s.dev REF.REFCTL) k = true ∧ refExt (rd s.dev REF.REFCTL) k = false
    · obtain ⟨hen, hext⟩ := hwant
      obtain ⟨hother, honly⟩ := refOnly_refStart (advanceTo s.dev (refGet s.dev k).due) k
      rw [refStopDone_of_wanted s.dev k h3 hen hext]
      refine ⟨fun _ _ => ⟨refState_refSetState_same _ k (by decide), due_refStart _ k⟩, fun hno => ?_,
        fun j hj => refState_refSetState_other _ 1 hj, hother, honly⟩
      simp [hen, hext] at hno
    · have hno : refEn (rd s.dev REF.REFCTL) k = false ∨ refExt (rd s.dev REF.REFCTL) k = true := by
        simpa [Classical.or_iff_not_imp_left] using hwant
      obtain ⟨hother, honly⟩ := refOnly_refSetState (advanceTo s.dev (refGet s.dev k).due) k 0
      rw [refStopDone_of_unwanted s.dev k h3 hno]
      exact ⟨fun hen hext => absurd ⟨hen, hext⟩ hwant, fun _ => refState_refSetState_same _ k (by decide),
        fun j hj => refState_refSetState_other _ 0 hj, hother, honly⟩

end

section

namespace Sys2Proof.Machine

open Sys2Proof

/-! The converters' own state and registers. -/

@[simp] theorem adcGet_adcPut_same (d : Dev) (n : Nat) (x : AdcSt) : adcGet (adcPut d n x) n = x :=
  look_store_same d.adc n x {}

theorem others_adcPut (d : Dev) (n : Nat) (x : AdcSt) : Others d.adc (adcPut d n x).adc n :=
  fun j y hj => look_store_other d.adc n j x {} y hj

/-- From `d` to `e` nothing has changed but the listed registers, converter `n` and what free values have been drawn. -/
def ConvOnly (n : Nat) (d e : Dev) (l : List Reg) : Prop :=
  Others d.adc e.adc n ∧ Only { d with adc := e.adc, free := e.free } e l

theorem ConvOnly.trans {n : Nat} {d e f : Dev} {l m : List Reg} (h : ConvOnly n d e l) (g : ConvOnly n e f m) :
    ConvOnly n d f (l ++ m) := by
  obtain ⟨hother, hframe, hregs⟩ := h
  obtain ⟨gother, gframe, gregs⟩ := g
  refine ⟨hother.trans gother, ?_, RegsStay.trans (e := e) hregs gregs⟩
  rw [gframe, hframe]

theorem ConvOnly.mono {n : Nat} {d e : Dev} {l m : List Reg} (h : ConvOnly n d e l) (hs : l ⊆ m) : ConvOnly n d e m :=
  ⟨h.1, h.2.mono hs⟩

theorem convOnly_adcPut (d : Dev) (n : Nat) (x : AdcSt) (l : List Reg) : ConvOnly n d (adcPut d n x) l :=
  ⟨others_adcPut d n x, Only.refl _ l⟩

theorem convOnly_draw (d : Dev) (n : Nat) : ConvOnly n d (draw d).2 [] := ⟨fun _ _ _ => rfl, Only.refl _ _⟩

theorem Only.convOnly {d e : Dev} {l : List Reg} (h : Only d e l) (n : Nat) : ConvOnly n d e l := by
  have hadc : e.adc = d.adc := by rw [h.1]
  have hfree : e.free = d.free := by rw [h.1]
  refine ⟨fun j x _ => by rw [hadc], ?_⟩
  rw [hadc, hfree]
  exact h

/-- Where no free value has been drawn. -/
theorem ConvOnly.only {n : Nat} {d e : Dev} {l : List Reg} (h : ConvOnly n d e l) (hf : e.free = d.free) :
    Only { d with adc := e.adc } e l := by
  have honly := h.2
  rw [hf] at honly
  exact honly

theorem adcState_adcSetState (d : Dev) (n : Nat) {st : Nat} (h : st < 4) : adcState (adcSetState d n st) n = st := by
  rw [adcState, adcSetState, gf_sf_same _ _ _ _ (by decide)]
  exact Nat.mod_eq_of_lt h

theorem convOnly_adcSetState (d : Dev) (n st : Nat) : ConvOnly n d (adcSetState d n st) [ADC.ASTAT n] :=
  (only_sf d (ADC.ASTAT n) _ st).convOnly n

/-- A converter whose start has been put down, with its busy bit and its state (R100, R103). -/
theorem convOnly_started (d : Dev) (n : Nat) (x : AdcSt) (busy : Bool) (st : Nat) :
    ConvOnly n d (adcSetState (setBit (adcPut d n x) (ADC.ASTAT n) 10 busy) n st) [ADC.ASTAT n] :=
  ((convOnly_adcPut d n x []).trans (((only_setBit _ (ADC.ASTAT n) 10 busy).convOnly n).trans
    (convOnly_adcSetState _ n st))).mono (by simp)

/-! The start of a converter (R100, R101, R103). -/

/-- What a converter's own state becomes where it starts now. -/
def adcStarted (d : Dev) (n : Nat) : AdcSt :=
  { adcGet d n with due := d.now + (if gf d (ADC.ACAL n) ADC.ACAL_SKIP = 1 then 3000 else 27000),
                    cal := if gf d (ADC.ACAL n) ADC.ACAL_SKIP = 1 then none else some (d.now + 24000) }

theorem adcStart_eq (d : Dev) (n : Nat) :
    adcStart d n = adcSetState (setBit (adcPut d n (adcStarted d n)) (ADC.ASTAT n) 10
      !decide (gf d (ADC.ACAL n) ADC.ACAL_SKIP = 1)) n 1 := by
  simp only [adcStart, adcStarted]

theorem adcGet_adcStart (d : Dev) (n : Nat) : adcGet (adcStart d n) n = adcStarted d n := by
  rw [adcStart_eq]
  exact adcGet_adcPut_same d n (adcStarted d n)

theorem adcState_adcStart (d : Dev) (n : Nat) : adcState (adcStart d n) n = 1 := by
  rw [adcStart_eq]
  exact adcState_adcSetState _ n (by decide)

theorem convOnly_adcStart (d : Dev) (n : Nat) : ConvOnly n d (adcStart d n) [ADC.ASTAT n] := by
  rw [adcStart_eq]
  exact convOnly_started d n _ _ 1

@[simp] theorem adcStart_free (d : Dev) (n : Nat) : (adcStart d n).free = d.free := rfl

/-! Calibrations (R100, R102). -/

/-- The registers that the end of a calibration writes. -/
def calRegs (n : Nat) : List Reg := ADC.ASTAT n :: (List.range 6).map (ADC.CALG n)

/-- The converter with no calibration under way. -/
def calEnded (d : Dev) (n : Nat) : Dev := setBit (adcPut d n { adcGet d n with cal := none }) (ADC.ASTAT n) 10 false

/-- One trim takes a free value (R100). -/
def calTrim (n : Nat) (d : Dev) (g : Nat) : Dev := wr (draw d).2 (ADC.CALG n g) (Config.freeWord (draw d).1)

theorem adcCalWrite_eq (d : Dev) (n : Nat) : adcCalWrite d n = (List.range 6).foldl (calTrim n) (calEnded d n) := rfl

/-- Writing trims changes them alone: neither the converter's own state nor its status. -/
theorem calTrims_effect (n : Nat) (l : List Nat) (d : Dev) :
    ConvOnly n d (l.foldl (calTrim n) d) (l.map (ADC.CALG n)) ∧ (l.foldl (calTrim n) d).adc = d.adc := by
  induction l generalizing d with
  | nil => exact ⟨(Only.refl d []).convOnly n, rfl⟩
  | cons g l ih =>
    obtain ⟨hframe, hadc⟩ := ih (calTrim n d g)
    have htrim : ConvOnly n d (calTrim n d g) [ADC.CALG n g] :=
      (convOnly_draw d n).trans ((only_wr _ (ADC.CALG n g) _).convOnly n)
    exact ⟨htrim.trans hframe, hadc⟩

theorem CALG_ne_ASTAT (n g : Nat) : (ADC.CALG n g).addr ≠ (ADC.ASTAT n).addr := by
  show 0x40100040 + 0x1000 * n + 0x4 * g ≠ 0x40100014 + 0x1000 * n
  omega

/-- The end of a calibration: its busy bit and the trims change, nothing of the converter but that no calibration is left. -/
theorem adcCalWrite_effect (d : Dev) (n : Nat) :
    ConvOnly n d (adcCalWrite d n) (calRegs n)
      ∧ adcGet (adcCalWrite d n) n = { adcGet d n with cal := none } ∧ bitOf (adcCalWrite d n) (ADC.ASTAT n) 10 = false := by
  obtain ⟨htrims, hadc⟩ := calTrims_effect n (List.range 6) (calEnded d n)
  have hended : ConvOnly n d (calEnded d n) [ADC.ASTAT n] :=
    (convOnly_adcPut d n _ []).trans ((only_setBit _ (ADC.ASTAT n) 10 false).convOnly n)
  have hstat : rd (adcCalWrite d n) (ADC.ASTAT n) = rd (calEnded d n) (ADC.ASTAT n) := by
    refine htrims.2.regsStay (ADC.ASTAT n) fun hin => ?_
    obtain ⟨r, hr, haddr⟩ := List.mem_map.1 hin
    obtain ⟨g, -, rfl⟩ := List.mem_map.1 hr
    exact CALG_ne_ASTAT n g haddr
  refine ⟨hended.trans htrims, ?_, ?_⟩
  · rw [adcGet, adcCalWrite_eq, hadc]
    exact adcGet_adcPut_same d n _
  · rw [bitOf, hstat]
    exact bitOf_setBit_same _ (ADC.ASTAT n) 10 false (by decide)

theorem adcCalDone_of_due (d : Dev) (n t : Nat) (h : (adcGet d n).cal = some t) :
    adcCalDone d n = adcCalWrite (advanceTo d t) n := by rw [adcCalDone, h]

/-- Whether or not a calibration ends: the time, the converter's trims and status and its calibration apart, all stays. -/
theorem adcCalDone_effect (d : Dev) (n : Nat) :
    ∃ t : Nat, ConvOnly n (advanceTo d t) (adcCalDone d n) (calRegs n) ∧ (adcGet (adcCalDone d n) n).due = (adcGet d n).due := by
  cases hcal : (adcGet d n).cal with
  | none =>
    have hsame : advanceTo d 0 = d := by simp [advanceTo, advance]
    rw [adcCalDone, hcal]
    exact ⟨0, by rw [hsame]; exact (Only.refl d _).convOnly n, rfl⟩
  | some t =>
    obtain ⟨hframe, hget, -⟩ := adcCalWrite_effect (advanceTo d t) n
    rw [adcCalDone_of_due d n t hcal]
    exact ⟨t, hframe, by rw [hget]; rfl⟩

/-- A calibration can be started: RUNNING, empty sequences, none under way (R102). -/
def calReady (d : Dev) (n : Nat) : Prop :=
  adcState d n = 2 ∧ gf d (ADC.ACSEQ n) ADC.ACSEQ_LEN = 0 ∧ gf d (ADC.AMSEQ n) ADC.AMSEQ_LEN = 0 ∧ (adcGet d n).cal = none

theorem adcCalStart_of_ready (d : Dev) (n : Nat) (hg : gateOpen d (1 + n) = true) (h : calReady d n) :
    adcCalStart d n = setBit (adcPut d n { adcGet d n with cal := some (d.now + 24000) }) (ADC.ASTAT n) 10 true := by
  obtain ⟨hrun, hctl, hmon, hcal⟩ := h
  simp [adcCalStart, hg, hrun, hctl, hmon, hcal]

theorem adcCalStart_of_not_ready (d : Dev) (n : Nat) (hg : gateOpen d (1 + n) = true) (h : ¬ calReady d n) :
    adcCalStart d n = adcFlag d n 7 := by
  rw [adcCalStart, if_pos hg]
  exact if_neg (by simpa [calReady, and_assoc] using h)

/-! The ends of STARTING and STOPPING (R101, R103 to R105). -/

theorem le_edgeAt (d : Dev) (k t : Nat) : t ≤ edgeAt d k t := Nat.le_add_right t _

/-- The instant at which a STARTING converter becomes RUNNING: an ADC edge. -/
def adcRunsAt (d : Dev) (n : Nat) : Nat := edgeAt (adcCalDone d n) 6 (max (adcCalDone d n).now (adcGet (adcCalDone d n) n).due)

/-- A STARTING converter with its calibration done, at that instant. -/
def adcWarm (d : Dev) (n : Nat) : Dev := advanceTo (adcCalDone d n) (adcRunsAt d n)

theorem adcStartDone_of_starting (d : Dev) (n : Nat) (h : adcState d n = 1) :
    adcStartDone d n = adcSetState (adcPut (adcWarm d n) n { adcGet (adcWarm d n) n with pass := (adcWarm d n).now }) n 2 :=
  if_pos h

theorem due_le_adcWarm_now (d : Dev) (n : Nat) : (adcGet d n).due ≤ (adcWarm d n).now := by
  obtain ⟨-, -, hdue⟩ := adcCalDone_effect d n
  have hedge := le_edgeAt (adcCalDone d n) 6 (max (adcCalDone d n).now (adcGet (adcCalDone d n) n).due)
  rw [adcWarm, advanceTo_now, ← hdue]
  exact Nat.le_trans (Nat.le_trans (Nat.le_max_right _ _) hedge) (Nat.le_max_right _ _)

/-- Time and what else changes may change in either order. -/
theorem ConvOnly.advanceTo {n : Nat} {d e : Dev} {l : List Reg} (h : ConvOnly n d e l) (t : Nat) :
    ConvOnly n (advanceTo d t) (advanceTo e t) l := by
  obtain ⟨hother, hframe, hregs⟩ := h
  refine ⟨hother, ?_, hregs⟩
  rw [hframe]
  rfl

theorem adcWarm_effect (d : Dev) (n : Nat) : ConvOnly n (advanceTo d (adcWarm d n).now) (adcWarm d n) (calRegs n) := by
  obtain ⟨t, hframe, -⟩ := adcCalDone_effect d n
  have hwarm : ConvOnly n (advanceTo d (max t (adcRunsAt d n))) (adcWarm d n) (calRegs n) := by
    rw [← advanceTo_advanceTo]
    exact hframe.advanceTo _
  have hnow : (adcWarm d n).now = (advanceTo d (max t (adcRunsAt d n))).now := by rw [hwarm.2.1]
  rw [hnow, advanceTo_now_self]
  exact hwarm

/-- A STOPPING converter with no sample in flight, when its time is up. -/
def adcDrained (d : Dev) (n : Nat) : Dev :=
  adcPut (advanceTo d (adcGet d n).due) n { adcGet d n with fl := [], ctl := [] }

theorem adcStopDone_of_wanted (d : Dev) (n : Nat) (h : adcState d n = 3) (hen : gf d (ADC.ACTL n) ADC.ACTL_EN = 1) :
    adcStopDone d n = adcStart (adcDrained d n) n := by
  rw [adcStopDone, if_pos h]
  exact if_pos hen

theorem adcStopDone_of_unwanted (d : Dev) (n : Nat) (h : adcState d n = 3) (hen : gf d (ADC.ACTL n) ADC.ACTL_EN ≠ 1) :
    adcStopDone d n = adcSetState (adcDrained d n) n 0 := by
  rw [adcStopDone, if_pos h]
  exact if_neg hen

theorem adcGet_adcDrained (d : Dev) (n : Nat) : adcGet (adcDrained d n) n = { adcGet d n with fl := [], ctl := [] } :=
  adcGet_adcPut_same _ n _

theorem convOnly_adcDrained (d : Dev) (n : Nat) : ConvOnly n (advanceTo d (adcGet d n).due) (adcDrained d n) [] :=
  convOnly_adcPut _ n _ []

end Sys2Proof.Machine

end

section

open Sys2Proof Sys2Proof.Machine

/-- Settles O14: each end of a timed state and ACAL.START by what it leaves of the converter, its status and its trims. -/
theorem convertersStartStopCalibrate : Obligations.ConvertersStartStopCalibrate := by
  unfold Obligations.ConvertersStartStopCalibrate
  refine ⟨?started, ?stopped, ?begins, ?refused, ?ends⟩
  case started =>
    refine fun s n hr h1 => does_of_clocked (f := (adcStartDone · n)) rfl hr ?_
    obtain ⟨hother, honly⟩ := (adcWarm_effect s.dev n).trans
      ((convOnly_adcPut _ n { adcGet (adcWarm s.dev n) n with pass := (adcWarm s.dev n).now } []).trans (convOnly_adcSetState _ n 2))
    have hget := adcGet_adcPut_same (adcWarm s.dev n) n { adcGet (adcWarm s.dev n) n with pass := (adcWarm s.dev n).now }
    rw [adcStartDone_of_starting s.dev n h1]
    exact ⟨adcState_adcSetState _ n (by decide), congrArg AdcSt.pass hget, due_le_adcWarm_now s.dev n, hother,
      honly.mono (by simp [calRegs])⟩
  case stopped =>
    refine fun s n hr h3 => does_of_clocked (f := (adcStopDone · n)) rfl hr ?_
    by_cases hen : gf s.dev (ADC.ACTL n) ADC.ACTL_EN = 1
    · have hframe := (convOnly_adcDrained s.dev n).trans (convOnly_adcStart (adcDrained s.dev n) n)
      rw [adcStopDone_of_wanted s.dev n h3 hen, adcGet_adcStart, adcStarted, adcGet_adcDrained]
      exact ⟨rfl, rfl, fun _ => adcState_adcStart _ n, fun hno => absurd hen hno, hframe.1, hframe.only rfl⟩
    · have hframe := (convOnly_adcDrained s.dev n).trans (convOnly_adcSetState (adcDrained s.dev n) n 0)
      have hget : adcGet (adcSetState (adcDrained s.dev n) n 0) n = _ := adcGet_adcDrained s.dev n
      rw [adcStopDone_of_unwanted s.dev n h3 hen, hget]
      exact ⟨rfl, rfl, fun hyes => absurd hyes hen, fun _ => adcState_adcSetState _ n (by decide), hframe.1, hframe.only rfl⟩
  case begins =>
    refine fun s n hr hg hrun hctl hmon hcal => does_of_clocked (f := (adcCalStart · n)) rfl hr ?_
    have hframe := (convOnly_adcPut s.dev n { adcGet s.dev n with cal := some (s.dev.now + 24000) } []).trans
      ((only_setBit _ (ADC.ASTAT n) 10 true).convOnly n)
    have hget := adcGet_adcPut_same s.dev n { adcGet s.dev n with cal := some (s.dev.now + 24000) }
    rw [adcCalStart_of_ready s.dev n hg ⟨hrun, hctl, hmon, hcal⟩]
    exact ⟨rd_setBit_true _ _ _, congrArg AdcSt.cal hget, hframe.1, hframe.only rfl⟩
  case refused =>
    refine fun s n hr hg hno => does_of_clocked (f := (adcCalStart · n)) rfl hr ?_
    have hready : ¬ calReady s.dev n := fun ⟨hrun, hctl, hmon, hcal⟩ => by simp [hrun, hctl, hmon, hcal] at hno
    rw [adcCalStart_of_not_ready s.dev n hg hready]
    exact adcFlag_flagUp s.dev n 7
  case ends =>
    refine fun s n t hr hcal => does_of_clocked (f := (adcCalDone · n)) rfl hr ?_
    obtain ⟨⟨hother, honly⟩, hget, hbusy⟩ := adcCalWrite_effect (advanceTo s.dev t) n
    rw [adcCalDone_of_due s.dev n t hcal]
    exact ⟨hbusy, congrArg AdcSt.cal hget, hother, honly⟩

end

section

namespace Sys2Proof.Machine

open Sys2Proof

/-! Sequences (R73, R74, R83). -/

/-- A sequence samples its entries in order. -/
theorem map_ent_seqItems (mon lp : Bool) (l : List Word) : ∀ i a : Nat, (seqItems mon lp i a l).map Smp.ent = l := by
  induction l with
  | nil => intro i a; rfl
  | cons e l ih => intro i a; rw [seqItems, List.map_cons, ih]

theorem length_seqItems (mon lp : Bool) (i a : Nat) (l : List Word) : (seqItems mon lp i a l).length = l.length := by
  rw [← List.length_map Smp.ent, map_ent_seqItems]

/-! Control triggers (R82, R87, R88, R90). -/

/-- The entry words of a converter's control sequence. -/
def ctlEntries (d : Dev) (n : Nat) : List Word :=
  (List.range (gf d (ADC.ACSEQ n) ADC.ACSEQ_LEN)).map (fun i => rd d (ADC.CENT n i))

/-- The device at the PERIPH edge at or after now, where triggers are taken. -/
def atPeriph (d : Dev) : Dev := advanceTo d (edgeAt d 2 d.now)

theorem le_atPeriph_now (d : Dev) : d.now ≤ (atPeriph d).now := by
  rw [atPeriph, advanceTo_now]
  exact Nat.le_max_left _ _

theorem atPeriph_now_le (d : Dev) : (atPeriph d).now ≤ d.now + 1 := by
  have hlt : (2 - tbAt d d.now % 2) % 2 < 2 := Nat.mod_lt _ (by decide)
  rw [atPeriph, advanceTo_now, edgeAt]
  omega

theorem advanceTo_atPeriph_now (d : Dev) : advanceTo d (atPeriph d).now = atPeriph d := advanceTo_now_self d _

/-- A control sequence can be triggered: RUNNING and not empty (R87). -/
def CtlRuns (d : Dev) (n : Nat) : Prop := adcState d n = 2 ∧ gf d (ADC.ACSEQ n) ADC.ACSEQ_LEN ≠ 0

theorem CtlRuns.starts {d : Dev} {n : Nat} (h : CtlRuns d n) :
    (decide (adcState (atPeriph d) n = 2) && decide (gf (atPeriph d) (ADC.ACSEQ n) ADC.ACSEQ_LEN ≠ 0)) = true := by
  simp only [Bool.and_eq_true, decide_eq_true_eq]
  exact h

/-- A trigger that finds no sequence at work puts the samples of its own in flight, behind those there. -/
theorem adcAccept_of_free (d : Dev) (n : Nat) (h : CtlRuns d n) (hfree : ∀ r ∈ (adcGet d n).ctl, r.2 ≤ (atPeriph d).now) :
    ∃ (fl : List Smp) (t : Nat) (run : Nat × Nat), fl.length = (adcGet d n).fl.length ∧
      adcAccept d n = adcPut (atPeriph d) n { adcGet d n with
        fl := fl ++ seqItems false (adcLp d n) 0 t (ctlEntries d n),
        ctl := (if gf d (ADC.AMSEQ n) ADC.AMSEQ_LEN = 0 then [] else (adcGet d n).ctl) ++ [run] } := by
  have hnone : ¬ ((adcGet (atPeriph d) n).ctl.any fun r => decide ((atPeriph d).now < r.2)) = true := by
    simp only [List.any_eq_true, decide_eq_true_eq, not_exists, not_and, Nat.not_lt]
    exact hfree
  refine ⟨_, _, _, ?_, (if_pos h.starts).trans (if_neg hnone)⟩
  exact List.length_map _

/-- A trigger that finds a sequence at work is dropped. -/
theorem adcAccept_of_busy (d : Dev) (n : Nat) (h : CtlRuns d n) (hbusy : ∃ r ∈ (adcGet d n).ctl, (atPeriph d).now < r.2) :
    adcAccept d n = bump (adcFlag (atPeriph d) n 1) (ADC.ADROP n) ADC.ADROP_CNT := by
  have hsome : ((adcGet (atPeriph d) n).ctl.any fun r => decide ((atPeriph d).now < r.2)) = true := by
    simp only [List.any_eq_true, decide_eq_true_eq]
    exact hbusy
  exact (if_pos h.starts).trans (if_pos hsome)

/-- What an accepted trigger leaves: its samples behind those in flight, one run more, and nothing but that converter changed. -/
theorem adcAccept_effect (d : Dev) (n : Nat) (h : CtlRuns d n) (hfree : ∀ r ∈ (adcGet d n).ctl, r.2 ≤ (atPeriph d).now) :
    ((adcGet (adcAccept d n) n).fl.drop (adcGet d n).fl.length).map Smp.ent = ctlEntries d n
      ∧ ((adcGet d n).ctl = [] → (adcGet (adcAccept d n) n).ctl.length = 1) ∧ Others d.adc (adcAccept d n).adc n
      ∧ adcAccept d n = { advanceTo d (adcAccept d n).now with adc := (adcAccept d n).adc } := by
  obtain ⟨fl, t, run, hlen, heq⟩ := adcAccept_of_free d n h hfree
  have hnow : (adcAccept d n).now = (atPeriph d).now := by rw [heq]; rfl
  rw [hnow, advanceTo_atPeriph_now, heq, adcGet_adcPut_same]
  refine ⟨?_, fun hctl => ?_, others_adcPut (atPeriph d) n _, rfl⟩
  · rw [← hlen, List.drop_left, map_ent_seqItems]
  · simp [hctl]

/-! Counters beside flags (R18). -/

/-- A flag that is set between equal readings of its registers. -/
theorem FlagUp.congr {d d' e e' : Dev} {r : Reg} {b ie src : Nat} (h : FlagUp d e r b ie src) (hd : rd d' r = rd d r)
    (hd' : rd d' (ipend src) = rd d (ipend src)) (he : rd e' r = rd e r) (he' : rd e' (ipend src) = rd e (ipend src)) :
    FlagUp d' e' r b ie src := by
  obtain ⟨hflag, hpend⟩ := h
  refine ⟨by rw [he, hd, hflag], ?_⟩
  rw [he', hd', bitOf, hd]
  exact hpend

theorem only_bump (d : Dev) (r : Reg) (f : Fld) (k : Nat) : Only d (bump d r f k) [r] := only_sf d r f _

/-- A counter counts up and stops at its end. -/
theorem gf_bump_same (d : Dev) (r : Reg) (f : Fld) (k : Nat) (h : f.hi < 32) :
    gf (bump d r f k) r f = min (gf d r f + k) (ftop f) := by
  have htop : ftop f < 2 ^ (f.hi + 1 - f.lo) := Nat.sub_lt (Nat.two_pow_pos _) Nat.one_pos
  rw [bump, gf_sf_same _ _ _ _ h]
  exact Nat.mod_eq_of_lt (Nat.lt_of_le_of_lt (Nat.min_le_right _ _) htop)

/-- A flag of a converter with a counter of its own: an event that is counted and flagged. -/
theorem bump_adcFlag_effect (d : Dev) (n : Fin 8) (b : Nat) (r : Reg) (f : Fld) (hr : r.addr ≠ (ADC.ASTAT n).addr)
    (hp : r.addr ≠ (ipend (48 + n)).addr) (hf : f.hi < 32) :
    FlagUp d (bump (adcFlag d n b) r f) (ADC.ASTAT n) b (gf d (ADC.ASEL n) ADC.ASEL_IE) (48 + n)
      ∧ gf (bump (adcFlag d n b) r f) r f = min (gf d r f + 1) (ftop f)
      ∧ Only d (bump (adcFlag d n b) r f) [r, ADC.ASTAT n, ipend (48 + n)] := by
  obtain ⟨hflag, honly⟩ := adcFlag_flagUp d n b
  have hcount := only_bump (adcFlag d n b) r f 1
  have hsame : gf (adcFlag d n b) r f = gf d r f := by
    rw [gf, honly.regsStay r (by simp [hr, hp]), gf]
  refine ⟨hflag.congr rfl rfl (hcount.rd_other _ hr.symm) (hcount.rd_other _ hp.symm), ?_,
    (honly.trans hcount).mono (by simp)⟩
  rw [gf_bump_same _ _ _ _ hf, hsame]

theorem ADROP_ne_ASTAT (n : Nat) : (ADC.ADROP n).addr ≠ (ADC.ASTAT n).addr := by
  show 0x40100018 + 0x1000 * n ≠ 0x40100014 + 0x1000 * n
  omega

/-- No register of the converters is one of the pending bits. -/
theorem conv_ne_ipend (n : Fin 8) {r : Reg} (h : 0x40100000 ≤ r.addr) : r.addr ≠ (ipend (48 + n)).addr := by
  have hn := n.isLt
  show r.addr ≠ 0x40030100 + 0x4 * ((48 + n) / 32)
  omega

theorem adcTrigger_of_event (d : Dev) (n dt : Nat) (h0 : gf d (ADC.ATRIG n) ADC.ATRIG_TSEL ≠ 0)
    (h2 : gf d (ADC.ATRIG n) ADC.ATRIG_TSEL ≠ 2) : adcTrigger d n dt = adcAccept (advance d dt) n := by
  refine if_neg ?_
  simp only [Bool.or_eq_true, decide_eq_true_eq, not_or]
  exact ⟨h0, h2⟩

theorem aswtTrig_of_software (d : Dev) (n : Nat) (hg : gateOpen d (1 + n) = true)
    (h2 : gf d (ADC.ATRIG n) ADC.ATRIG_TSEL = 2) : aswtTrig d n = adcAccept (advance d 1) n :=
  if_pos (by simp [hg, h2])

end Sys2Proof.Machine

end

section

namespace Sys2Proof.Machine

open Sys2Proof

/-! The restart of a lane leaves the converters alone (R246, R252). -/

/-- A register of a converter. -/
def ConvReg (r : Reg) : Prop := 0x40100000 ≤ r.addr ∧ r.addr < 0x40108000

/-- From `d` to `e` no converter has changed, nor a register of one. -/
def ConvertersStay (d e : Dev) : Prop := e.adc = d.adc ∧ ∀ r : Reg, ConvReg r → rd e r = rd d r

theorem ConvertersStay.refl (d : Dev) : ConvertersStay d d := ⟨rfl, fun _ _ => rfl⟩

theorem ConvertersStay.trans {d e f : Dev} (h : ConvertersStay d e) (g : ConvertersStay e f) : ConvertersStay d f :=
  ⟨g.1.trans h.1, fun r hr => (g.2 r hr).trans (h.2 r hr)⟩

/-- Converters are left alone by what changes neither them nor any register. -/
theorem ConvertersStay.of_same {d e : Dev} (ha : e.adc = d.adc) (hr : e.regs = d.regs) : ConvertersStay d e :=
  ⟨ha, fun r _ => by rw [rd, hr, rd]⟩

theorem Only.convertersStay {d e : Dev} {l : List Reg} (h : Only d e l) (hl : ∀ q ∈ l, ¬ ConvReg q) : ConvertersStay d e := by
  refine ⟨by rw [h.1], fun r hr => h.2 r fun hin => ?_⟩
  obtain ⟨q, hq, haddr⟩ := List.mem_map.1 hin
  exact hl q hq (by rw [ConvReg, haddr]; exact hr)

theorem ConvertersStay.forEach {α : Type} (l : List α) (f : Dev → α → Dev) (h : ∀ e a, ConvertersStay e (f e a)) (d : Dev) :
    ConvertersStay d (forEach l f d) :=
  List.foldlRecOn (motive := fun e => ConvertersStay d e) _ _ (.refl d) fun e he a _ => he.trans (h e a)

/-- A register of a context, whatever its number, lies above those of the converters. -/
theorem not_convReg_of_context {r : Reg} (h : 0x40280000 ≤ r.addr) : ¬ ConvReg r := fun hr => by
  obtain ⟨-, hlt⟩ := hr
  omega

theorem convertersStay_wrContext (d : Dev) {r : Reg} (v : Word) (h : 0x40280000 ≤ r.addr) : ConvertersStay d (wr d r v) :=
  (only_wr d r v).convertersStay fun q hq => by rw [List.mem_singleton.1 hq]; exact not_convReg_of_context h

theorem convertersStay_sfContext (d : Dev) {r : Reg} (f : Fld) (v : Nat) (h : 0x40280000 ≤ r.addr) :
    ConvertersStay d (sf d r f v) := convertersStay_wrContext d _ h

theorem convertersStay_pressFlag (d : Dev) (b : Nat) : ConvertersStay d (pressFlag d b) :=
  (only_setFlag d PRESS.PSTAT b _ 57).convertersStay (by simp [ConvReg, PRESS.PSTAT, ipend, ICU.IPEND])

theorem CSTAT_ge (c : Nat) : 0x40280000 ≤ (CTX.CSTAT c).addr := by
  show 0x40280000 ≤ 0x40280100 + 0x200 * c
  omega

theorem CPEND_ge (c : Nat) : 0x40280000 ≤ (CTX.CPEND c).addr := by
  show 0x40280000 ≤ 0x40280134 + 0x200 * c
  omega

theorem CDEAD_ge (c : Nat) : 0x40280000 ≤ (CTX.CDEAD c).addr := by
  show 0x40280000 ≤ 0x40280130 + 0x200 * c
  omega

theorem convertersStay_ctxPut (d : Dev) (c : Nat) (x : CtxSt) : ConvertersStay d (ctxPut d c x) := .of_same rfl rfl

theorem convertersStay_ctxDiscard (d : Dev) (c : Nat) : ConvertersStay d (ctxDiscard d c) :=
  ((convertersStay_sfContext d _ 0 (CSTAT_ge c)).trans (convertersStay_sfContext _ _ 0 (CSTAT_ge c))).trans
    (convertersStay_ctxPut _ c _)

theorem convertersStay_ctxJobRegs (d : Dev) (c : Nat) : ConvertersStay d (ctxJobRegs d c) := by
  unfold ctxJobRegs
  dsimp only
  split
  · exact convertersStay_sfContext d _ _ (CPEND_ge c)
  · refine ConvertersStay.trans ?_ (convertersStay_wrContext _ _ (CDEAD_ge c))
    exact convertersStay_sfContext d _ _ (CPEND_ge c)

theorem convertersStay_ctxCancel (d : Dev) (c : Nat) (p : Job → Bool) : ConvertersStay d (ctxCancel d c p) := by
  unfold ctxCancel
  dsimp only
  split
  · exact .refl d
  · refine ConvertersStay.trans ?_ (convertersStay_ctxJobRegs _ c)
    refine ConvertersStay.trans ?_ ((only_bump _ PRESS.PCANCEL _ _).convertersStay (by simp [ConvReg, PRESS.PCANCEL]))
    refine ConvertersStay.trans ?_ (convertersStay_pressFlag _ 5)
    exact .of_same rfl rfl

theorem convertersStay_ctxStop (d : Dev) (c : Nat) (restart : Bool) : ConvertersStay d (ctxStop d c restart) := by
  unfold ctxStop
  refine ConvertersStay.trans ?_ (convertersStay_ctxPut _ c _)
  refine ConvertersStay.trans ?_ (convertersStay_sfContext _ _ 0 (CSTAT_ge c))
  refine ConvertersStay.trans ?_ (convertersStay_sfContext _ _ 3 (CSTAT_ge c))
  exact (convertersStay_ctxDiscard d c).trans (convertersStay_ctxCancel _ c _)

theorem convertersStay_laneRestart (d : Dev) (c : Nat) : ConvertersStay d (laneRestart d c) :=
  (ConvertersStay.of_same rfl rfl).trans (.forEach _ _ (fun e k => convertersStay_ctxStop e k true) _)

/-! Monitoring passes (R83, R84). -/

/-- A monitoring pass that can start: RUNNING, with a sequence. -/
def MonRuns (d : Dev) (n : Nat) : Prop := adcState d n = 2 ∧ gf d (ADC.AMSEQ n) ADC.AMSEQ_LEN ≠ 0

/-- A pass that has started and been counted, the converter being `x`, before a change of its length restarts lanes. -/
def monPassed (d : Dev) (n : Nat) (x : AdcSt) : Dev := bumpWrap (adcPut (advanceTo d (adcGet d n).pass) n x) (ADC.APASS n)

/-- A pass puts a sample for each entry in flight and the next pass one length later. -/
theorem monPass_eq (d : Dev) (n : Nat) (h : MonRuns d n) :
    ∃ x : AdcSt, x.fl.length = (adcGet d n).fl.length + gf d (ADC.AMSEQ n) ADC.AMSEQ_LEN
      ∧ x.pass = (adcGet d n).pass + 6 * monLen d n
      ∧ monPass d n = if (adcGet d n).len = monLen d n then monPassed d n x
          else forEach (List.range 16) (fun d i => laneRestart d (16 * n + i)) (monPassed d n x) := by
  obtain ⟨hrun, hlen⟩ := h
  have hstart : (decide (adcState d n = 2) && decide (gf d (ADC.AMSEQ n) ADC.AMSEQ_LEN ≠ 0)) = true := by
    simp only [Bool.and_eq_true, decide_eq_true_eq]; exact ⟨hrun, hlen⟩
  refine ⟨_, ?_, ?_, if_pos hstart⟩
  · rw [List.length_append, List.length_map, length_seqItems, List.length_map, List.length_range]; rfl
  · rfl

/-- Whether or not lanes restart, the converter and its count are those of the pass. -/
theorem monPass_effect (d : Dev) (n : Nat) (h : MonRuns d n) :
    ∃ x : AdcSt, x.fl.length = (adcGet d n).fl.length + gf d (ADC.AMSEQ n) ADC.AMSEQ_LEN
      ∧ x.pass = (adcGet d n).pass + 6 * monLen d n ∧ ConvertersStay (monPassed d n x) (monPass d n)
      ∧ ((adcGet d n).len = monLen d n → monPass d n = monPassed d n x) := by
  obtain ⟨x, hfl, hpass, heq⟩ := monPass_eq d n h
  refine ⟨x, hfl, hpass, ?_, fun hsame => heq.trans (if_pos hsame)⟩
  rw [heq]
  split
  · exact .refl _
  · exact .forEach _ _ (fun e i => convertersStay_laneRestart e (16 * n + i)) _

theorem convReg_APASS (n : Fin 8) : ConvReg (ADC.APASS n) := by
  have hn := n.isLt
  show 0x40100000 ≤ 0x40100020 + 0x1000 * (n : Nat) ∧ 0x40100020 + 0x1000 * (n : Nat) < 0x40108000
  omega

theorem rd_bumpWrap_same (d : Dev) (r : Reg) : rd (bumpWrap d r) r = rd d r + 1 := rd_wr_same d r _

end Sys2Proof.Machine

end

section

open Sys2Proof Sys2Proof.Machine

/-- Settles O15: a trigger is taken at the PERIPH edge, a count away at most, and there finds a sequence at work or none; a
monitoring pass changes the converter and its count, and lanes that restart leave both. -/
theorem triggersStartSequences : Obligations.TriggersStartSequences := by
  unfold Obligations.TriggersStartSequences
  refine ⟨?accepted, ?dropped, ?software, ?pass⟩
  case accepted =>
    refine fun s n dt hr hrun hlen h0 h2 hfree => does_of_clocked (f := (adcTrigger · n dt)) rfl hr ?_
    have hfree' : ∀ r ∈ (adcGet (advance s.dev dt) n).ctl, r.2 ≤ (atPeriph (advance s.dev dt)).now :=
      fun r hm => Nat.le_trans (hfree r hm) (le_atPeriph_now (advance s.dev dt))
    obtain ⟨hsmp, -, hother, hframe⟩ := adcAccept_effect (advance s.dev dt) n ⟨hrun, hlen⟩ hfree'
    rw [adcTrigger_of_event s.dev n dt h0 h2]
    exact ⟨hsmp, hother, hframe⟩
  case dropped =>
    refine fun s n dt hr hrun hlen h0 h2 hbusy => does_of_clocked (f := (adcTrigger · n dt)) rfl hr ?_
    obtain ⟨r, hm, hlate⟩ := hbusy
    have hbusy' : (atPeriph (advance s.dev dt)).now < r.2 := Nat.lt_of_le_of_lt (atPeriph_now_le _) hlate
    obtain ⟨hflag, hcount, honly⟩ := bump_adcFlag_effect (atPeriph (advance s.dev dt)) n 1 (ADC.ADROP n) ADC.ADROP_CNT
      (ADROP_ne_ASTAT n) (conv_ne_ipend n (by simp only [ADC.ADROP]; omega)) (by decide)
    have hnow : (bump (adcFlag (atPeriph (advance s.dev dt)) n 1) (ADC.ADROP n) ADC.ADROP_CNT).now
        = (atPeriph (advance s.dev dt)).now := by rw [honly.1]
    rw [adcTrigger_of_event s.dev n dt h0 h2, adcAccept_of_busy (advance s.dev dt) n ⟨hrun, hlen⟩ ⟨r, hm, hbusy'⟩, hnow,
      advanceTo_atPeriph_now]
    exact ⟨hflag, hcount, honly⟩
  case software =>
    refine fun s n hr hg hrun hlen h2 hctl => does_of_clocked (f := (aswtTrig · n)) rfl hr ?_
    have hctl' : (adcGet (advance s.dev 1) n).ctl = [] := hctl
    obtain ⟨hsmp, hone, hother, hframe⟩ := adcAccept_effect (advance s.dev 1) n ⟨hrun, hlen⟩ (by simp [hctl'])
    rw [aswtTrig_of_software s.dev n hg h2]
    exact ⟨hsmp, hone hctl, hother, hframe⟩
  case pass =>
    refine fun s n hr hrun hlen => does_of_clocked (f := (monPass · n)) rfl hr ?_
    obtain ⟨x, hfl, hpass, ⟨hadc, hregs⟩, hsame⟩ := monPass_effect s.dev n ⟨hrun, hlen⟩
    have hget : adcGet (monPass s.dev n) n = x := by
      rw [adcGet, hadc]
      exact adcGet_adcPut_same _ n x
    rw [hget, hregs _ (convReg_APASS n), hadc]
    refine ⟨rd_bumpWrap_same _ _, hpass, hfl, others_adcPut _ n x, fun hl => ?_⟩
    rw [hsame hl]
    exact only_wr { advanceTo s.dev (adcGet s.dev n).pass with adc := (monPassed s.dev n x).adc } (ADC.APASS n) _

end

section

namespace Sys2Proof.Machine

open Sys2Proof

/-! The routes of a result (R91, R94 to R99, R107). -/

/-- The registers that a result's flags and limits may change. -/
def routeRegs (n : Nat) : List Reg := [ADC.ASTAT n, ADC.LIMSTAT n, ipend (48 + n)]

/-- From `d` to `e` a step on a result's way has changed nothing but converter `n`, its samples in flight apart, lanes of the
Press, and the registers of the converter's flags and limits. -/
def RouteStep (n : Nat) (d e : Dev) : Prop :=
  Others d.adc e.adc n ∧ (adcGet e n).fl = (adcGet d n).fl ∧ RegsStay d e (routeRegs n)
    ∧ e = { d with regs := e.regs, adc := e.adc, lane := e.lane }

namespace RouteStep

variable {n : Nat} {d e f : Dev}

theorem refl (n : Nat) (d : Dev) : RouteStep n d d := ⟨fun _ _ _ => rfl, rfl, fun _ _ => rfl, rfl⟩

theorem trans (h : RouteStep n d e) (g : RouteStep n e f) : RouteStep n d f := by
  obtain ⟨hother, hfl, hregs, hframe⟩ := h
  obtain ⟨gother, gfl, gregs, gframe⟩ := g
  refine ⟨hother.trans gother, gfl.trans hfl, fun r hr => (gregs r hr).trans (hregs r hr), ?_⟩
  rw [gframe, hframe]

theorem ite (c : Prop) [Decidable c] (h : RouteStep n d e) : RouteStep n d (if c then e else d) := by
  split
  · exact h
  · exact refl n d

theorem of_only {l : List Reg} (h : Only d e l) (hl : l ⊆ routeRegs n) : RouteStep n d e := by
  obtain ⟨hframe, hregs⟩ := h.mono hl
  have hadc : e.adc = d.adc := by rw [hframe]
  refine ⟨fun j x _ => by rw [hadc], by rw [adcGet, hadc, adcGet], hregs, ?_⟩
  rw [hframe]

theorem of_adcPut (d : Dev) (n : Nat) {x : AdcSt} (h : x.fl = (adcGet d n).fl) : RouteStep n d (adcPut d n x) :=
  ⟨others_adcPut d n x, by rw [adcGet_adcPut_same, h], fun _ _ => rfl, rfl⟩

theorem memStays (h : RouteStep n d e) : MemStays d e := fun k => by
  obtain ⟨-, -, -, hframe⟩ := h
  rw [hframe]
  exact ⟨rfl, rfl⟩

theorem now (h : RouteStep n d e) : e.now = d.now := by
  obtain ⟨-, -, -, hframe⟩ := h
  rw [hframe]

theorem tags (h : RouteStep n d e) : e.tags = d.tags := by
  obtain ⟨-, -, -, hframe⟩ := h
  rw [hframe]

end RouteStep

theorem routeStep_adcFlag (d : Dev) (n b : Nat) : RouteStep n d (adcFlag d n b) :=
  .of_only (only_setFlag d (ADC.ASTAT n) b _ (48 + n)) (by simp [routeRegs])

theorem routeStep_adcKeep (d : Dev) (n : Nat) (m : Smp) (r : ResSt) : RouteStep n d (adcKeep d n m r) := .of_adcPut d n rfl

theorem routeStep_laneIn (d : Dev) (n c : Nat) (code : Int) (void patch : Bool) (inst : Nat) :
    RouteStep n d (laneIn d c code void patch inst) := ⟨fun _ _ _ => rfl, rfl, fun _ _ => rfl, rfl⟩

theorem routeStep_limFire (d : Dev) (n b : Nat) (fire : Bool) : RouteStep n d (limFire d n b fire) :=
  .ite _ (.trans (.of_only (only_setBit d (ADC.LIMSTAT n) b true) (by simp [routeRegs])) (routeStep_adcFlag _ n 4))

theorem routeStep_limCheck (n : Nat) (mon : Bool) (i : Nat) (code : Int) (void : Bool) (d : Dev) (k : Nat) :
    RouteStep n d (limCheck n mon i code void d k) := by
  unfold limCheck
  dsimp only
  split
  · split
    · exact .of_adcPut d n rfl
    · refine RouteStep.trans ?_ (routeStep_limFire _ n k _)
      refine RouteStep.trans ?_ (routeStep_limFire _ n (8 + k) _)
      exact .of_adcPut d n rfl
  · exact .refl n d

theorem routeStep_limits (n : Nat) (mon : Bool) (i : Nat) (code : Int) (void : Bool) (d : Dev) (l : List Nat) :
    RouteStep n d (forEach l (limCheck n mon i code void) d) :=
  List.foldlRecOn (motive := fun e => RouteStep n d e) _ _ (.refl n d) fun e he k _ =>
    he.trans (routeStep_limCheck n mon i code void e k)

/-! The stages of a result that is no patch. -/

/-- The result is made VOID: by a freeze, or as its reference was not ready (R75, R665). -/
def smpVoid (d : Dev) (n : Nat) (m : Smp) : Bool := m.void || !refReadyAt d (n / 2) m.inst

/-- The trimmed code of a sample (R70, R72). -/
def smpCode (d : Dev) (n : Nat) (m : Smp) (nv : Int) : Int :=
  trimCode (rawCode (adcInput d n m.ent nv) (fget ADC.CENT_GAIN m.ent)) (rd d (ADC.CALG n (fget ADC.CENT_GAIN m.ent)))

/-- The result register of a sample's entry (R94). -/
def smpReg (n : Nat) (m : Smp) : Reg := if m.mon then ADC.MRES n m.i else ADC.CRES n m.i

/-- Flags of a result that is VOID or was widened. -/
def routeMarked (d : Dev) (n : Nat) (m : Smp) (void : Bool) : Dev :=
  let d := if void then adcFlag d n 3 else d
  if m.adj then adcFlag d n 5 else d

/-- The result in its register, with its tag (R94). -/
def routeStored (d : Dev) (r : Reg) (w : Word) (void : Bool) : Dev :=
  { wr d r w with tags := store d.tags r.addr (!void) false }

/-- The routes beside the register: crossbar, Press, limits, and the end of a control sequence. -/
def routeSpread (d : Dev) (n : Nat) (m : Smp) (code : Int) (void : Bool) : Dev :=
  let d := adcKeep d n m ⟨ofInt (code * 65536), void, m.inst, m.inst + 72, decide (fget ADC.CENT_XBAR m.ent = 1)⟩
  let d := if m.mon && fget ADC.CENT_PRESS m.ent = 1 then laneIn d (16 * n + m.i) code void false m.inst else d
  let d := if fget ADC.CENT_LIMIT m.ent = 1 then forEach (List.range 8) (limCheck n m.mon m.i code void) d else d
  if m.last then adcFlag d n 0 else d

theorem routeStep_routeMarked (d : Dev) (n : Nat) (m : Smp) (void : Bool) : RouteStep n d (routeMarked d n m void) :=
  .trans (.ite _ (routeStep_adcFlag d n 3)) (.ite _ (routeStep_adcFlag _ n 5))

theorem routeStep_routeSpread (d : Dev) (n : Nat) (m : Smp) (code : Int) (void : Bool) :
    RouteStep n d (routeSpread d n m code void) :=
  ((((routeStep_adcKeep d n m _).trans (.ite _ (routeStep_laneIn _ n _ code void false m.inst))).trans
    (.ite _ (routeStep_limits n m.mon m.i code void _ _)))).trans (.ite _ (routeStep_adcFlag _ n 0))

theorem adcRoute_of_res (d : Dev) (n : Nat) (m : Smp) (nv : Int) (h : fget ADC.CENT_RES m.ent = 1) :
    adcRoute d n m nv = routeSpread (routeStored (routeMarked d n m (smpVoid d n m)) (smpReg n m)
      (ofInt (smpCode d n m nv * 65536)) (smpVoid d n m)) n m (smpCode d n m nv) (smpVoid d n m) :=
  congrArg (routeSpread · n m (smpCode d n m nv) (smpVoid d n m)) (if_pos h)

/-- A result register is none that flags or limits change. -/
theorem smpReg_not_routeReg (n : Fin 8) (m : Smp) (h : m.i < 16) : (smpReg n m).addr ∉ (routeRegs n).map Reg.addr := by
  have hn := n.isLt
  have haddr : (smpReg n m).addr = (if m.mon then 0x401001C0 else 0x40100180) + 0x1000 * n + 0x4 * m.i := by
    unfold smpReg; split <;> rfl
  have hregs : (routeRegs n).map Reg.addr
      = [0x40100014 + 0x1000 * (n : Nat), 0x40100240 + 0x1000 * (n : Nat), 0x40030100 + 0x4 * ((48 + n) / 32)] := rfl
  rw [haddr, hregs]
  simp only [List.mem_cons, List.not_mem_nil, or_false, not_or]
  split <;> omega

/-- A result in its register stays there with its tag, whatever other routes it takes. -/
theorem adcRoute_effect (d : Dev) (n : Fin 8) (m : Smp) (nv : Int) (h : fget ADC.CENT_RES m.ent = 1) (hi : m.i < 16) :
    (adcGet (adcRoute d n m nv) n).fl = (adcGet d n).fl ∧ (adcRoute d n m nv).now = d.now
      ∧ rd (adcRoute d n m nv) (smpReg n m) = ofInt (smpCode d n m nv * 65536)
      ∧ look (adcRoute d n m nv).tags (smpReg n m).addr false = !smpVoid d n m
      ∧ Others d.adc (adcRoute d n m nv).adc n ∧ MemStays d (adcRoute d n m nv) := by
  rw [adcRoute_of_res d n m nv h]
  have hmarked := routeStep_routeMarked d n m (smpVoid d n m)
  generalize routeMarked d n m (smpVoid d n m) = p at *
  have hspread := routeStep_routeSpread (routeStored p (smpReg n m) (ofInt (smpCode d n m nv * 65536)) (smpVoid d n m)) n m
    (smpCode d n m nv) (smpVoid d n m)
  have hother : Others p.adc _ n := hspread.1
  have hmem : MemStays p _ := hspread.memStays
  refine ⟨hspread.2.1.trans hmarked.2.1, hspread.now.trans hmarked.now, ?_, ?_, hmarked.1.trans hother,
    hmarked.memStays.trans hmem⟩
  · rw [hspread.2.2.1 _ (smpReg_not_routeReg n m hi)]
    exact rd_wr_same p (smpReg n m) _
  · rw [hspread.tags]
    exact look_store_same p.tags (smpReg n m).addr _ false

/-! Leaving the pipeline (R75, R91). -/

/-- The device when a sample leaves the pipeline, the others of its converter staying in flight. -/
def smpOut (d : Dev) (n : Nat) (m : Smp) (rest : List Smp) : Dev :=
  advanceTo (adcPut d n { adcGet d n with fl := rest }) (m.inst + 72)

theorem fl_smpOut (d : Dev) (n : Nat) (m : Smp) (rest : List Smp) : (adcGet (smpOut d n m rest) n).fl = rest :=
  congrArg AdcSt.fl (adcGet_adcPut_same d n { adcGet d n with fl := rest })

theorem others_smpOut (d : Dev) (n : Nat) (m : Smp) (rest : List Smp) : Others d.adc (smpOut d n m rest).adc n :=
  others_adcPut d n _

theorem now_smpOut (d : Dev) (n : Nat) (m : Smp) (rest : List Smp) : (smpOut d n m rest).now = max d.now (m.inst + 72) :=
  advanceTo_now _ _

theorem memStays_smpOut (d : Dev) (n : Nat) (m : Smp) (rest : List Smp) : MemStays d (smpOut d n m rest) :=
  fun _ => ⟨rfl, rfl⟩

/-- A patch on its way: to the lane, and as the last result of its entry (R91). -/
def patchKept (d : Dev) (n i : Nat) (m : Smp) : Dev :=
  adcKeep (if fget ADC.CENT_PRESS m.ent = 1 then laneIn d (16 * n + i) 0 false true m.inst else d) n m
    ⟨0, true, m.inst, m.inst + 72, false⟩

theorem routeStep_patchKept (d : Dev) (n i : Nat) (m : Smp) : RouteStep n d (patchKept d n i m) :=
  (RouteStep.ite _ (routeStep_laneIn d n _ 0 false true m.inst)).trans (routeStep_adcKeep _ n m _)

theorem regs_patchKept (d : Dev) (n i : Nat) (m : Smp) : (patchKept d n i m).regs = d.regs := by
  unfold patchKept
  split <;> rfl

theorem adcResult_of_patch (d : Dev) (n : Nat) (mon : Bool) (i : Nat) (nv : Int) {m : Smp} {rest : List Smp}
    (h : takeSmp mon i (adcGet d n).fl = some (m, rest)) (hp : m.pat = true) :
    adcResult d n mon i nv = bump (adcFlag (patchKept (smpOut d n m rest) n i m) n 2) (ADC.APATCH n) ADC.APATCH_CNT := by
  unfold adcResult
  dsimp only
  rw [h]
  exact if_pos hp

theorem adcResult_of_sample (d : Dev) (n : Nat) (mon : Bool) (i : Nat) (nv : Int) {m : Smp} {rest : List Smp}
    (h : takeSmp mon i (adcGet d n).fl = some (m, rest)) (hp : m.pat = false) :
    adcResult d n mon i nv = adcRoute (smpOut d n m rest) n m nv := by
  unfold adcResult
  dsimp only
  rw [h]
  exact if_neg (by simp [hp])

theorem APATCH_ne_ASTAT (n : Nat) : (ADC.APATCH n).addr ≠ (ADC.ASTAT n).addr := by
  show 0x4010001C + 0x1000 * n ≠ 0x40100014 + 0x1000 * n
  omega

end Sys2Proof.Machine

end

section

open Sys2Proof Sys2Proof.Machine

/-- Settles O16: a patch is kept, flagged and counted; a result goes into its register, and no later route reaches there. -/
theorem resultsReachTheirRegisters : Obligations.ResultsReachTheirRegisters := by
  unfold Obligations.ResultsReachTheirRegisters
  refine ⟨?patch, ?result⟩
  case patch =>
    refine fun s n mon i nv m rest hr htake hpat => does_of_clocked (f := (adcResult · n mon i nv)) rfl hr ?_
    have hkept := routeStep_patchKept (smpOut s.dev n m rest) n i m
    have hrd : ∀ r : Reg, rd (patchKept (smpOut s.dev n m rest) n i m) r = rd s.dev r := fun r => by
      rw [rd, regs_patchKept]; rfl
    rw [adcResult_of_patch s.dev n mon i nv htake hpat]
    generalize patchKept (smpOut s.dev n m rest) n i m = p at *
    obtain ⟨hflag, hcount, honly⟩ := bump_adcFlag_effect p n 2 (ADC.APATCH n) ADC.APATCH_CNT (APATCH_ne_ASTAT n)
      (conv_ne_ipend n (by simp only [ADC.APATCH]; omega)) (by decide)
    have hsel : gf p (ADC.ASEL n) ADC.ASEL_IE = gf s.dev (ADC.ASEL n) ADC.ASEL_IE := by rw [gf, hrd, gf]
    have hold : gf p (ADC.APATCH n) ADC.APATCH_CNT = gf s.dev (ADC.APATCH n) ADC.APATCH_CNT := by rw [gf, hrd, gf]
    rw [hsel] at hflag
    rw [hold] at hcount
    generalize bump (adcFlag p n 2) (ADC.APATCH n) ADC.APATCH_CNT = e at *
    have hadc : e.adc = p.adc := by rw [honly.1]
    have hnow : e.now = p.now := by rw [honly.1]
    refine ⟨?_, ?_, hflag.congr (hrd _).symm (hrd _).symm rfl rfl, hcount, ?_, ?_, fun r hm => (honly.2 r hm).trans (hrd r)⟩
    · rw [adcGet, hadc]
      exact hkept.2.1.trans (fl_smpOut s.dev n m rest)
    · rw [hnow, hkept.now, now_smpOut]
    · rw [hadc]
      exact (others_smpOut s.dev n m rest).trans hkept.1
    · exact ((memStays_smpOut s.dev n m rest).trans hkept.memStays).trans honly.memStays
  case result =>
    refine fun s n mon i nv m rest hr htake hpat hres hmon hi => does_of_clocked (f := (adcResult · n mon i nv)) rfl hr ?_
    obtain ⟨hfl, hnow, hval, htag, hother, hmem⟩ :=
      adcRoute_effect (smpOut s.dev n m rest) n m nv hres (by rw [hi]; exact i.isLt)
    have hreg : smpReg n m = if mon then ADC.MRES n i else ADC.CRES n i := by rw [smpReg, hmon, hi]
    rw [adcResult_of_sample s.dev n mon i nv htake hpat, ← hreg]
    exact ⟨hfl.trans (fl_smpOut s.dev n m rest), hnow.trans (now_smpOut s.dev n m rest), hval, htag,
      (others_smpOut s.dev n m rest).trans hother, (memStays_smpOut s.dev n m rest).trans hmem⟩

end

section

namespace Sys2Proof.Machine

open Sys2Proof

/-! Listed entries of tables. -/

@[simp] theorem find_put_same {α : Type} (l : Tab α) (k : Nat) (v : α) : find (put l k v) k = some v := by
  induction l with
  | nil => simp [put, find]
  | cons e l ih =>
    obtain ⟨a, w⟩ := e
    simp only [put]
    split
    · simp [find]
    · split
      · simp [find]
      · next hne => simp [find, Ne.symm hne, ih]

theorem find_filter_other {α : Type} (l : Tab α) {j k : Nat} (h : j ≠ k) : find (l.filter (fun e => e.1 != k)) j = find l j := by
  induction l with
  | nil => rfl
  | cons e l ih =>
    obtain ⟨a, w⟩ := e
    by_cases ha : a = k
    · simp [ha, find, ih, Ne.symm h]
    · simp [ha, find, ih]

theorem find_put_other {α : Type} (l : Tab α) {j k : Nat} (v : α) (h : j ≠ k) : find (put l k v) j = find l j := by
  induction l with
  | nil => simp [put, find, Ne.symm h]
  | cons e l ih =>
    obtain ⟨a, w⟩ := e
    simp only [put]
    split
    · simp [find, Ne.symm h, find_filter_other l h]
    · split
      · next heq => simp [find, Ne.symm h, ← heq, find_filter_other l h]
      · simp only [find, ih]

theorem find_foldl_put_of_not_mem {α : Type} (v : α) {k : Nat} : ∀ (ks : List Nat) (l : Tab α), k ∉ ks →
    find (ks.foldl (fun t j => put t j v) l) k = find l k := by
  intro ks
  induction ks with
  | nil => intro l _; rfl
  | cons a ks ih =>
    intro l h
    rw [List.mem_cons, not_or] at h
    rw [List.foldl_cons, ih _ h.2, find_put_other l v h.1]

/-- A value put at several keys is found at each of them. -/
theorem find_foldl_put_of_mem {α : Type} (v : α) {k : Nat} : ∀ (ks : List Nat) (l : Tab α), k ∈ ks →
    find (ks.foldl (fun t j => put t j v) l) k = some v := by
  intro ks
  induction ks with
  | nil => intro l h; exact absurd h List.not_mem_nil
  | cons a ks ih =>
    intro l h
    rw [List.foldl_cons]
    by_cases hin : k ∈ ks
    · exact ih _ hin
    · have ha : k = a := (List.mem_cons.1 h).resolve_right hin
      rw [find_foldl_put_of_not_mem v ks _ hin, ha, find_put_same]

end Sys2Proof.Machine

end

section

namespace Sys2Proof.Machine

open Sys2Proof

/-! What the steps of one loop engine may change: its own state and registers, those of the triad it drives, pending bits and
time; of the other engines nothing (R207 to R213, R230 to R233). -/

/-- A register of another loop engine than `n`. -/
def OtherEngine (n : Nat) (r : Reg) : Prop :=
  0x40140000 ≤ r.addr ∧ r.addr < 0x40144000 ∧ ¬(0x40140000 + 0x400 * n ≤ r.addr ∧ r.addr < 0x40140400 + 0x400 * n)

/-- From `d` to `e` loop engine `n` has taken a step. -/
def EngineStep (n : Nat) (d e : Dev) : Prop :=
  Others d.le e.le n ∧ (∀ r : Reg, OtherEngine n r → rd e r = rd d r)
    ∧ e = { d with regs := e.regs, leg := e.leg, le := e.le, now := e.now, tb := e.tb, tphase := e.tphase, tbHold := e.tbHold }

namespace EngineStep

variable {n : Nat} {d e f : Dev}

theorem refl (n : Nat) (d : Dev) : EngineStep n d d := ⟨fun _ _ _ => rfl, fun _ _ => rfl, rfl⟩

theorem trans (h : EngineStep n d e) (g : EngineStep n e f) : EngineStep n d f := by
  obtain ⟨hother, hregs, hframe⟩ := h
  obtain ⟨gother, gregs, gframe⟩ := g
  refine ⟨hother.trans gother, fun r hr => (gregs r hr).trans (hregs r hr), ?_⟩
  rw [gframe, hframe]

theorem ite (c : Prop) [Decidable c] (h : EngineStep n d e) : EngineStep n d (if c then e else d) := by
  split
  · exact h
  · exact refl n d

theorem forEach {α : Type} (l : List α) (f : Dev → α → Dev) (h : ∀ e, ∀ a ∈ l, EngineStep n e (f e a)) (d : Dev) :
    EngineStep n d (forEach l f d) :=
  List.foldlRecOn (motive := fun e => EngineStep n d e) _ _ (refl n d) fun e he a ha => he.trans (h e a ha)

theorem of_only {l : List Reg} (h : Only d e l) (hl : ∀ q ∈ l, ¬ OtherEngine n q) : EngineStep n d e := by
  obtain ⟨hframe, hregs⟩ := h
  have hle : e.le = d.le := by rw [hframe]
  refine ⟨fun j x _ => by rw [hle], fun r hr => hregs r fun hin => ?_, by rw [hframe]⟩
  obtain ⟨q, hq, haddr⟩ := List.mem_map.1 hin
  exact hl q hq (by rw [OtherEngine, haddr]; exact hr)

theorem setBit (d : Dev) {r : Reg} (b : Nat) (v : Bool) (h : ¬ OtherEngine n r) : EngineStep n d (setBit d r b v) :=
  of_only (only_setBit d r b v) fun q hq => by rw [List.mem_singleton.1 hq]; exact h

theorem wr (d : Dev) {r : Reg} (v : Word) (h : ¬ OtherEngine n r) : EngineStep n d (wr d r v) :=
  of_only (only_wr d r v) fun q hq => by rw [List.mem_singleton.1 hq]; exact h

theorem bump (d : Dev) {r : Reg} (g : Fld) (h : ¬ OtherEngine n r) : EngineStep n d (bump d r g) :=
  of_only (only_bump d r g 1) fun q hq => by rw [List.mem_singleton.1 hq]; exact h

theorem setFlag (d : Dev) {r : Reg} (b ie src : Nat) (h : ¬ OtherEngine n r) (hs : ¬ OtherEngine n (ipend src)) :
    EngineStep n d (setFlag d r b ie src) :=
  of_only (only_setFlag d r b ie src) fun q hq => by
    rcases List.mem_cons.1 hq with rfl | hq
    · exact h
    · rw [List.mem_singleton.1 hq]; exact hs

theorem legPut (n : Nat) (d : Dev) (t j : Nat) (x : LegSt) : EngineStep n d (legPut d t j x) :=
  ⟨fun _ _ _ => rfl, fun _ _ => rfl, rfl⟩

theorem advanceTo (n : Nat) (d : Dev) (t : Nat) : EngineStep n d (advanceTo d t) := ⟨fun _ _ _ => rfl, fun _ _ => rfl, rfl⟩

theorem lePut (n : Nat) (d : Dev) (x : LeSt) : EngineStep n d (lePut d n x) :=
  ⟨fun j y hj => look_store_other d.le n j x {} y hj, fun _ _ => rfl, rfl⟩

end EngineStep

/-! Registers that are no other engine's. -/

/-- A register below the loop engines. -/
theorem not_otherEngine_of_lt (n : Nat) {r : Reg} (h : r.addr < 0x40140000) : ¬ OtherEngine n r := fun hr => by
  obtain ⟨hlo, -, -⟩ := hr
  omega

/-- A register of engine `n` itself. -/
theorem not_otherEngine_of_own {n : Nat} {r : Reg} (hlo : 0x40140000 + 0x400 * n ≤ r.addr)
    (hhi : r.addr < 0x40140400 + 0x400 * n) : ¬ OtherEngine n r := fun hr => hr.2.2 ⟨hlo, hhi⟩

theorem not_otherEngine_leg (n : Nat) {t j : Nat} (ht : t < 16) (hj : j ∈ legs) : ¬ OtherEngine n (TRIAD.LSTAT t j) := by
  have hj3 : j < 3 := by revert hj; simp [legs]; omega
  refine not_otherEngine_of_lt n ?_
  show 0x4012004C + 0x400 * t + 0x10 * j < 0x40140000
  omega

theorem not_otherEngine_TSTAT (n : Nat) {t : Nat} (ht : t < 16) : ¬ OtherEngine n (TRIAD.TSTAT t) := by
  refine not_otherEngine_of_lt n ?_
  show 0x40120014 + 0x400 * t < 0x40140000
  omega

theorem not_otherEngine_TERR (n : Nat) {t : Nat} (ht : t < 16) : ¬ OtherEngine n (TRIAD.TERR t) := by
  refine not_otherEngine_of_lt n ?_
  show 0x40120024 + 0x400 * t < 0x40140000
  omega

theorem not_otherEngine_ipend (n : Nat) {src : Nat} (h : src < 1024) : ¬ OtherEngine n (ipend src) := by
  refine not_otherEngine_of_lt n ?_
  show 0x40030100 + 0x4 * (src / 32) < 0x40140000
  omega

theorem not_otherEngine_LSTAT (n : Nat) : ¬ OtherEngine n (LE.LSTAT n) :=
  not_otherEngine_of_own (by simp only [LE.LSTAT]; omega) (by simp only [LE.LSTAT]; omega)

theorem not_otherEngine_LINTD (n : Nat) : ¬ OtherEngine n (LE.LINTD n) :=
  not_otherEngine_of_own (by simp only [LE.LINTD]; omega) (by simp only [LE.LINTD]; omega)

theorem not_otherEngine_LINTQ (n : Nat) : ¬ OtherEngine n (LE.LINTQ n) :=
  not_otherEngine_of_own (by simp only [LE.LINTQ]; omega) (by simp only [LE.LINTQ]; omega)

theorem not_otherEngine_LERRA (n : Nat) : ¬ OtherEngine n (LE.LERRA n) :=
  not_otherEngine_of_own (by simp only [LE.LERRA]; omega) (by simp only [LE.LERRA]; omega)

theorem not_otherEngine_LERRC (n : Nat) : ¬ OtherEngine n (LE.LERRC n) :=
  not_otherEngine_of_own (by simp only [LE.LERRC]; omega) (by simp only [LE.LERRC]; omega)

/-! The safe request of an engine on its triad (R175, R217, R232). -/

section Triad

variable (n : Nat) {t : Nat}

theorem engineStep_legSet (d : Dev) {j : Nat} (high on : Bool) (ht : t < 16) (hj : j ∈ legs) :
    EngineStep n d (legSet d t j high on) := .setBit d _ _ (not_otherEngine_leg n ht hj)

theorem engineStep_legSafeLevels (d : Dev) {j : Nat} (ht : t < 16) (hj : j ∈ legs) : EngineStep n d (legSafeLevels d t j) := by
  unfold legSafeLevels
  dsimp only
  split
  · split
    · refine .trans ?_ (engineStep_legSet n _ false false ht hj)
      refine .trans ?_ (engineStep_legSet n _ true false ht hj)
      exact .trans (.legPut n d t j _) (.legPut n _ t j _)
    · split
      · exact .trans (.legPut n d t j _) (engineStep_legSet n _ true false ht hj)
      · refine .trans ?_ (.legPut n _ t j _)
        exact .trans (.legPut n d t j _) (engineStep_legSet n _ true false ht hj)
    · exact .trans (.legPut n d t j _) (.legPut n _ t j _)
  · exact .legPut n d t j _

theorem engineStep_triFlag (d : Dev) (b : Nat) (ht : t < 16) : EngineStep n d (triFlag d t b) :=
  .setFlag d b _ (96 + t) (not_otherEngine_TSTAT n ht) (not_otherEngine_ipend n (by omega))

theorem engineStep_legEnter (cause : Nat) (d : Dev) {j : Nat} (ht : t < 16) (hj : j ∈ legs) :
    EngineStep n d (legEnter cause t d j) := by
  have hleg := not_otherEngine_leg n ht hj
  unfold legEnter
  dsimp only
  split
  · refine .trans ?_ (.legPut n _ t j _)
    exact .trans (.trans (.setBit d _ _ hleg) (.setBit _ _ _ hleg)) (.setBit _ _ _ hleg)
  · refine .trans ?_ (.bump _ _ (not_otherEngine_TERR n ht))
    refine .trans ?_ (engineStep_triFlag n _ 3 ht)
    refine .trans ?_ (engineStep_legSafeLevels n _ ht hj)
    refine .trans ?_ (.legPut n _ t j _)
    exact .trans (.trans (.setBit d _ _ hleg) (.setBit _ _ _ hleg)) (.setBit _ _ _ hleg)

theorem engineStep_leSafeAct (d : Dev) (ht : t < 16) : EngineStep n d (leSafeAct d t) := by
  unfold leSafeAct triSafe
  split
  · refine .forEach _ _ (fun e j hj => ?_) d
    exact .trans (.setBit e _ _ (not_otherEngine_leg n ht hj)) (.setBit _ _ _ (not_otherEngine_leg n ht hj))
  · exact .trans (.advanceTo n d _) (.forEach _ _ (fun e j hj => engineStep_legEnter n 5 e ht hj) _)

end Triad

theorem leTri_lt (d : Dev) (n : Nat) : leTri d n < 16 := fget_lt LE.LBIND_TRI _

/-! The end of a set (R207 to R213, R230, R231). -/

section Engine

variable {n : Nat} (hn : n < 16)

include hn

theorem engineStep_leFlag (d : Dev) (b : Nat) : EngineStep n d (leFlag d n b) :=
  .setFlag d b _ (112 + n) (not_otherEngine_LSTAT n) (not_otherEngine_ipend n (by omega))

theorem engineStep_leSafeRise (d : Dev) : EngineStep n d (leSafeRise d n) := by
  unfold leSafeRise leIntZero
  refine .trans ?_ (engineStep_leSafeAct n _ (leTri_lt _ n))
  refine .trans ?_ (.wr _ _ (not_otherEngine_LINTQ n))
  refine .trans ?_ (.wr _ _ (not_otherEngine_LINTD n))
  refine .trans ?_ (.bump _ _ (not_otherEngine_LERRC n))
  exact .trans (.setBit d _ _ (not_otherEngine_LSTAT n)) (engineStep_leFlag hn _ 1)

theorem engineStep_leRefresh (d : Dev) : EngineStep n d (leRefresh d n) :=
  .trans (.setBit d _ _ (not_otherEngine_LSTAT n)) (.ite _ (engineStep_leSafeRise hn _))

theorem engineStep_leDiscard (d : Dev) (void skew : Bool) : EngineStep n d (leDiscard d n void skew) := by
  unfold leDiscard
  refine .trans ?_ (engineStep_leRefresh hn _)
  refine .trans ?_ (.ite _ (.setBit _ _ _ (not_otherEngine_LSTAT n)))
  refine .trans ?_ (.lePut n _ _)
  refine .trans ?_ (.bump _ _ (not_otherEngine_LERRA n))
  exact .trans (.ite _ (engineStep_leFlag hn d 4)) (.ite _ (engineStep_leFlag hn _ 5))

theorem engineStep_leComplete (d : Dev) : EngineStep n d (leComplete d n) := by
  have hown := not_otherEngine_LSTAT n
  unfold leComplete
  refine .trans (.lePut n d { leGet d n with slots := [] }) ?_
  dsimp only
  split
  · exact engineStep_leDiscard hn _ _ _
  · split
    · refine .trans ?_ (engineStep_leRefresh hn _)
      split
      · exact .refl n _
      · exact .trans (.setBit _ _ _ hown) (.bump _ _ (not_otherEngine_LERRC n))
    · refine .trans (.trans (.setBit _ 28 false hown) (engineStep_leRefresh hn _)) ?_
      split
      · exact .refl n _
      · split
        · exact .lePut n _ _
        · exact .lePut n _ _
        · refine .trans ?_ (.bump _ _ (not_otherEngine_LERRA n))
          exact .trans (.lePut n _ _) (engineStep_leFlag hn _ 6)

theorem engineStep_leReceive (entry : Nat) (x : ResSt) (d : Dev) : EngineStep n d (leReceive entry x d n) := by
  unfold leReceive
  dsimp only
  split
  · split
    · exact .refl n d
    · split
      · exact .trans (.lePut n d _) (engineStep_leComplete hn _)
      · exact .lePut n d _
  · exact .refl n d

end Engine

end Sys2Proof.Machine

end

section

namespace Sys2Proof.Machine

open Sys2Proof

/-! A delivery to all engines (R95, R207). -/

/-- From `d` to `e` engine `m` has not changed, nor its state or the words that name its slots' entries. -/
def SlotsStay (m : Nat) (d e : Dev) : Prop :=
  leGet e m = leGet d m ∧ leState e m = leState d m ∧ rd e (LE.LROLE m) = rd d (LE.LROLE m)
    ∧ rd e (LE.LSLOT m) = rd d (LE.LSLOT m)

theorem SlotsStay.trans {m : Nat} {d e f : Dev} (h : SlotsStay m d e) (g : SlotsStay m e f) : SlotsStay m d f := by
  obtain ⟨hget, hstate, hrole, hslot⟩ := h
  obtain ⟨gget, gstate, grole, gslot⟩ := g
  exact ⟨gget.trans hget, gstate.trans hstate, grole.trans hrole, gslot.trans hslot⟩

/-- The step of one engine leaves the others. -/
theorem EngineStep.slotsStay {n m : Nat} {d e : Dev} (h : EngineStep n d e) (hm : m < 16) (hne : m ≠ n) : SlotsStay m d e := by
  obtain ⟨hother, hregs, -⟩ := h
  have hrd : ∀ r : Reg, 0x40140000 + 0x400 * m ≤ r.addr → r.addr < 0x40140400 + 0x400 * m → rd e r = rd d r :=
    fun r hlo hhi => hregs r ⟨by omega, by omega, by omega⟩
  refine ⟨hother m {} hne, ?_, hrd _ ?_ ?_, hrd _ ?_ ?_⟩
  · rw [leState, gf, hrd _ (by simp only [LE.LSTAT]; omega) (by simp only [LE.LSTAT]; omega), leState, gf]
  all_goals simp only [LE.LROLE, LE.LSLOT]; omega

theorem forEach_append_cons {α : Type} (l m : List α) (a : α) (f : Dev → α → Dev) (d : Dev) :
    forEach (l ++ a :: m) f d = forEach m f (f (forEach l f d) a) := by
  rw [forEach, List.foldl_append, List.foldl_cons]
  rfl

/-- Engines that receive a result leave those that are not among them. -/
theorem slotsStay_deliveries (entry : Nat) (x : ResSt) {m : Nat} (hm : m < 16) (l : List Nat) (d : Dev) (hl : ∀ n ∈ l, n < 16)
    (hmem : m ∉ l) : SlotsStay m d (forEach l (leReceive entry x) d) :=
  List.foldlRecOn (motive := fun e => SlotsStay m d e) _ _ ⟨rfl, rfl, rfl, rfl⟩ fun e he n hn =>
    he.trans ((engineStep_leReceive (hl n hn) entry x e).slotsStay hm fun h => hmem (h ▸ hn))

/-- From `d` to `e` the converters and memory have not changed. -/
def ConvMemStay (d e : Dev) : Prop := e.adc = d.adc ∧ MemStays d e

theorem EngineStep.convMemStay {n : Nat} {d e : Dev} (h : EngineStep n d e) : ConvMemStay d e := by
  obtain ⟨-, -, hframe⟩ := h
  rw [hframe]
  exact ⟨rfl, fun _ => ⟨rfl, rfl⟩⟩

theorem convMemStay_deliveries (entry : Nat) (x : ResSt) (l : List Nat) (d : Dev) (hl : ∀ n ∈ l, n < 16) :
    ConvMemStay d (forEach l (leReceive entry x) d) :=
  List.foldlRecOn (motive := fun e => ConvMemStay d e) _ _ ⟨rfl, fun _ => ⟨rfl, rfl⟩⟩ fun e he n hn =>
    have hstep := (engineStep_leReceive (hl n hn) entry x e).convMemStay
    ⟨hstep.1.trans he.1, he.2.trans hstep.2⟩

/-- Slot `k` of engine `m` is used for an entry. -/
def SlotNames (d : Dev) (m k entry : Nat) : Prop :=
  leRole (rd d (LE.LROLE m)) k ≠ 0 ∧ leSlotByte (rd d (LE.LSLOT m)) k = entry

/-- Slot `j` of engine `m` is used for another entry, whose result has not come. -/
def SlotMisses (d : Dev) (m j entry : Nat) : Prop :=
  leRole (rd d (LE.LROLE m)) j ≠ 0 ∧ leSlotByte (rd d (LE.LSLOT m)) j ≠ entry ∧ find (leGet d m).slots j = none

theorem mem_leSlots {k : Nat} (h : k < 4) : k ∈ leSlots := by
  simp only [leSlots, List.mem_cons, List.not_mem_nil, or_false]
  omega

/-- A RUNNING engine that still misses another slot's result holds this one in each slot that names its entry: the set is not
complete (R207). -/
theorem leReceive_holds (entry : Nat) (x : ResSt) (d : Dev) {m k j : Nat} (hrun : leState d m = 2) (hk : k < 4) (hj : j < 4)
    (hnames : SlotNames d m k entry) (hmiss : SlotMisses d m j entry) :
    find (leGet (leReceive entry x d m) m).slots k = some x := by
  obtain ⟨hrole, hbyte⟩ := hnames
  obtain ⟨jrole, jbyte, jnone⟩ := hmiss
  unfold leReceive
  dsimp only
  rw [if_pos hrun]
  generalize hused : leSlots.filter (fun k => decide (leRole (rd d (LE.LROLE m)) k ≠ 0)) = used
  generalize hhit : used.filter (fun k => decide (leSlotByte (rd d (LE.LSLOT m)) k = entry)) = hit
  have hmem : k ∈ hit := by simp [← hhit, ← hused, mem_leSlots hk, hrole, hbyte]
  have jmem : j ∉ hit := by simp [← hhit, jbyte]
  have jused : j ∈ used := by simp [← hused, mem_leSlots hj, jrole]
  have hsome : ¬ hit.isEmpty = true := fun h => by
    rw [List.isEmpty_iff.1 h] at hmem
    exact absurd hmem (by simp)
  have hlack : ¬ (used.all fun k => (find (hit.foldl (fun s k => put s k x) (leGet d m).slots) k).isSome) = true := fun h => by
    have hfound := List.all_eq_true.1 h j jused
    rw [find_foldl_put_of_not_mem x hit _ jmem, jnone] at hfound
    exact absurd hfound (by simp)
  rw [if_neg hsome, if_neg hlack, leGet, lePut, look_store_same]
  exact find_foldl_put_of_mem x hit _ hmem

/-- The same after the deliveries to all engines, each of which has its turn once. -/
theorem deliveries_hold (entry : Nat) (x : ResSt) (d : Dev) {m k j : Nat} (hm : m < 16) (hrun : leState d m = 2) (hk : k < 4)
    (hj : j < 4) (hnames : SlotNames d m k entry) (hmiss : SlotMisses d m j entry) :
    find (leGet (forEach (List.range 16) (leReceive entry x) d) m).slots k = some x := by
  have hall : ∀ n ∈ List.range 16, n < 16 := fun n hn => List.mem_range.1 hn
  have hnodup : (List.range 16).Nodup := List.nodup_range
  obtain ⟨before, after, hsplit⟩ := List.mem_iff_append.1 (List.mem_range.2 hm)
  rw [hsplit] at hall hnodup ⊢
  obtain ⟨hbefore, hafter⟩ : m ∉ before ∧ m ∉ after := by
    simp only [List.nodup_append, List.nodup_cons, List.mem_cons] at hnodup
    obtain ⟨-, ⟨hafter, -⟩, hdisj⟩ := hnodup
    exact ⟨fun h => hdisj m h m (.inl rfl) rfl, hafter⟩
  obtain ⟨hget, hstate, hrole, hslot⟩ :=
    slotsStay_deliveries entry x hm before d (fun n hn => hall n (List.mem_append_left _ hn)) hbefore
  obtain ⟨gget, -⟩ := slotsStay_deliveries entry x hm after (leReceive entry x (forEach before (leReceive entry x) d) m)
    (fun n hn => hall n (by simp [hn])) hafter
  rw [forEach_append_cons, gget]
  refine leReceive_holds entry x _ (hstate.trans hrun) hk hj ?_ (j := j) ?_
  · rw [SlotNames, hrole, hslot]; exact hnames
  · rw [SlotMisses, hrole, hslot, hget]; exact hmiss

/-- The result of an entry is owed no longer, at the instant at which it is delivered (R95). -/
def xbarTaken (d : Dev) (n key : Nat) (r : ResSt) : Dev :=
  advanceTo (adcPut d n { adcGet d n with res := put (adcGet d n).res key { r with xbar := false } }) (r.out + 8 * fabDiv d)

theorem xbarDeliver_of_owed (d : Dev) (n : Nat) (mon : Bool) (i : Nat) {r : ResSt}
    (h : find (adcGet d n).res ((if mon then 16 else 0) + i) = some r) (hr : r.xbar = true) :
    xbarDeliver d n mon i = forEach (List.range 16) (leReceive ((if mon then 128 else 0) + 16 * n + i) r)
      (xbarTaken d n ((if mon then 16 else 0) + i) r) := by
  unfold xbarDeliver
  dsimp only
  rw [h]
  exact if_pos hr

theorem find_xbarTaken (d : Dev) (n key : Nat) (r : ResSt) :
    find (adcGet (xbarTaken d n key r) n).res key = some { r with xbar := false } := by
  rw [show adcGet (xbarTaken d n key r) n = _ from adcGet_adcPut_same d n _, find_put_same]

end Sys2Proof.Machine

end

section

open Sys2Proof Sys2Proof.Machine

/-- Settles O28: the result is taken from its entry once, and each engine has one turn, which leaves the other engines. -/
theorem crossbarDeliversOnce : Obligations.CrossbarDeliversOnce := by
  unfold Obligations.CrossbarDeliversOnce
  refine fun s n mon i r hr howed hxbar => does_of_clocked (f := (xbarDeliver · n mon i)) rfl hr ?_
  rw [xbarDeliver_of_owed s.dev n mon i howed hxbar]
  generalize (if mon then 16 else 0) + (i : Nat) = key at *
  generalize (if mon then 128 else 0) + 16 * (n : Nat) + (i : Nat) = entry
  obtain ⟨hadc, hmem⟩ := convMemStay_deliveries entry r (List.range 16) (xbarTaken s.dev n key r)
    fun m hm => List.mem_range.1 hm
  refine ⟨?_, ?_, ?_, fun m k j hrun hrole hbyte jrole jbyte jnone => ?_⟩
  · rw [adcGet, hadc, ← adcGet, find_xbarTaken]; rfl
  · rw [hadc]
    exact others_adcPut s.dev n _
  · exact MemStays.trans (fun _ => ⟨rfl, rfl⟩) hmem
  · exact deliveries_hold entry r (xbarTaken s.dev n key r) m.isLt hrun k.isLt j.isLt ⟨hrole, hbyte⟩ ⟨jrole, jbyte, jnone⟩

end

section

namespace Sys2Proof.Machine

open Sys2Proof

/-! Legs and triads beside their registers. -/

@[simp] theorem legGet_legPut_same (d : Dev) (t j : Nat) (x : LegSt) : legGet (legPut d t j x) t j = x :=
  look_store_same d.leg (3 * t + j) x {}

@[simp] theorem triGet_triPut_same (d : Dev) (t : Nat) (x : TriSt) : triGet (triPut d t x) t = x :=
  look_store_same d.tri t x {}

theorem others_triPut (d : Dev) (t : Nat) (x : TriSt) : Others d.tri (triPut d t x).tri t :=
  fun k y hk => look_store_other d.tri t k x {} y hk

/-! The outputs of a leg (R156 to R161, R452). -/

/-- The high or the low output of a leg is active. -/
def legOn (d : Dev) (t j : Nat) (high : Bool) : Bool := bitOf d (TRIAD.LSTAT t j) (if high then 1 else 0)

/-- A set output is active unless a standby twin holds it. -/
theorem legOn_legSet_same (d : Dev) (t j : Nat) (high on : Bool) : legOn (legSet d t j high on) t j high = (on && !twinHold d) :=
  bitOf_setBit_same d _ _ _ (by split <;> decide)

/-- A set output leaves the one opposite. -/
theorem legOn_legSet_not (d : Dev) (t j : Nat) (high on : Bool) : legOn (legSet d t j high on) t j (!high) = legOn d t j !high :=
  bitOf_setBit_bit d _ _ _ _ (by cases high <;> decide) (by split <;> decide)

/-- Where one output is off, no side but the other waits and nothing waits in LOWON, a leg is safe to switch. -/
theorem legInv_of_one_side {d : Dev} {t j : Nat} (high : Bool) (hoff : legOn d t j (!high) = false)
    (hwait : ∀ h x, (legGet d t j).wait = some (h, x) → h = high) (hlow : (legGet d t j).low = none) : LegInv d t j := by
  refine ⟨fun hboth => ?_, fun x hx => ?_, fun x hx => ?_, fun x hx => ?_⟩
  · obtain ⟨hhigh, hlow⟩ := hboth
    cases high
    · exact absurd (hhigh.symm.trans hoff) (by decide)
    · exact absurd (hlow.symm.trans hoff) (by decide)
  · have hside := hwait true x hx
    subst hside
    exact hoff
  · have hside := hwait false x hx
    subst hside
    exact hoff
  · exact absurd (hlow.symm.trans hx) (by simp)

/-- The side opposite to one that waits is off. -/
theorem LegInv.off_of_wait {d : Dev} {t j : Nat} (hinv : LegInv d t j) {h : Bool} {x : Nat}
    (hx : (legGet d t j).wait = some (h, x)) : legOn d t j (!h) = false := by
  obtain ⟨-, hhigh, hlow, -⟩ := hinv
  cases h
  · exact hlow x hx
  · exact hhigh x hx

/-- A leg outside its safe state waits for nothing in LOWON. -/
theorem LegInv.low_none {d : Dev} {t j : Nat} (hinv : LegInv d t j) (hsafe : legSafe d t j = false) :
    (legGet d t j).low = none := by
  obtain ⟨-, -, -, hlow⟩ := hinv
  cases hx : (legGet d t j).low with
  | none => rfl
  | some x =>
    obtain ⟨-, -, hyes⟩ := hlow x hx
    exact absurd (hsafe.symm.trans hyes) (by decide)

/-- Where a side waits for its dead time, nothing waits in LOWON. -/
theorem LegInv.low_none_of_wait {d : Dev} {t j : Nat} (hinv : LegInv d t j) {w : Bool × Nat}
    (hw : (legGet d t j).wait = some w) : (legGet d t j).low = none := by
  obtain ⟨-, -, -, hlow⟩ := hinv
  refine Option.eq_none_iff_forall_ne_some.2 fun x hx => ?_
  obtain ⟨-, hnone, -⟩ := hlow x hx
  exact absurd (hnone.symm.trans hw) (by simp)

/-- The outputs and what a leg waits for decide whether it is safe to switch. -/
theorem LegInv.congr {d e : Dev} {t j : Nat} (hinv : LegInv d t j) (hregs : e.regs = d.regs)
    (hwait : (legGet e t j).wait = (legGet d t j).wait) (hlow : (legGet e t j).low = (legGet d t j).low) : LegInv e t j := by
  have hbit : ∀ b, bitOf e (TRIAD.LSTAT t j) b = bitOf d (TRIAD.LSTAT t j) b := fun b => by rw [bitOf, rd, hregs]; rfl
  simpa only [LegInv, legHigh, legLow, legSafe, hbit, hwait, hlow] using hinv

@[simp] theorem legGet_legSet (d : Dev) (t j i : Nat) (high on : Bool) : legGet (legSet d t j high on) t i = legGet d t i := rfl

/-- A side waits for its dead time. -/
def waitsFor (x : LegSt) (high : Bool) : Bool := match x.wait with | some (h, _) => h == high | none => false

theorem eq_of_waitsFor {x : LegSt} {high : Bool} (hw : waitsFor x high = true) {h : Bool} {n : Nat}
    (hx : x.wait = some (h, n)) : h = high := by
  rw [waitsFor, hx] at hw
  exact eq_of_beq hw

/-- A leg turns towards a side, the other being off: at once, after a dead time, or it is there already (R156, R157). -/
def legTurn (d : Dev) (t j : Nat) (high : Bool) (at32 : Nat) : Dev :=
  if legOn d t j high then legPut d t j { legGet d t j with wait := none }
  else if waitsFor (legGet d t j) high then d
  else if deadTime high (legGet d t j).dt = 0 then legSet (legPut d t j { legGet d t j with wait := none }) t j high true
  else legPut d t j { legGet d t j with wait := some (high, at32 + deadTime high (legGet d t j).dt) }

theorem legDrive_none (d : Dev) (t j at32 : Nat) : legDrive d t j .none at32
    = legPut (legSet (legSet d t j true false) t j false false) t j { legGet d t j with wait := none } := rfl

theorem legDrive_low (d : Dev) (t j at32 : Nat) :
    legDrive d t j .low at32 = legTurn (legSet d t j true false) t j false at32 := rfl

theorem legDrive_high (d : Dev) (t j at32 : Nat) :
    legDrive d t j .high at32 = legTurn (legSet d t j false false) t j true at32 := rfl

theorem legInv_legTurn (d : Dev) (t j : Nat) (high : Bool) (at32 : Nat) (hoff : legOn d t j (!high) = false)
    (hlow : (legGet d t j).low = none) : LegInv (legTurn d t j high at32) t j := by
  unfold legTurn
  split
  · exact legInv_of_one_side high hoff (by simp) (by simpa using hlow)
  · split
    next hwaits => exact legInv_of_one_side high hoff (fun h x hx => eq_of_waitsFor hwaits hx) hlow
    next =>
      split
      · exact legInv_of_one_side high ((legOn_legSet_not _ t j high true).trans hoff) (by simp) (by simpa using hlow)
      · exact legInv_of_one_side high hoff (by simp) (by simpa using hlow)

/-- However a leg outside its safe state is driven, it is safe to switch afterwards. -/
theorem legInv_legDrive (d : Dev) (t j : Nat) (goal : Side) (at32 : Nat) (hlow : (legGet d t j).low = none) :
    LegInv (legDrive d t j goal at32) t j := by
  cases goal with
  | none =>
    rw [legDrive_none]
    exact legInv_of_one_side true (legOn_legSet_same _ t j false false) (by simp) (by simpa using hlow)
  | low =>
    rw [legDrive_low]
    exact legInv_legTurn _ t j false at32 (legOn_legSet_same d t j true false) hlow
  | high =>
    rw [legDrive_high]
    exact legInv_legTurn _ t j true at32 (legOn_legSet_same d t j false false) hlow

theorem legInv_legFollow {d : Dev} {t j : Nat} (hinv : LegInv d t j) (at32 : Nat) : LegInv (legFollow d t j at32) t j := by
  unfold legFollow
  split
  next hdriven =>
    simp only [Bool.and_eq_true, Bool.not_eq_true'] at hdriven
    obtain ⟨-, hsafe⟩ := hdriven
    exact legInv_legDrive d t j _ at32 (hinv.low_none hsafe)
  next => exact hinv

/-! What switching the outputs of a leg leaves alone. -/

/-- From `d` to `e` the outputs of leg `j` of triad `t` may have switched, with what the leg waits for, and nothing else has
changed. -/
structure Driven (t j : Nat) (d e : Dev) : Prop where
  regs : RegsStay d e [TRIAD.LSTAT t j]
  bits : ∀ b, 2 ≤ b → b < 32 → bitOf e (TRIAD.LSTAT t j) b = bitOf d (TRIAD.LSTAT t j) b
  duty : ∀ i, (look e.leg i {}).op = (look d.leg i {}).op ∧ (look e.leg i {}).ref = (look d.leg i {}).ref
  frame : e = { d with regs := e.regs, leg := e.leg }

namespace Driven

variable {t j : Nat} {d e f : Dev}

theorem refl (t j : Nat) (d : Dev) : Driven t j d d := ⟨fun _ _ => rfl, fun _ _ _ => rfl, fun _ => ⟨rfl, rfl⟩, rfl⟩

theorem trans (h : Driven t j d e) (g : Driven t j e f) : Driven t j d f where
  regs := (h.regs.trans g.regs).mono (by simp)
  bits b hb hb' := (g.bits b hb hb').trans (h.bits b hb hb')
  duty i := ⟨(g.duty i).1.trans (h.duty i).1, (g.duty i).2.trans (h.duty i).2⟩
  frame := by rw [g.frame, h.frame]

theorem legPut {x : LegSt} (hop : x.op = (legGet d t j).op) (href : x.ref = (legGet d t j).ref) :
    Driven t j d (legPut d t j x) where
  regs _ _ := rfl
  bits _ _ _ := rfl
  duty i := by
    by_cases hi : i = 3 * t + j
    · subst hi
      rw [show look (Machine.legPut d t j x).leg (3 * t + j) {} = x from legGet_legPut_same d t j x]
      exact ⟨hop, href⟩
    · rw [show look (Machine.legPut d t j x).leg i {} = look d.leg i {} from look_store_other _ _ _ _ _ _ hi]
      exact ⟨rfl, rfl⟩
  frame := rfl

theorem legSet (t j : Nat) (d : Dev) (high on : Bool) : Driven t j d (legSet d t j high on) where
  regs := (only_setBit d (TRIAD.LSTAT t j) _ _).regsStay
  bits b hb hb' := bitOf_setBit_bit d _ _ _ _ (by split <;> omega) hb'
  duty _ := ⟨rfl, rfl⟩
  frame := rfl

theorem memStays (h : Driven t j d e) : MemStays d e := fun k => by rw [h.frame]; exact ⟨rfl, rfl⟩

theorem ref (h : Driven t j d e) : (legGet e t j).ref = (legGet d t j).ref := (h.duty _).2

end Driven

theorem driven_legTurn (d : Dev) (t j : Nat) (high : Bool) (at32 : Nat) : Driven t j d (legTurn d t j high at32) := by
  unfold legTurn
  split
  · exact .legPut rfl rfl
  · split
    · exact .refl t j d
    · split
      · refine .trans ?_ (.legSet t j _ high true)
        exact .legPut rfl rfl
      · exact .legPut rfl rfl

theorem driven_legDrive (d : Dev) (t j : Nat) (goal : Side) (at32 : Nat) : Driven t j d (legDrive d t j goal at32) := by
  cases goal with
  | none => exact .trans (.trans (.legSet t j d true false) (.legSet t j _ false false)) (.legPut rfl rfl)
  | low => exact .trans (.legSet t j d true false) (driven_legTurn _ t j false at32)
  | high => exact .trans (.legSet t j d false false) (driven_legTurn _ t j true at32)

theorem driven_legFollow (d : Dev) (t j at32 : Nat) : Driven t j d (legFollow d t j at32) := by
  unfold legFollow
  split
  · exact driven_legDrive d t j _ at32
  · exact .refl t j d

/-! The timed events of a leg (R155, R156, R175). -/

/-- A leg whose REF has just changed, at the instant of the edge. -/
def refTurned (d : Dev) (t j e : Nat) : Dev :=
  legPut (advanceTo d ((e + 31) / 32)) t j { legGet d t j with ref := !(legGet d t j).ref }

theorem refEdge_of_edge {d : Dev} {t j e : Nat} (hrun : (triGet d t).run = true) (he : refEdgeAt d t j = some e) :
    refEdge d t j = legFollow (refTurned d t j e) t j e := by
  rw [refEdge, if_pos hrun, he]
  rfl

theorem refEdge_of_no_edge {d : Dev} {t j : Nat} (h : ¬((triGet d t).run = true ∧ refEdgeAt d t j ≠ none)) :
    refEdge d t j = d := by
  unfold refEdge
  split
  next hrun =>
    cases he : refEdgeAt d t j with
    | none => rfl
    | some e => exact absurd ⟨hrun, by simp [he]⟩ h
  next => rfl

theorem legInv_refTurned {d : Dev} {t j : Nat} (hinv : LegInv d t j) (e : Nat) : LegInv (refTurned d t j e) t j :=
  hinv.congr rfl (by rw [refTurned, legGet_legPut_same]) (by rw [refTurned, legGet_legPut_same])

/-- An output turns on at the end of a wait, the leg being `x` from there. -/
def legTurnedOn (d : Dev) (t j : Nat) (high : Bool) (n : Nat) (x : LegSt) : Dev :=
  legSet (legPut (advanceTo d n) t j x) t j high true

@[simp] theorem legGet_legTurnedOn (d : Dev) (t j : Nat) (high : Bool) (n : Nat) (x : LegSt) :
    legGet (legTurnedOn d t j high n x) t j = x := legGet_legPut_same (advanceTo d n) t j x

theorem deadTimeEnd_of_wait {d : Dev} {t j : Nat} {high : Bool} {x : Nat} (h : (legGet d t j).wait = some (high, x)) :
    deadTimeEnd d t j = legTurnedOn d t j high ((x + 31) / 32) { legGet d t j with wait := none } := by
  rw [deadTimeEnd, h]
  rfl

theorem lowonTurnOn_of_low {d : Dev} {t j x : Nat} (h : (legGet d t j).low = some x) :
    lowonTurnOn d t j = legTurnedOn d t j false ((x + 31) / 32) { legGet d t j with low := none } := by
  rw [lowonTurnOn, h]
  rfl

/-- An output that turns on while the other one is off, nothing waiting any longer, leaves the leg safe to switch. -/
theorem legInv_legTurnedOn {d : Dev} {t j : Nat} {high : Bool} (n : Nat) {x : LegSt} (hoff : legOn d t j (!high) = false)
    (hwait : x.wait = none) (hlow : x.low = none) : LegInv (legTurnedOn d t j high n x) t j :=
  legInv_of_one_side high ((legOn_legSet_not _ t j high true).trans hoff) (by simp [hwait]) (by simp [hlow])

/-- Where no standby twin holds the outputs, one that turns on is active, and no register but its leg's has changed. -/
theorem legTurnedOn_effect (d : Dev) (t j : Nat) (high : Bool) (n : Nat) (x : LegSt) (hhold : twinHold d = false) :
    rd (legTurnedOn d t j high n x) (TRIAD.LSTAT t j) = rd d (TRIAD.LSTAT t j) ||| bit (if high then 1 else 0)
      ∧ Only { advanceTo d n with leg := (legTurnedOn d t j high n x).leg } (legTurnedOn d t j high n x) [TRIAD.LSTAT t j] := by
  have hon : (true && !twinHold (legPut (advanceTo d n) t j x)) = true := by
    rw [show twinHold (legPut (advanceTo d n) t j x) = twinHold d from rfl, hhold]; rfl
  rw [legTurnedOn, legSet, hon]
  exact ⟨rd_setBit_true (legPut (advanceTo d n) t j x) _ _, only_setBit (legPut (advanceTo d n) t j x) _ _ _⟩

end Sys2Proof.Machine

end

section

open Sys2Proof Sys2Proof.Machine

/-- Settles O23: an output turns on only where the other one has been turned off, and no side but that one waits. -/
theorem legsNeverShootThrough : Obligations.LegsNeverShootThrough := by
  unfold Obligations.LegsNeverShootThrough
  refine fun s t j hr hinv => ⟨does_of_clocked (f := (refEdge · t j)) rfl hr ?edge,
    does_of_clocked (f := (deadTimeEnd · t j)) rfl hr ?deadTime, does_of_clocked (f := (lowonTurnOn · t j)) rfl hr ?lowon⟩
  case edge =>
    by_cases hedge : (triGet s.dev t).run = true ∧ refEdgeAt s.dev t j ≠ none
    · obtain ⟨hrun, he⟩ := hedge
      obtain ⟨e, he⟩ := Option.ne_none_iff_exists'.1 he
      have hdriven := driven_legFollow (refTurned s.dev t j e) t j e
      rw [refEdge_of_edge hrun he]
      refine ⟨legInv_legFollow (legInv_refTurned hinv e) e, hdriven.memStays, fun _ _ => ?_⟩
      rw [hdriven.ref, refTurned, legGet_legPut_same]
    · rw [refEdge_of_no_edge hedge]
      exact ⟨hinv, fun _ => ⟨rfl, rfl⟩, fun hrun he => absurd ⟨hrun, he⟩ hedge⟩
  case deadTime =>
    cases hwait : (legGet s.dev t j).wait with
    | none =>
      rw [deadTimeEnd, hwait]
      exact ⟨hinv, by simp⟩
    | some w =>
      obtain ⟨high, x⟩ := w
      rw [deadTimeEnd_of_wait hwait]
      refine ⟨legInv_legTurnedOn _ (hinv.off_of_wait hwait) rfl (hinv.low_none_of_wait hwait), fun h y hy hhold => ?_⟩
      obtain ⟨rfl, rfl⟩ : high = h ∧ x = y := by simpa using hy
      obtain ⟨hon, honly⟩ := legTurnedOn_effect s.dev t j high ((x + 31) / 32) { legGet s.dev t j with wait := none } hhold
      exact ⟨hon, by simp, honly⟩
  case lowon =>
    cases hlow : (legGet s.dev t j).low with
    | none =>
      rw [lowonTurnOn, hlow]
      exact ⟨hinv, by simp⟩
    | some x =>
      obtain ⟨-, -, -, hlowon⟩ := hinv
      obtain ⟨hoff, hwait, -⟩ := hlowon x hlow
      rw [lowonTurnOn_of_low hlow]
      refine ⟨legInv_legTurnedOn _ hoff hwait rfl, fun y hy hhold => ?_⟩
      obtain rfl : x = y := by simpa using hy
      obtain ⟨hon, honly⟩ := legTurnedOn_effect s.dev t j false ((x + 31) / 32) { legGet s.dev t j with low := none } hhold
      exact ⟨hon, by simp, honly⟩

end

section

namespace Sys2Proof.Machine

open Sys2Proof

/-! Steps repeated over a list. -/

/-- A repeated step brings about for each number of the list what it brings about for that number, where it keeps what it
has brought about for the others. -/
theorem forEach_all {α : Type} {I : Dev → Prop} {P : α → Dev → Prop} (l : List α) (f : Dev → α → Dev) {d : Dev} (hd : I d)
    (hI : ∀ e, I e → ∀ a ∈ l, I (f e a)) (hP : ∀ e, I e → ∀ a ∈ l, P a (f e a))
    (hkeep : ∀ e, I e → ∀ a ∈ l, ∀ b ∈ l, P b e → P b (f e a)) :
    I (forEach l f d) ∧ ∀ a ∈ l, P a (forEach l f d) := by
  induction l generalizing d with
  | nil => exact ⟨hd, by simp⟩
  | cons a l ih =>
    have hin : ∀ b ∈ l, b ∈ a :: l := fun b hb => List.mem_cons_of_mem a hb
    obtain ⟨hinv, hall⟩ := ih (d := f d a) (hI d hd a List.mem_cons_self) (fun e he b hb => hI e he b (hin b hb))
      (fun e he b hb => hP e he b (hin b hb)) (fun e he b hb c hc => hkeep e he b (hin b hb) c (hin c hc))
    refine ⟨hinv, fun b hb => ?_⟩
    by_cases hbl : b ∈ l
    · exact hall b hbl
    · obtain rfl : b = a := (List.mem_cons.1 hb).resolve_right hbl
      have hkept : I (forEach l f (f d b)) ∧ P b (forEach l f (f d b)) :=
        List.foldlRecOn (motive := fun e => I e ∧ P b e) l f
          ⟨hI d hd b List.mem_cons_self, hP d hd b List.mem_cons_self⟩ fun e he a ha =>
            ⟨hI e he.1 a (hin a ha), hkeep e he.1 a (hin a ha) b List.mem_cons_self he.2⟩
      exact hkept.2

theorem mem_legs {j : Nat} : j ∈ legs ↔ j < 3 := by
  simp only [legs, List.mem_cons, List.not_mem_nil, or_false]
  omega

theorem MemStays.of_same {d e : Dev} (hm : e.mem = d.mem) (ht : e.mtag = d.mtag) : MemStays d e :=
  fun k => ⟨by rw [rdByte, hm, rdByte], by rw [rdTag, ht, rdTag]⟩

/-! Flags of a triad (R148, R195). -/

theorem FlagUp.bitOf {d e : Dev} {r : Reg} {b ie src : Nat} (h : FlagUp d e r b ie src) {c : Nat} (hc : c < 32) :
    bitOf e r c = (bitOf d r c || decide (b = c)) := by
  rw [Machine.bitOf, h.1, BitVec.getLsbD_or, getLsbD_bit b hc]
  rfl

theorem triFlag_flagUp (d : Dev) {t : Nat} (ht : t < 16) (b : Nat) :
    FlagUp d (triFlag d t b) (TRIAD.TSTAT t) b (gf d (TRIAD.TISEL t) TRIAD.TISEL_IE) (96 + t) := by
  have hsrc : srcReserved (96 + t) = false := by
    simp only [srcReserved, Bool.or_eq_false_iff, Bool.and_eq_false_iff, decide_eq_false_iff_not]
    omega
  have haddr : (ipend (96 + t)).addr ≠ (TRIAD.TSTAT t).addr := by
    show 0x40030100 + 0x4 * ((96 + t) / 32) ≠ 0x40120014 + 0x400 * t
    omega
  exact setFlag_flagUp d (TRIAD.TSTAT t) b _ (96 + t) hsrc haddr

theorem only_triFlag (d : Dev) (t b : Nat) : Only d (triFlag d t b) [TRIAD.TSTAT t, ipend (96 + t)] :=
  only_setFlag d (TRIAD.TSTAT t) b _ (96 + t)

theorem bitOf_triFlag (d : Dev) {t : Nat} (ht : t < 16) (b : Nat) {c : Nat} (hc : c < 32) :
    bitOf (triFlag d t b) (TRIAD.TSTAT t) c = (bitOf d (TRIAD.TSTAT t) c || decide (b = c)) :=
  (triFlag_flagUp d ht b).bitOf hc

/-! What the legs of a triad may change on their way into and out of their safe states (R175 to R180). -/

/-- The registers that steps of the legs `js` of triad `t` may change. -/
def legRegs (t : Nat) (js : List Nat) : List Reg := js.map (TRIAD.LSTAT t) ++ [TRIAD.TSTAT t, TRIAD.TERR t, ipend (96 + t)]

theorem legRegs_subset {t : Nat} {js ks : List Nat} (h : js ⊆ ks) : legRegs t js ⊆ legRegs t ks :=
  List.append_subset.2 ⟨fun _ hr => List.mem_append_left _ (List.map_subset _ h hr), List.subset_append_right _ _⟩

/-- From `d` to `e` legs `js` of triad `t` have taken steps: of its status no bit but the flags of safe states changes, the
duties stay, and so does everything that is neither a leg nor one of the registers. -/
structure LegStep (t : Nat) (js : List Nat) (d e : Dev) : Prop where
  regs : RegsStay d e (legRegs t js)
  stat : ∀ b, b ≠ 2 → b ≠ 3 → b < 32 → bitOf e (TRIAD.TSTAT t) b = bitOf d (TRIAD.TSTAT t) b
  duty : ∀ i, (look e.leg i {}).op = (look d.leg i {}).op
  frame : e = { d with regs := e.regs, leg := e.leg }

theorem TSTAT_ne_LSTAT (t u j : Nat) : (TRIAD.TSTAT t).addr ≠ (TRIAD.LSTAT u j).addr := by
  show 0x40120014 + 0x400 * t ≠ 0x4012004C + 0x400 * u + 0x10 * j
  omega

theorem TERR_ne_LSTAT (t u j : Nat) : (TRIAD.TERR t).addr ≠ (TRIAD.LSTAT u j).addr := by
  show 0x40120024 + 0x400 * t ≠ 0x4012004C + 0x400 * u + 0x10 * j
  omega

theorem TERR_ne_TSTAT (t : Nat) : (TRIAD.TERR t).addr ≠ (TRIAD.TSTAT t).addr := by
  show 0x40120024 + 0x400 * t ≠ 0x40120014 + 0x400 * t
  omega

namespace LegStep

variable {t : Nat} {js : List Nat} {d e f : Dev}

theorem refl (t : Nat) (js : List Nat) (d : Dev) : LegStep t js d d := ⟨fun _ _ => rfl, fun _ _ _ _ => rfl, fun _ => rfl, rfl⟩

theorem trans (h : LegStep t js d e) (g : LegStep t js e f) : LegStep t js d f where
  regs := (h.regs.trans g.regs).mono (by simp)
  stat b h2 h3 hb := (g.stat b h2 h3 hb).trans (h.stat b h2 h3 hb)
  duty i := (g.duty i).trans (h.duty i)
  frame := by rw [g.frame, h.frame]

theorem mono {ks : List Nat} (h : LegStep t js d e) (hs : js ⊆ ks) : LegStep t ks d e :=
  { h with regs := h.regs.mono (legRegs_subset hs) }

theorem ite (c : Prop) [Decidable c] (h : LegStep t js d e) : LegStep t js d (if c then e else d) := by
  split
  · exact h
  · exact refl t js d

theorem forEach {α : Type} (l : List α) (f : Dev → α → Dev) (h : ∀ e, ∀ a ∈ l, LegStep t js e (f e a)) (d : Dev) :
    LegStep t js d (forEach l f d) :=
  List.foldlRecOn (motive := fun e => LegStep t js d e) l f (refl t js d) fun e he a ha => he.trans (h e a ha)

theorem of_only {l : List Reg} (h : Only d e l) (hl : l ⊆ legRegs t js)
    (hstat : ∀ b, b ≠ 2 → b ≠ 3 → b < 32 → bitOf e (TRIAD.TSTAT t) b = bitOf d (TRIAD.TSTAT t) b) :
    LegStep t js d e := by
  have hleg : e.leg = d.leg := by rw [h.1]
  refine ⟨(h.mono hl).regsStay, hstat, fun i => by rw [hleg], ?_⟩
  rw [hleg]
  exact h.1

theorem of_driven {j : Nat} (h : Driven t j d e) : LegStep t [j] d e where
  regs := h.regs.mono (by simp [legRegs])
  stat b _ _ _ := congrArg (BitVec.getLsbD · b) (h.regs _ fun hin => TSTAT_ne_LSTAT t t j (List.mem_singleton.1 hin))
  duty i := (h.duty i).1
  frame := h.frame

theorem legPut {j : Nat} {x : LegSt} (hop : x.op = (legGet d t j).op) : LegStep t js d (legPut d t j x) where
  regs _ _ := rfl
  stat _ _ _ _ := rfl
  duty i := by
    by_cases hi : i = 3 * t + j
    · subst hi
      rw [show look (Machine.legPut d t j x).leg (3 * t + j) {} = x from legGet_legPut_same d t j x]
      exact hop
    · rw [show look (Machine.legPut d t j x).leg i {} = look d.leg i {} from look_store_other _ _ _ _ _ _ hi]
  frame := rfl

theorem setBit (t j : Nat) (d : Dev) (b : Nat) (v : Bool) : LegStep t [j] d (setBit d (TRIAD.LSTAT t j) b v) :=
  of_only (only_setBit d _ b v) (by simp [legRegs]) fun c _ _ _ => bitOf_setBit_other d _ _ b c v (TSTAT_ne_LSTAT t t j)

/-- The flags of a release and of a safe state. -/
theorem triFlag (ht : t < 16) (js : List Nat) (d : Dev) {b : Nat} (hb : b = 2 ∨ b = 3) : LegStep t js d (triFlag d t b) :=
  of_only (only_triFlag d t b) (by simp [legRegs]) fun c h2 h3 hc => by
    have hne : b ≠ c := by omega
    rw [bitOf_triFlag d ht b hc, decide_eq_false hne, Bool.or_false]

theorem bump (t : Nat) (js : List Nat) (d : Dev) (g : Fld) : LegStep t js d (bump d (TRIAD.TERR t) g) :=
  of_only (only_bump d _ g 1) (by simp [legRegs]) fun c _ _ _ =>
    congrArg (BitVec.getLsbD · c) ((only_bump d (TRIAD.TERR t) g 1).rd_other _ (TERR_ne_TSTAT t).symm)

theorem memStays (h : LegStep t js d e) : MemStays d e := fun k => by rw [h.frame]; exact ⟨rfl, rfl⟩

/-- A register with no place among those that legs change. -/
theorem rd_other (h : LegStep t js d e) {r : Reg} (hr : r.addr ∉ (legRegs t js).map Reg.addr) : rd e r = rd d r := h.regs r hr

end LegStep

/-! Into a safe state (R175, R188). -/

theorem driven_legOff (d : Dev) (t j : Nat) (x : LegSt) (hop : x.op = (legGet d t j).op) (href : x.ref = (legGet d t j).ref) :
    Driven t j d (legSet (legSet (legPut d t j x) t j true false) t j false false) :=
  .trans (.trans (.legPut hop href) (.legSet t j _ true false)) (.legSet t j _ false false)

theorem driven_legSafeLevels (d : Dev) (t j : Nat) : Driven t j d (legSafeLevels d t j) := by
  have hcalm : Driven t j d (legPut d t j { legGet d t j with wait := none }) := .legPut rfl rfl
  unfold legSafeLevels
  dsimp only
  split
  · refine hcalm.trans ?_
    split
    · exact driven_legOff _ t j _ rfl rfl
    · split
      · exact .legSet t j _ true false
      · refine .trans (.legSet t j _ true false) ?_
        exact .legPut rfl rfl
    · exact .legPut rfl rfl
  · exact hcalm

/-- A leg with a cause to be in its safe state shown, before its outputs switch. -/
def legMarked (cause t : Nat) (d : Dev) (j : Nat) : Dev :=
  legPut (setBit (setBit (setBit d (TRIAD.LSTAT t j) cause true) (TRIAD.LSTAT t j) 3 false) (TRIAD.LSTAT t j) 2 true) t j
    { legGet d t j with manual := (legSafe d t j && (legGet d t j).manual) || cause ≠ 4 }

theorem legEnter_eq (cause t : Nat) (d : Dev) (j : Nat) : legEnter cause t d j = if legSafe d t j then legMarked cause t d j
    else bump (triFlag (legSafeLevels (legMarked cause t d j) t j) t 3) (TRIAD.TERR t) TRIAD.TERR_SAFE := rfl

theorem legStep_legMarked (cause t : Nat) (d : Dev) (j : Nat) : LegStep t [j] d (legMarked cause t d j) := by
  refine .trans ?_ (.legPut rfl)
  exact .trans (.trans (.setBit t j d cause true) (.setBit t j _ 3 false)) (.setBit t j _ 2 true)

theorem legStep_legEnter (cause : Nat) {t : Nat} (ht : t < 16) (d : Dev) (j : Nat) : LegStep t [j] d (legEnter cause t d j) := by
  rw [legEnter_eq]
  refine (legStep_legMarked cause t d j).trans ?_
  split
  · exact .refl t [j] _
  · exact .trans (.trans (.of_driven (driven_legSafeLevels _ t j)) (.triFlag ht [j] _ (.inr rfl))) (.bump t [j] _ _)

theorem ne_ipend {src : Nat} (h : src < 1024) {r : Reg} (hr : 0x40110000 ≤ r.addr) : r.addr ≠ (ipend src).addr := by
  show r.addr ≠ 0x40030100 + 0x4 * (src / 32)
  omega

theorem rd_triFlag_other (d : Dev) {t : Nat} (ht : t < 16) (b : Nat) {r : Reg} (hr : 0x40110000 ≤ r.addr)
    (hne : r.addr ≠ (TRIAD.TSTAT t).addr) : rd (triFlag d t b) r = rd d r :=
  (only_triFlag d t b).regsStay r (by simp [hne, ne_ipend (show 96 + t < 1024 by omega) hr])

/-- The status of a leg on its way into its safe state is decided when the cause is shown, but for its outputs. -/
theorem bitOf_legEnter (cause : Nat) {t : Nat} (ht : t < 16) (d : Dev) (j : Nat) {b : Nat} (h2 : 2 ≤ b) (hb : b < 32) :
    bitOf (legEnter cause t d j) (TRIAD.LSTAT t j) b = bitOf (legMarked cause t d j) (TRIAD.LSTAT t j) b := by
  rw [legEnter_eq]
  split
  · rfl
  · rw [bitOf, (only_bump _ (TRIAD.TERR t) _ 1).rd_other _ (TERR_ne_LSTAT t t j).symm,
      rd_triFlag_other _ ht 3 (by simp only [TRIAD.LSTAT]; omega) (TSTAT_ne_LSTAT t t j).symm]
    exact (driven_legSafeLevels _ t j).bits b h2 hb

/-- A leg that a cause enters is in its safe state, with the cause shown. -/
theorem legEnter_safe {cause : Nat} (hlo : 4 ≤ cause) (hhi : cause < 32) {t : Nat} (ht : t < 16) (d : Dev) (j : Nat) :
    bitOf (legEnter cause t d j) (TRIAD.LSTAT t j) 2 = true ∧ bitOf (legEnter cause t d j) (TRIAD.LSTAT t j) cause = true := by
  rw [bitOf_legEnter cause ht d j (by decide) (by decide), bitOf_legEnter cause ht d j (by omega) hhi]
  refine ⟨bitOf_setBit_same _ _ 2 true (by decide), ?_⟩
  refine (bitOf_setBit_bit _ _ 2 cause true (by omega) hhi).trans ?_
  refine (bitOf_setBit_bit _ _ 3 cause false (by omega) hhi).trans ?_
  exact bitOf_setBit_same d _ cause true hhi

/-- Setting a bit leaves every bit at 1 that is 1. -/
theorem bitOf_setBit_true_of (d : Dev) (r : Reg) (b c : Nat) (hc : c < 32) (h : bitOf d r c = true) :
    bitOf (setBit d r b true) r c = true := by
  by_cases hcb : c = b
  · subst hcb; exact bitOf_setBit_same d r c true hc
  · rw [bitOf_setBit_bit d r b c true hcb hc]; exact h

/-- The safe state of a leg and its causes stand when another cause enters. -/
theorem bitOf_legEnter_of {cause t : Nat} (ht : t < 16) (d : Dev) (j : Nat) {b : Nat} (h2 : 2 ≤ b) (h3 : b ≠ 3) (hb : b < 32)
    (h : bitOf d (TRIAD.LSTAT t j) b = true) : bitOf (legEnter cause t d j) (TRIAD.LSTAT t j) b = true := by
  rw [bitOf_legEnter cause ht d j h2 hb]
  refine bitOf_setBit_true_of _ _ 2 b hb ?_
  rw [bitOf_setBit_bit _ _ 3 b false h3 hb]
  exact bitOf_setBit_true_of d _ cause b hb h

theorem LSTAT_ne_LSTAT {t u j i : Nat} (hj : j < 3) (hi : i < 3) (hne : ¬(u = t ∧ i = j)) :
    (TRIAD.LSTAT u i).addr ≠ (TRIAD.LSTAT t j).addr := by
  show 0x4012004C + 0x400 * u + 0x10 * i ≠ 0x4012004C + 0x400 * t + 0x10 * j
  omega

theorem LegStep.rd_LSTAT_other {t u j i : Nat} {d e : Dev} (h : LegStep t [j] d e) (ht : t < 16) (hj : j < 3) (hi : i < 3)
    (hne : ¬(u = t ∧ i = j)) : rd e (TRIAD.LSTAT u i) = rd d (TRIAD.LSTAT u i) := by
  have hp := ne_ipend (src := 96 + t) (by omega) (r := TRIAD.LSTAT u i) (by simp only [TRIAD.LSTAT]; omega)
  refine h.rd_other ?_
  simp [legRegs, LSTAT_ne_LSTAT hj hi hne, (TSTAT_ne_LSTAT t u i).symm, (TERR_ne_LSTAT t u i).symm, hp]

/-- A register of a triad that holds a setting of a leg. -/
def LegSetting (r : Reg) : Prop := 0x40120000 ≤ r.addr ∧ 0x40 ≤ r.addr % 0x400 ∧ r.addr % 0x10 ≠ 0xC

theorem legSetting_LCFG (t : Nat) {j : Nat} (hj : j < 3) : LegSetting (TRIAD.LCFG t j) := by
  simp only [LegSetting, TRIAD.LCFG]
  omega

theorem legSetting_LDUTY (t : Nat) {j : Nat} (hj : j < 3) : LegSetting (TRIAD.LDUTY t j) := by
  simp only [LegSetting, TRIAD.LDUTY]
  omega

/-- Steps of legs leave the legs' settings. -/
theorem LegStep.rd_setting {t : Nat} {js : List Nat} {d e : Dev} (h : LegStep t js d e) (ht : t < 16) {r : Reg}
    (hr : LegSetting r) : rd e r = rd d r := by
  obtain ⟨hlo, hoff, hend⟩ := hr
  refine h.rd_other fun hin => ?_
  simp only [legRegs, List.map_append, List.map_map, List.mem_append, List.mem_map, Function.comp_apply, List.map_cons,
    List.map_nil, List.mem_cons, List.not_mem_nil, or_false, TRIAD.LSTAT, TRIAD.TSTAT, TRIAD.TERR, ipend, ICU.IPEND] at hin
  omega

/-- From `d` to `e` every leg in its safe state stays there with the causes it has, and no leg's selection of trip lines and
nothing in memory changes. -/
structure SafeKept (d e : Dev) : Prop where
  status : ∀ t j b, j < 3 → 2 ≤ b → b ≠ 3 → b < 32 → bitOf d (TRIAD.LSTAT t j) b = true → bitOf e (TRIAD.LSTAT t j) b = true
  trips : ∀ t j, j < 3 → rd e (TRIAD.LCFG t j) = rd d (TRIAD.LCFG t j)
  mem : MemStays d e

namespace SafeKept

variable {d e f : Dev}

theorem refl (d : Dev) : SafeKept d d := ⟨fun _ _ _ _ _ _ _ h => h, fun _ _ _ => rfl, fun _ => ⟨rfl, rfl⟩⟩

theorem trans (h : SafeKept d e) (g : SafeKept e f) : SafeKept d f where
  status t j b hj h2 h3 hb hd := g.status t j b hj h2 h3 hb (h.status t j b hj h2 h3 hb hd)
  trips t j hj := (g.trips t j hj).trans (h.trips t j hj)
  mem := h.mem.trans g.mem

/-- Registers below those of the triads are none of a leg's. -/
theorem of_regs (h : ∀ r : Reg, 0x40120000 ≤ r.addr → rd e r = rd d r) (hm : MemStays d e) : SafeKept d e where
  status t j b _ _ _ _ hd := by
    rw [bitOf, h _ (by simp only [TRIAD.LSTAT]; omega)]
    exact hd
  trips t j _ := h _ (by simp only [TRIAD.LCFG]; omega)
  mem := hm

theorem of_only {l : List Reg} (h : Only d e l) (hl : ∀ q ∈ l, q.addr < 0x40120000) : SafeKept d e :=
  of_regs (fun r hr => h.regsStay r fun hin => by
    obtain ⟨q, hq, haddr⟩ := List.mem_map.1 hin
    exact absurd (hl q hq) (by omega)) h.memStays

end SafeKept

theorem safeKept_legEnter (cause : Nat) {t j : Nat} (ht : t < 16) (hj : j < 3) (d : Dev) : SafeKept d (legEnter cause t d j) where
  status u i b hi h2 h3 hb hd := by
    by_cases hsame : u = t ∧ i = j
    · obtain ⟨rfl, rfl⟩ := hsame
      exact bitOf_legEnter_of ht d i h2 h3 hb hd
    · rw [bitOf, (legStep_legEnter cause ht d j).rd_LSTAT_other ht hj hi hsame]
      exact hd
  trips u i hi := (legStep_legEnter cause ht d j).rd_setting ht (legSetting_LCFG u hi)
  mem := (legStep_legEnter cause ht d j).memStays

/-- A leg is in its safe state with a cause shown. -/
def SafeBy (cause t j : Nat) (e : Dev) : Prop := legSafe e t j = true ∧ bitOf e (TRIAD.LSTAT t j) cause = true

theorem SafeBy.kept {cause t j : Nat} {d e : Dev} (h : SafeBy cause t j d) (hk : SafeKept d e) (hj : j < 3)
    (hlo : 4 ≤ cause) (hhi : cause < 32) : SafeBy cause t j e :=
  ⟨hk.status t j 2 hj (by decide) (by decide) (by decide) h.1, hk.status t j cause hj (by omega) (by omega) hhi h.2⟩

/-- All legs of a triad enter by a cause. -/
theorem legsEnter_effect {cause : Nat} (hlo : 4 ≤ cause) (hhi : cause < 32) {t : Nat} (ht : t < 16) (d : Dev) :
    LegStep t legs d (forEach legs (legEnter cause t) d) ∧ ∀ j ∈ legs, SafeBy cause t j (forEach legs (legEnter cause t) d) :=
  forEach_all legs (legEnter cause t) (I := LegStep t legs d) (P := SafeBy cause t) (.refl t legs d)
    (fun e he j hj => he.trans ((legStep_legEnter cause ht e j).mono (by simpa using hj)))
    (fun e _ j _ => legEnter_safe hlo hhi ht e j)
    (fun e _ j hj i hi hsafe => hsafe.kept (safeKept_legEnter cause ht (mem_legs.1 hj) e) (mem_legs.1 hi) hlo hhi)

/-! Trip lines that are asserted (R189, R191). -/

/-- The legs of a triad that select line `k` enter their safe states. -/
def legsTripped (k : Nat) (d : Dev) (t : Nat) : Dev :=
  forEach legs (fun d j => if (gf d (TRIAD.LCFG t j) TRIAD.LCFG_TRIPM).testBit k then legEnter 4 t d j else d) d

/-- Line `k` sent to the other units, where its local cause is new. -/
def tripShown (d : Dev) (k : Nat) : Dev :=
  if tripLocal d k && !d.tripLoc.getLsbD k then
    let d := { d with tripLoc := fset ⟨k, k⟩ d.tripLoc 1 }
    if bitOf d RIND.RXEXP k then tripSend d k else d
  else d

theorem tripAssert_of_line (d : Dev) (k : Nat) (h : tripLine d k = true) :
    tripAssert d k = tripShown (forEach (List.range 16) (legsTripped k) d) k := if_pos h

/-- From `d` to `e` frames may have joined the ports' queues, and nothing else has changed. -/
def SentFrom (d e : Dev) : Prop := e = { d with chq := e.chq, chSeq := e.chSeq, chTwice := e.chTwice }

theorem SentFrom.trans {d e f : Dev} (h : SentFrom d e) (g : SentFrom e f) : SentFrom d f := by
  unfold SentFrom at *
  rw [g, h]

theorem sentFrom_flood (d : Dev) (f : Frame) (but : Option Nat) : SentFrom d (flood d f but) :=
  List.foldlRecOn (motive := fun e => SentFrom d e) _ _ rfl fun _ he _ _ => he.trans rfl

theorem sentFrom_broadcast (d : Dev) (scope cls sub : Nat) (payload : List Byte) :
    SentFrom d (broadcast d scope cls sub payload) := by
  have hnew : SentFrom d (newFrame d (ownPip d) scope cls sub payload).2 := rfl
  unfold broadcast
  dsimp only
  split
  · exact (hnew.trans (sentFrom_flood _ _ _)).trans rfl
  · exact hnew.trans (sentFrom_flood _ _ _)

theorem only_rindFlag (d : Dev) (b : Nat) : Only d (rindFlag d b) [RIND.RSTAT, ipend 56] :=
  only_setFlag d RIND.RSTAT b _ 56

/-- A flag of the Rind with a counter of it. -/
theorem safeKept_rindCounted (d : Dev) (b : Nat) {r : Reg} (f : Fld) (hr : r.addr < 0x40120000) :
    SafeKept d (bump (rindFlag d b) r f) :=
  .of_only ((only_rindFlag d b).trans (only_bump _ r f 1)) (by simp [RIND.RSTAT, ipend, ICU.IPEND, hr])

theorem safeKept_tripSend (d : Dev) (k : Nat) : SafeKept d (tripSend d k) := by
  unfold tripSend
  split
  · exact safeKept_rindCounted d 3 _ (by decide)
  · have hsent := sentFrom_broadcast d 2 0 0 (leBytes 4 (gf d RIND.RXMAP ⟨3 * k + 2, 3 * k⟩))
    refine .trans (.of_regs (fun r _ => ?_) fun n => ?_) (safeKept_rindCounted _ 2 _ (by decide))
    · rw [hsent]; rfl
    · rw [hsent]; exact ⟨rfl, rfl⟩

theorem safeKept_tripShown (d : Dev) (k : Nat) : SafeKept d (tripShown d k) := by
  have hloc : SafeKept d { d with tripLoc := fset ⟨k, k⟩ d.tripLoc 1 } := .of_regs (fun _ _ => rfl) fun _ => ⟨rfl, rfl⟩
  unfold tripShown
  split
  · dsimp only
    split
    · exact hloc.trans (safeKept_tripSend _ k)
    · exact hloc
  · exact .refl d

/-- A leg of triad `t` is in its safe state for a trip line where it selected line `k` at `d`. -/
def TrippedFrom (d : Dev) (k t j : Nat) (e : Dev) : Prop :=
  (gf d (TRIAD.LCFG t j) TRIAD.LCFG_TRIPM).testBit k = true → SafeBy 4 t j e

theorem TrippedFrom.kept {d e f : Dev} {k t j : Nat} (h : TrippedFrom d k t j e) (hk : SafeKept e f) (hj : j < 3) :
    TrippedFrom d k t j f := fun hsel => (h hsel).kept hk hj (by decide) (by decide)

theorem legsTripped_effect (k : Nat) {t : Nat} (ht : t < 16) (d : Dev) :
    SafeKept d (legsTripped k d t) ∧ ∀ j ∈ legs, TrippedFrom d k t j (legsTripped k d t) := by
  have hstep : ∀ e, ∀ j ∈ legs, SafeKept e
      (if (gf e (TRIAD.LCFG t j) TRIAD.LCFG_TRIPM).testBit k then legEnter 4 t e j else e) := fun e j hj => by
    split
    · exact safeKept_legEnter 4 ht (mem_legs.1 hj) e
    · exact .refl e
  refine forEach_all legs _ (I := SafeKept d) (P := fun j e => TrippedFrom d k t j e) (.refl d)
    (fun e he j hj => he.trans (hstep e j hj)) (fun e he j hj hsel => ?_)
    (fun e _ j hj i hi htripped => htripped.kept (hstep e j hj) (mem_legs.1 hi))
  rw [gf, ← he.trips t j (mem_legs.1 hj), ← gf] at hsel
  rw [if_pos hsel]
  exact legEnter_safe (by decide) (by decide) ht e j

theorem triadsTripped_effect (k : Nat) (d : Dev) :
    SafeKept d (forEach (List.range 16) (legsTripped k) d)
      ∧ ∀ t ∈ List.range 16, ∀ j ∈ legs, TrippedFrom d k t j (forEach (List.range 16) (legsTripped k) d) := by
  have hstep : ∀ e, ∀ t ∈ List.range 16, SafeKept e (legsTripped k e t) :=
    fun e t ht => (legsTripped_effect k (List.mem_range.1 ht) e).1
  refine forEach_all (List.range 16) (legsTripped k) (I := SafeKept d)
    (P := fun t e => ∀ j ∈ legs, TrippedFrom d k t j e) (.refl d) (fun e he t ht => he.trans (hstep e t ht))
    (fun e he t ht j hj hsel => ?_) (fun e _ t ht u _ hall j hj => (hall j hj).kept (hstep e t ht) (mem_legs.1 hj))
  refine (legsTripped_effect k (List.mem_range.1 ht) e).2 j hj ?_
  rw [gf, he.trips t j (mem_legs.1 hj)]
  exact hsel

/-! Commands to a triad and to the lines (R178, R179, R190). -/

/-- The software cause of a leg ends, and where it was the last one the leg waits for its period start (R178, R179). -/
def legReleased (t : Nat) (d : Dev) (j : Nat) : Dev :=
  if legSafe (legCauseEnd 6 t d j) t j && legCauses (legCauseEnd 6 t d j) t j = 0 then
    setBit (legCauseEnd 6 t d j) (TRIAD.LSTAT t j) 3 true
  else legCauseEnd 6 t d j

theorem tcmdRelease_of_open (d : Dev) (t : Nat) (hg : gateOpen d 11 = true) :
    tcmdRelease d t = forEach legs (legReleased t) (setBit d (TRIAD.TCMD t) 1 false) := if_pos hg

theorem only_legReleased (t : Nat) (d : Dev) (j : Nat) : Only d (legReleased t d j) [TRIAD.LSTAT t j] := by
  have hend := only_setBit d (TRIAD.LSTAT t j) 6 false
  unfold legReleased
  split
  · exact (hend.trans (only_setBit _ _ 3 true)).mono (by simp)
  · exact hend

/-- The status bits of a leg that a release leaves. -/
theorem bitOf_legReleased (t : Nat) (d : Dev) (j : Nat) {b : Nat} (h3 : b ≠ 3) (hb : b < 32) :
    bitOf (legReleased t d j) (TRIAD.LSTAT t j) b = bitOf (legCauseEnd 6 t d j) (TRIAD.LSTAT t j) b := by
  unfold legReleased
  split
  · exact bitOf_setBit_bit _ _ 3 b true h3 hb
  · rfl

theorem bitOf_legReleased_other (t : Nat) (d : Dev) {j i : Nat} (hj : j < 3) (hi : i < 3) (hne : i ≠ j) (b : Nat) :
    bitOf (legReleased t d j) (TRIAD.LSTAT t i) b = bitOf d (TRIAD.LSTAT t i) b :=
  congrArg (BitVec.getLsbD · b)
    ((only_legReleased t d j).rd_other _ (LSTAT_ne_LSTAT hj hi fun h => hne h.2))

theorem legSafe_legReleased (t : Nat) (d : Dev) {j i : Nat} (hj : j < 3) (hi : i < 3) :
    legSafe (legReleased t d j) t i = legSafe d t i := by
  by_cases hne : i = j
  · subst hne
    exact (bitOf_legReleased t d i (by decide) (by decide)).trans (bitOf_setBit_bit d _ 6 2 false (by decide) (by decide))
  · exact bitOf_legReleased_other t d hj hi hne 2

theorem soft_legReleased (t : Nat) (d : Dev) (j : Nat) : bitOf (legReleased t d j) (TRIAD.LSTAT t j) 6 = false :=
  (bitOf_legReleased t d j (by decide) (by decide)).trans (bitOf_setBit_same d _ 6 false (by decide))

theorem legsReleased_effect (t : Nat) (d : Dev) :
    (Only d (forEach legs (legReleased t) d) [TRIAD.LSTAT t 0, TRIAD.LSTAT t 1, TRIAD.LSTAT t 2]
        ∧ ∀ i ∈ legs, legSafe (forEach legs (legReleased t) d) t i = legSafe d t i)
      ∧ ∀ i ∈ legs, bitOf (forEach legs (legReleased t) d) (TRIAD.LSTAT t i) 6 = false := by
  refine forEach_all legs (legReleased t) (P := fun i e => bitOf e (TRIAD.LSTAT t i) 6 = false)
    (I := fun e => Only d e [TRIAD.LSTAT t 0, TRIAD.LSTAT t 1, TRIAD.LSTAT t 2] ∧ ∀ i ∈ legs, legSafe e t i = legSafe d t i)
    ⟨.refl d _, fun _ _ => rfl⟩ (fun e he j hj => ?_) (fun e _ j _ => soft_legReleased t e j) (fun e _ j hj i hi hoff => ?_)
  · obtain ⟨honly, hsafe⟩ := he
    refine ⟨(honly.trans (only_legReleased t e j)).mono ?_, fun i hi => ?_⟩
    · have hmem : TRIAD.LSTAT t j ∈ legs.map (TRIAD.LSTAT t) := List.mem_map_of_mem hj
      exact List.append_subset.2 ⟨List.Subset.refl _, List.cons_subset.2 ⟨hmem, List.nil_subset _⟩⟩
    · exact (legSafe_legReleased t e (mem_legs.1 hj) (mem_legs.1 hi)).trans (hsafe i hi)
  · by_cases hne : i = j
    · subst hne; exact soft_legReleased t e i
    · rw [bitOf_legReleased_other t e (mem_legs.1 hj) (mem_legs.1 hi) hne]; exact hoff

theorem tcmdSafe_of_open (d : Dev) (t : Nat) (hg : gateOpen d 11 = true) :
    tcmdSafe d t = forEach legs (legEnter 6 t)
      (advanceTo (setBit d (TRIAD.TCMD t) 1 true) (edgeAt (setBit d (TRIAD.TCMD t) 1 true) 2 (d.now + 1))) := if_pos hg

theorem writeRswt_of_open (d : Dev) (v : Word) (hg : gateOpen d 10 = true) :
    writeRswt d v = wr d RIND.RILAT (rd d RIND.RILAT ||| ((v &&& 0xFF) <<< 8)) := if_pos hg

/-- The bits that RSWT gives to the upper byte of the latches, and none to the lower one. -/
theorem getLsbD_rswt (v : Word) (k : Fin 8) : ((v &&& 0xFF) <<< 8).getLsbD (8 + k) = v.getLsbD k
    ∧ ((v &&& 0xFF) <<< 8).getLsbD k = false := by
  have hk := k.isLt
  have hmask : (0xFF : Word).getLsbD k = true := by revert k; decide
  have hlt : (8 + (k : Nat)) < 32 := by omega
  simp only [BitVec.getLsbD_shiftLeft, BitVec.getLsbD_and, hmask, Nat.add_sub_cancel_left, Bool.and_true]
  simp [hlt, hk]

/-! Shadows of a leg (R162, R163). -/

/-- From `d` to `e` nothing has changed but triads and legs beside their registers. -/
def WorkFrom (d e : Dev) : Prop := e = { d with tri := e.tri, leg := e.leg }

theorem WorkFrom.trans {d e f : Dev} (h : WorkFrom d e) (g : WorkFrom e f) : WorkFrom d f := by
  unfold WorkFrom at *
  rw [g, h]

theorem WorkFrom.rd {d e : Dev} (h : WorkFrom d e) (r : Reg) : rd e r = rd d r := by
  have hregs : e.regs = d.regs := by rw [h]
  rw [Machine.rd, hregs, Machine.rd]

theorem WorkFrom.memStays {d e : Dev} (h : WorkFrom d e) : MemStays d e := .of_same (by rw [h]) (by rw [h])

/-- The settings and, unless locked, the duty that a leg works with from an update point on (R162, R165). -/
def legUpdated (t : Nat) (lock : Bool) (d : Dev) (j : Nat) : Dev :=
  legPut d t j { legGet d t j with cfg := rd d (TRIAD.LCFG t j), dt := rd d (TRIAD.LDT t j),
                                   op := if lock then (legGet d t j).op else (rd d (TRIAD.LDUTY t j)).toNat }

theorem triUpdate_eq (d : Dev) (t : Nat) (lock : Bool) : triUpdate d t lock =
    forEach legs (legUpdated t lock) (triPut d t { triGet d t with cfg := rd d (TRIAD.TCFG t), imm := false }) := rfl

theorem workFrom_triUpdate (d : Dev) (t : Nat) (lock : Bool) : WorkFrom d (triUpdate d t lock) := by
  rw [triUpdate_eq]
  exact List.foldlRecOn (motive := fun e => WorkFrom d e) _ _ rfl fun _ he _ _ => he.trans rfl

theorem legStep_legLevel (d : Dev) (t j c at32 : Nat) : LegStep t [j] d (legLevel c at32 t d j) := by
  have href : LegStep t [j] d
      (legPut d t j { legGet d t j with ref := refLevel c (triGet d t).fall (legGet d t j).op }) := .legPut rfl
  exact href.trans (.of_driven (driven_legFollow _ t j at32))

theorem legStep_legsLevel (d : Dev) (t c at32 : Nat) : LegStep t legs d (forEach legs (legLevel c at32 t) d) :=
  .forEach legs _ (fun e j hj => (legStep_legLevel e t j c at32).mono (by simpa using hj)) d

/-- A copy of the shadows leaves every setting of a leg, and memory. -/
theorem triCopyAt_effect (d : Dev) {t : Nat} (ht : t < 16) (k : Nat) :
    (∀ r, LegSetting r → rd (triCopyAt d t k) r = rd d r) ∧ MemStays d (triCopyAt d t k) := by
  unfold triCopyAt
  dsimp only
  split
  · exact ⟨fun _ _ => rfl, fun _ => ⟨rfl, rfl⟩⟩
  · have hwork := workFrom_triUpdate d t (triLocked d t)
    generalize triUpdate d t (triLocked d t) = u at *
    have hstep := legStep_legsLevel u t (triAt (triGet d t) k) (32 * ((triGet d t).t0 + k * triClk u t))
    exact ⟨fun r hr => (hstep.rd_setting ht hr).trans (hwork.rd r), hwork.memStays.trans hstep.memStays⟩

theorem triWritten_effect (d : Dev) {t : Nat} (ht : t < 16) :
    (∀ r, LegSetting r → rd (triWritten d t) r = rd d r) ∧ MemStays d (triWritten d t) := by
  unfold triWritten
  split
  · exact triCopyAt_effect d ht _
  · exact ⟨fun _ _ => rfl, fun _ => ⟨rfl, rfl⟩⟩

/-- Outside the IMMEDIATE mode a written shadow is not copied. -/
theorem triWritten_of_waiting (d : Dev) (t : Nat) (h : fget TRIAD.TCFG_UPD (triGet d t).cfg ≠ 4) : triWritten d t = d :=
  if_neg (by simp [h])

theorem writeLduty_of_open (d : Dev) (t j : Nat) (v : Word) (hg : gateOpen d 11 = true) :
    writeLduty d t j v = triWritten (wr d (TRIAD.LDUTY t j) (v &&& 0x3FFFFF)) t := if_pos hg

theorem toNat_and_duty (v : Word) : (v &&& 0x3FFFFF).toNat = v.toNat % 2 ^ 22 := by
  rw [BitVec.toNat_and]
  exact Nat.and_two_pow_sub_one_eq_mod v.toNat 22

/-! Configuration writes of the triads (R19, R198, R201). -/

/-- A write inside triad `t` goes to the ticked register of its offset, or is refused with the error flag. -/
theorem writeTriTicked_triad (d : Dev) (t : Fin 16) (o : Nat) (v : Word) {r : Reg} {m : Word} {bad : Bool} (ho : o < 0x400)
    (hg : gateOpen d 11 = true) (ht : triTicked d t o v = some (r, m, bad)) :
    writeTriTicked d (0x40120000 + 0x400 * t + o) v = if bad then triFlag d t 6 else wrPend d r (v &&& m) := by
  have hlt := t.isLt
  have hsub : 0x40120000 + 0x400 * (t : Nat) + o - 0x40120000 = 0x400 * t + o := by omega
  have hwin : ¬ 0x8000 ≤ 0x400 * (t : Nat) + o := by omega
  have hin : (decide (0x40120000 ≤ 0x40120000 + 0x400 * (t : Nat) + o)
      && decide (0x400 * (t : Nat) + o < 16 * 0x400)) = true := by
    simp only [Bool.and_eq_true, decide_eq_true_eq]; omega
  have hnum : (0x400 * (t : Nat) + o) / 0x400 = t := by omega
  have hoff : (0x400 * (t : Nat) + o) % 0x400 = o := by omega
  simp only [writeTriTicked, hsub, if_neg hwin, hin, hnum, hoff, hg, ht, Bool.true_and, if_true]

end Sys2Proof.Machine

end

section

open Sys2Proof Sys2Proof.Machine

/-- Settles O24: a leg that a cause enters is in its safe state, and no later entry takes it or another leg out. -/
theorem safeStatesAreEntered : Obligations.SafeStatesAreEntered := by
  unfold Obligations.SafeStatesAreEntered
  refine ⟨?line, ?safe, ?release, ?software, ?duty, ?config⟩
  case line =>
    refine fun s k hr hline => does_of_clocked (f := (tripAssert · k)) rfl hr ?_
    obtain ⟨hkept, hall⟩ := triadsTripped_effect k s.dev
    have hshown := safeKept_tripShown (forEach (List.range 16) (legsTripped k) s.dev) k
    rw [tripAssert_of_line s.dev k hline]
    refine ⟨fun t j hsel => ?_, (hkept.trans hshown).mem⟩
    exact (hall t (List.mem_range.2 t.isLt) j (mem_legs.2 j.isLt)).kept hshown j.isLt hsel
  case safe =>
    refine fun s t hr hg => does_of_clocked (f := (tcmdSafe · t)) rfl hr ?_
    obtain ⟨hstep, hall⟩ := legsEnter_effect (cause := 6) (by decide) (by decide) t.isLt
      (advanceTo (setBit s.dev (TRIAD.TCMD t) 1 true) (edgeAt (setBit s.dev (TRIAD.TCMD t) 1 true) 2 (s.dev.now + 1)))
    rw [tcmdSafe_of_open s.dev t hg]
    refine ⟨fun j => hall j (mem_legs.2 j.isLt), (MemStays.trans (fun _ => ⟨rfl, rfl⟩) hstep.memStays), ?_⟩
    exact (only_setBit s.dev (TRIAD.TCMD t) 1 true).regsStay.trans hstep.regs
  case release =>
    refine fun s t hr hg => does_of_clocked (f := (tcmdRelease · t)) rfl hr ?_
    obtain ⟨⟨honly, hsafe⟩, hoff⟩ := legsReleased_effect t (setBit s.dev (TRIAD.TCMD t) 1 false)
    have hsame : ∀ j : Nat, legSafe (setBit s.dev (TRIAD.TCMD t) 1 false) t j = legSafe s.dev t j := fun j =>
      bitOf_setBit_other s.dev _ _ 1 2 false (by simp only [TRIAD.LSTAT, TRIAD.TCMD]; omega)
    rw [tcmdRelease_of_open s.dev t hg]
    refine ⟨fun j => ⟨hoff j (mem_legs.2 j.isLt), ?_⟩, (only_setBit s.dev (TRIAD.TCMD t) 1 false).trans honly⟩
    rw [hsafe j (mem_legs.2 j.isLt), hsame]
  case software =>
    refine fun s v hr hg => does_of_clocked (f := (writeRswt · v)) rfl hr ?_
    rw [writeRswt_of_open s.dev v hg]
    refine ⟨fun k => ?_, fun k => ?_, only_wr s.dev RIND.RILAT _⟩
    · rw [bitOf, rd_wr_same, BitVec.getLsbD_or, (getLsbD_rswt v k).1, bitOf]
    · rw [bitOf, rd_wr_same, BitVec.getLsbD_or, (getLsbD_rswt v k).2, bitOf, Bool.or_false]
  case duty =>
    refine fun s t j v hr hg => does_of_clocked (f := (writeLduty · t j v)) rfl hr ?_
    obtain ⟨hset, hmem⟩ := triWritten_effect (wr s.dev (TRIAD.LDUTY t j) (v &&& 0x3FFFFF)) t.isLt
    rw [writeLduty_of_open s.dev t j v hg]
    refine ⟨?_, MemStays.trans (fun _ => ⟨rfl, rfl⟩) hmem, fun hupd => ?_⟩
    · rw [hset _ (legSetting_LDUTY t j.isLt), rd_wr_same, toNat_and_duty]
    · rw [triWritten_of_waiting (wr s.dev (TRIAD.LDUTY t j) (v &&& 0x3FFFFF)) t hupd]
      exact only_wr s.dev (TRIAD.LDUTY t j) _
  case config =>
    refine fun s t o v r m hr hg ho ht => does_of_clocked (f := (writeTriTicked · _ v)) rfl hr ?_
    rw [writeTriTicked_triad s.dev t o v ho hg ht]
    exact wrPend_pendingTo s.dev r (v &&& m)

end

section

namespace Sys2Proof.Machine

open Sys2Proof

/-! Windows beside their registers (R183, R187). -/

@[simp] theorem winGet_winPut_same (d : Dev) (w : Nat) (x : WinSt) : winGet (winPut d w x) w = x :=
  look_store_same d.win w x {}

theorem others_winPut (d : Dev) (w : Nat) (x : WinSt) : Others d.win (winPut d w x).win w :=
  fun k y hk => look_store_other d.win w k x {} y hk

theorem advanceTo_self (d : Dev) : advanceTo d d.now = d := by
  simp [advanceTo, advance]

theorem winUnhold_of_hold {d : Dev} {w t : Nat} (h : (winGet d w).hold = some t) :
    winUnhold d w = winPut (advanceTo d t) w { winGet d w with hold := none } := by
  rw [winUnhold, h]

/-- The end of a settling hold changes the window beside its registers, and time. -/
theorem winUnhold_frame (d : Dev) (w : Nat) :
    winUnhold d w = { advanceTo d (winUnhold d w).now with win := (winUnhold d w).win } := by
  cases hhold : (winGet d w).hold with
  | none =>
    have hsame : winUnhold d w = d := by rw [winUnhold, hhold]
    rw [hsame, advanceTo_self]
  | some t =>
    have hnow : (winUnhold d w).now = (advanceTo d t).now := by rw [winUnhold_of_hold hhold]; rfl
    rw [hnow, advanceTo_now_self, winUnhold_of_hold hhold]
    rfl

theorem rd_winUnhold (d : Dev) (w : Nat) (r : Reg) : rd (winUnhold d w) r = rd d r := by
  have hregs : (winUnhold d w).regs = d.regs := by rw [winUnhold_frame]; rfl
  rw [rd, hregs, rd]

/-- What changes registers alone after the end of a hold, told from before it. -/
theorem Only.of_winUnhold {d e : Dev} {w : Nat} {l : List Reg} (h : Only (winUnhold d w) e l) :
    Only { advanceTo d e.now with win := e.win } e l := by
  have hnow : e.now = (winUnhold d w).now := by rw [h.1]
  have hwin : e.win = (winUnhold d w).win := by rw [h.1]
  rw [hnow, hwin, ← winUnhold_frame]
  exact h

theorem memStays_winUnhold (d : Dev) (w : Nat) : MemStays d (winUnhold d w) :=
  .of_same (by rw [winUnhold_frame]; rfl) (by rw [winUnhold_frame]; rfl)

/-! Flags of the Rind (R183 to R194). -/

theorem rindFlag_flagUp (d : Dev) (b : Nat) :
    FlagUp d (rindFlag d b) RIND.RSTAT b (gf d RIND.RSEL RIND.RSEL_IE) 56 :=
  setFlag_flagUp d RIND.RSTAT b _ 56 (by decide) (by decide)

/-- A window has a latch. -/
def winLatched (d : Dev) (w : Nat) : Bool := bitOf d (RIND.WSTAT w) 3 || bitOf d (RIND.WSTAT w) 2

theorem winfRefresh_of_latched {d : Dev} {w : Nat} (hw : w < 48) (h : winLatched d w = true) : winfRefresh d = rindFlag d 0 :=
  if_pos (List.any_eq_true.2 ⟨w, List.mem_range.2 hw, h⟩)

theorem only_winfRefresh (d : Dev) : Only d (winfRefresh d) [RIND.RSTAT, ipend 56] := by
  unfold winfRefresh
  split
  · exact only_rindFlag d 0
  · exact (only_setBit d RIND.RSTAT 0 false).mono (by simp)

/-- A flag of the Rind leaves the registers of the windows. -/
theorem Only.rd_window {d e : Dev} (h : Only d e [RIND.RSTAT, ipend 56]) {r : Reg} (hr : 0x40110100 ≤ r.addr) :
    rd e r = rd d r := by
  have hp := ne_ipend (src := 56) (by decide) (r := r) (by omega)
  have hs : r.addr ≠ RIND.RSTAT.addr := by show r.addr ≠ 0x40110020; omega
  exact h.regsStay r (by simp [hp, hs])

/-! Local causes and trip causes that are over (R188, R191). -/

/-- A register with the status of a leg. -/
def LegStatus (r : Reg) : Prop := 0x40120000 ≤ r.addr ∧ 0x40 ≤ r.addr % 0x400 ∧ r.addr % 0x10 = 0xC

theorem legStatus_LSTAT (t : Nat) {j : Nat} (hj : j < 3) : LegStatus (TRIAD.LSTAT t j) := by
  simp only [LegStatus, TRIAD.LSTAT]
  omega

theorem not_legStatus_of_lt {r : Reg} (h : r.addr < 0x40120000) : ¬ LegStatus r := fun hr => by
  obtain ⟨hlo, -, -⟩ := hr
  omega

/-- From `d` to `e` nothing has changed but the statuses of legs and which local causes stand. -/
structure TripStep (d e : Dev) : Prop where
  regs : ∀ r : Reg, ¬ LegStatus r → rd e r = rd d r
  frame : e = { d with regs := e.regs, tripLoc := e.tripLoc }

namespace TripStep

variable {d e f : Dev}

theorem refl (d : Dev) : TripStep d d := ⟨fun _ _ => rfl, rfl⟩

theorem trans (h : TripStep d e) (g : TripStep e f) : TripStep d f where
  regs r hr := (g.regs r hr).trans (h.regs r hr)
  frame := by rw [g.frame, h.frame]

theorem forEach {α : Type} (l : List α) (f : Dev → α → Dev) (h : ∀ e, ∀ a ∈ l, TripStep e (f e a)) (d : Dev) :
    TripStep d (forEach l f d) :=
  List.foldlRecOn (motive := fun e => TripStep d e) l f (refl d) fun e he a ha => he.trans (h e a ha)

theorem legCauseEnd (cause t : Nat) {j : Nat} (hj : j < 3) (d : Dev) : TripStep d (legCauseEnd cause t d j) where
  regs r hr := (only_setBit d (TRIAD.LSTAT t j) cause false).rd_other r fun haddr =>
    hr (by rw [LegStatus, haddr]; exact legStatus_LSTAT t hj)
  frame := rfl

theorem memStays (h : TripStep d e) : MemStays d e := .of_same (by rw [h.frame]) (by rw [h.frame])

end TripStep

theorem tripStep_tripRefresh (d : Dev) : TripStep d (tripRefresh d) := by
  unfold tripRefresh
  dsimp only
  refine .trans ?_ (.forEach _ _ (fun e t _ => .forEach _ _ (fun e j hj => ?_) e) _)
  · exact ⟨fun _ _ => rfl, rfl⟩
  · split
    · exact .legCauseEnd 4 t (mem_legs.1 hj) e
    · exact .refl e

theorem rd_tripRefresh_WSTAT (d : Dev) (w : Fin 48) : rd (tripRefresh d) (RIND.WSTAT w) = rd d (RIND.WSTAT w) :=
  (tripStep_tripRefresh d).regs _ (not_legStatus_of_lt (by simp only [RIND.WSTAT]; omega))

/-! Events of a window (R184 to R186). -/

theorem WCNT_ne_WSTAT (w : Nat) : (RIND.WCNT w).addr ≠ (RIND.WSTAT w).addr := by
  show 0x4011010C + 0x10 * w ≠ 0x40110108 + 0x10 * w
  omega

theorem WSTAT_ge (w : Nat) : 0x40110100 ≤ (RIND.WSTAT w).addr := by simp only [RIND.WSTAT]; omega

theorem WCNT_ge (w : Nat) : 0x40110100 ≤ (RIND.WCNT w).addr := by simp only [RIND.WCNT]; omega

theorem WSTAT_injective {u w : Nat} (h : u ≠ w) : (RIND.WSTAT u).addr ≠ (RIND.WSTAT w).addr := by
  show 0x40110108 + 0x10 * u ≠ 0x40110108 + 0x10 * w
  omega

/-- The bit of an event, and that of its latch (R184). -/
def evBit (hi : Bool) : Nat := if hi then 1 else 0
def latBit (hi : Bool) : Nat := if hi then 3 else 2

/-- An event with its latch and its count. -/
def winRisen (d : Dev) (w : Nat) (hi : Bool) : Dev :=
  bump (setBit (setBit d (RIND.WSTAT w) (evBit hi) true) (RIND.WSTAT w) (latBit hi) true) (RIND.WCNT w)
    (if hi then RIND.WCNT_HI else RIND.WCNT_LO)

theorem winEvent_of_rise (d : Dev) (w : Nat) (hi : Bool) (hrun : winState d w = 2)
    (hen : gf d (RIND.WCFG w) (if hi then RIND.WCFG_HIEN else RIND.WCFG_LOEN) = 1)
    (hlow : bitOf d (RIND.WSTAT w) (if hi then 1 else 0) = false) :
    winEvent d w hi = winfRefresh (winRisen (winUnhold d w) w hi) := if_pos (by simp [hrun, hen, hlow])

theorem rd_winRisen (d : Dev) (w : Nat) (hi : Bool) :
    rd (winRisen d w hi) (RIND.WSTAT w) = rd d (RIND.WSTAT w) ||| bit (evBit hi) ||| bit (latBit hi) := by
  rw [winRisen, (only_bump _ (RIND.WCNT w) _ 1).rd_other _ (WCNT_ne_WSTAT w).symm, rd_setBit_true, rd_setBit_true]

theorem gf_winRisen (d : Dev) (w : Nat) (hi : Bool) :
    gf (winRisen d w hi) (RIND.WCNT w) (if hi then RIND.WCNT_HI else RIND.WCNT_LO)
      = min (gf d (RIND.WCNT w) (if hi then RIND.WCNT_HI else RIND.WCNT_LO) + 1)
          (ftop (if hi then RIND.WCNT_HI else RIND.WCNT_LO)) := by
  rw [winRisen, gf_bump_same _ _ _ _ (by cases hi <;> decide), gf,
    (only_setBit _ (RIND.WSTAT w) _ true).rd_other _ (WCNT_ne_WSTAT w),
    (only_setBit _ (RIND.WSTAT w) _ true).rd_other _ (WCNT_ne_WSTAT w), gf]

theorem winLatched_winRisen (d : Dev) (w : Nat) (hi : Bool) : winLatched (winRisen d w hi) w = true := by
  have hlat : bitOf (winRisen d w hi) (RIND.WSTAT w) (latBit hi) = true := by
    rw [bitOf, rd_winRisen, BitVec.getLsbD_or, getLsbD_bit _ (by cases hi <;> decide)]
    simp
  cases hi
  · exact Bool.or_eq_true_iff.2 (.inr hlat)
  · exact Bool.or_eq_true_iff.2 (.inl hlat)

theorem only_winRisen (d : Dev) (w : Nat) (hi : Bool) : Only d (winRisen d w hi) [RIND.WSTAT w, RIND.WCNT w] :=
  (((only_setBit d _ _ true).trans (only_setBit _ _ _ true)).trans (only_bump _ _ _ 1)).mono (by simp)

/-- A latch whose bit in a write is 1 is cleared where its event is not active (R186). -/
def latchCleared (d : Dev) (w : Nat) (v : Word) (b ev : Nat) : Dev :=
  if v.getLsbD b && !bitOf d (RIND.WSTAT w) ev then setBit d (RIND.WSTAT w) b false else d

theorem winClear_eq (d : Dev) (w : Nat) (v : Word) :
    winClear d w v = latchCleared (latchCleared d w v 3 1) w v 2 0 := rfl

theorem bitOf_latchCleared_same (d : Dev) (w : Nat) (v : Word) {b : Nat} (ev : Nat) (hb : b < 32) :
    bitOf (latchCleared d w v b ev) (RIND.WSTAT w) b
      = (bitOf d (RIND.WSTAT w) b && !(v.getLsbD b && !bitOf d (RIND.WSTAT w) ev)) := by
  unfold latchCleared
  split
  next hclear => rw [bitOf_setBit_same _ _ _ _ hb, hclear, Bool.not_true, Bool.and_false]
  next hkeep => rw [Bool.eq_false_iff.2 hkeep, Bool.not_false, Bool.and_true]

theorem bitOf_latchCleared_other (d : Dev) (w : Nat) (v : Word) {b c : Nat} (ev : Nat) (hne : c ≠ b) (hc : c < 32) :
    bitOf (latchCleared d w v b ev) (RIND.WSTAT w) c = bitOf d (RIND.WSTAT w) c := by
  unfold latchCleared
  split
  · exact bitOf_setBit_bit d _ b c false hne hc
  · rfl

theorem only_latchCleared (d : Dev) (w : Nat) (v : Word) (b ev : Nat) : Only d (latchCleared d w v b ev) [RIND.WSTAT w] := by
  unfold latchCleared
  split
  · exact only_setBit d _ b false
  · exact .refl d _

theorem only_winClear (d : Dev) (w : Nat) (v : Word) : Only d (winClear d w v) [RIND.WSTAT w] :=
  ((only_latchCleared d w v 3 1).trans (only_latchCleared _ w v 2 0)).mono (by simp)

/-- What a write of the latches leaves of them. -/
theorem bitOf_winClear (d : Dev) (w : Nat) (v : Word) :
    bitOf (winClear d w v) (RIND.WSTAT w) 3
        = (bitOf d (RIND.WSTAT w) 3 && !(v.getLsbD 3 && !bitOf d (RIND.WSTAT w) 1))
      ∧ bitOf (winClear d w v) (RIND.WSTAT w) 2
        = (bitOf d (RIND.WSTAT w) 2 && !(v.getLsbD 2 && !bitOf d (RIND.WSTAT w) 0)) := by
  rw [winClear_eq]
  constructor
  · rw [bitOf_latchCleared_other _ w v 0 (by decide) (by decide), bitOf_latchCleared_same d w v 1 (by decide)]
  · rw [bitOf_latchCleared_same _ w v 0 (by decide), bitOf_latchCleared_other d w v 1 (by decide) (by decide),
      bitOf_latchCleared_other d w v 1 (by decide) (by decide)]

theorem writeWstat_of_open (d : Dev) (w : Nat) (v : Word) (hg : gateOpen d 10 = true)
    (hclr : gf d (RIND.WCFG w) RIND.WCFG_CLR = 0) : writeWstat d w v = tripRefresh (winfRefresh (winClear d w v)) :=
  if_pos (by simp [hg, hclr])

/-- After a change of latches the flag and the causes are seen to, and every window keeps its status. -/
theorem rd_refreshed_WSTAT (d : Dev) (u : Fin 48) : rd (tripRefresh (winfRefresh d)) (RIND.WSTAT u) = rd d (RIND.WSTAT u) :=
  (rd_tripRefresh_WSTAT _ u).trans ((only_winfRefresh d).rd_window (WSTAT_ge u))

/-! Timed states of a window (R183, R187). -/

theorem gf_winState (d : Dev) (w : Nat) {st : Nat} (h : st < 4) : winState (sf d (RIND.WSTAT w) RIND.WSTAT_STATE st) w = st := by
  rw [winState, gf_sf_same _ _ _ _ (by decide)]
  exact Nat.mod_eq_of_lt h

theorem others_winStart (d : Dev) (w : Nat) : Others d.win (winStart d w).win w :=
  others_winPut d w { due := d.now + 3000, hold := none }

theorem only_winStart (d : Dev) (w : Nat) : Only { d with win := (winStart d w).win } (winStart d w) [RIND.WSTAT w] :=
  only_sf (winPut d w { due := d.now + 3000, hold := none }) _ _ 1

theorem winStartDone_of_starting (d : Dev) (w : Nat) (h : winState d w = 1) :
    winStartDone d w = sf (advanceTo d (winGet d w).due) (RIND.WSTAT w) RIND.WSTAT_STATE 2 := if_pos h

/-- A STOPPING window whose time is up starts again where EN is 1. -/
theorem winStopDone_of_wanted (d : Dev) (w : Nat) (h : winState d w = 3) (hen : gf d (RIND.WCFG w) RIND.WCFG_EN = 1) :
    winStopDone d w = winStart (advanceTo d (winGet d w).due) w := by
  rw [winStopDone, if_pos h]
  exact if_pos hen

theorem winStopDone_of_unwanted (d : Dev) (w : Nat) (h : winState d w = 3) (hen : gf d (RIND.WCFG w) RIND.WCFG_EN ≠ 1) :
    winStopDone d w = sf (advanceTo d (winGet d w).due) (RIND.WSTAT w) RIND.WSTAT_STATE 0 := by
  rw [winStopDone, if_pos h]
  exact if_neg hen

/-! Imported trips (R193). -/

/-- The lines that a code asserts. -/
def importLines (d : Dev) (code : Nat) : Nat :=
  if code < 4 then gf d RIND.RIMAP0 ⟨8 * code + 7, 8 * code⟩ else gf d RIND.RIMAP1 ⟨8 * (code - 4) + 7, 8 * (code - 4)⟩

/-- The latches of the lines, with code and pip of the frame. -/
def imported (d : Dev) (code pip : Nat) : Dev :=
  sf (sf (wr d RIND.RILAT (rd d RIND.RILAT ||| BitVec.ofNat 32 (importLines d code))) RIND.RLAST RIND.RLAST_CODE code)
    RIND.RLAST RIND.RLAST_PIP pip

theorem tripImport_of_other (d : Dev) (code pip : Nat) (h : pip ≠ ownPip d) :
    tripImport d code pip = bump (rindFlag (imported d code pip) 1) RIND.RCNT RIND.RCNT_IMP := if_neg (by simp [h])

theorem getLsbD_importLines (d : Dev) {code k : Nat} (hcode : code < 8) (hk : k < 8) :
    (BitVec.ofNat 32 (importLines d code)).getLsbD k
      = bitOf d (if code < 4 then RIND.RIMAP0 else RIND.RIMAP1) (8 * (code % 4) + k) := by
  have hk32 : k < 32 := by omega
  rw [BitVec.getLsbD_ofNat, decide_eq_true hk32, Bool.true_and, importLines]
  split
  · have hmod : code % 4 = code := by omega
    have hwidth : k < 8 * code + 7 + 1 - 8 * code := by omega
    rw [gf, testBit_fget, decide_eq_true hwidth, Bool.true_and, hmod]
    rfl
  · have hmod : code % 4 = code - 4 := by omega
    have hwidth : k < 8 * (code - 4) + 7 + 1 - 8 * (code - 4) := by omega
    rw [gf, testBit_fget, decide_eq_true hwidth, Bool.true_and, hmod]
    rfl

theorem rd_imported_RILAT (d : Dev) (code pip : Nat) :
    rd (imported d code pip) RIND.RILAT = rd d RIND.RILAT ||| BitVec.ofNat 32 (importLines d code) := by
  rw [imported, rd_sf_other _ _ _ _ _ (by decide), rd_sf_other _ _ _ _ _ (by decide), rd_wr_same]

theorem gf_imported_RLAST (d : Dev) {code pip : Nat} (hcode : code < 8) (hpip : pip < 512) :
    gf (imported d code pip) RIND.RLAST RIND.RLAST_CODE = code ∧ gf (imported d code pip) RIND.RLAST RIND.RLAST_PIP = pip := by
  constructor
  · rw [imported, gf_sf_field _ _ _ _ _ (by decide) (by decide), gf_sf_same _ _ _ _ (by decide)]
    exact Nat.mod_eq_of_lt hcode
  · rw [imported, gf_sf_same _ _ _ _ (by decide)]
    exact Nat.mod_eq_of_lt hpip

theorem only_imported (d : Dev) (code pip : Nat) : Only d (imported d code pip) [RIND.RILAT, RIND.RLAST] :=
  (((only_wr d _ _).trans (only_sf _ _ _ code)).trans (only_sf _ _ _ pip)).mono (by simp)

theorem only_rindCounted (d : Dev) (b : Nat) (r : Reg) (f : Fld) :
    Only d (bump (rindFlag d b) r f) [RIND.RSTAT, ipend 56, r] :=
  (only_rindFlag d b).trans (only_bump _ r f 1)

/-! Configuration writes of the Rind (R19, R199). -/

/-- A write in the lower half of the Rind goes to the ticked register of its offset, or is refused with the error flag. -/
theorem writeRindTicked_lower (d : Dev) (o : Nat) (v : Word) {r : Reg} {m : Word} {bad : Bool} (ho : o < 0x800)
    (hg : gateOpen d 10 = true) (ht : rindTicked o v = some (r, m, bad)) :
    writeRindTicked d (0x40110000 + o) v = if bad then rindFlag d 4 else wrPend d r (v &&& m) := by
  have hsub : 0x40110000 + o - 0x40110000 = o := by omega
  have hwin : ¬ 0x800 ≤ o := by omega
  have hin : decide (0x40110000 ≤ 0x40110000 + o) = true := decide_eq_true (by omega)
  simp only [writeRindTicked, hsub, if_neg hwin, hin, hg, ht, Bool.true_and, if_true]

end Sys2Proof.Machine

end

section

open Sys2Proof Sys2Proof.Machine

/-- Settles O25: each event of a window by what it leaves of its status; flags, causes and legs lie beside the windows. -/
theorem windowsLatchAndClear : Obligations.WindowsLatchAndClear := by
  unfold Obligations.WindowsLatchAndClear
  refine ⟨?rises, ?falls, ?cleared, ?started, ?stopped, ?settled, ?imports, ?config⟩
  case rises =>
    refine fun s w hi hr hrun hen hlow => does_of_clocked (f := (winEvent · w hi)) rfl hr ?_
    have hrisen := only_winRisen (winUnhold s.dev w) w hi
    have hshown := only_rindFlag (winRisen (winUnhold s.dev w) w hi) 0
    rw [winEvent_of_rise s.dev w hi hrun hen hlow, winfRefresh_of_latched w.isLt (winLatched_winRisen _ w hi)]
    refine ⟨?_, ?_, ?_, ?_⟩
    · rw [hshown.rd_window (WSTAT_ge w), rd_winRisen, rd_winUnhold]
      rfl
    · rw [gf, hshown.rd_window (WCNT_ge w), ← gf, gf_winRisen, gf, rd_winUnhold, gf]
    · rw [(rindFlag_flagUp _ 0).bitOf (by decide)]; simp
    · exact (hrisen.trans hshown).of_winUnhold
  case falls =>
    refine fun s w hi hr => does_of_clocked (f := (winEventEnd · w hi)) rfl hr ?_
    have hstat : rd (winEventEnd s.dev w hi) (RIND.WSTAT w)
        = rd (setBit (winUnhold s.dev w) (RIND.WSTAT w) (evBit hi) false) (RIND.WSTAT w) := rd_tripRefresh_WSTAT _ w
    refine ⟨?_, ?_, ?_⟩
    · rw [bitOf, hstat]
      exact bitOf_setBit_same _ _ (evBit hi) false (by cases hi <;> decide)
    · rw [bitOf, hstat, bitOf, ← rd_winUnhold s.dev w]
      exact bitOf_setBit_bit _ _ (evBit hi) (latBit hi) false (by cases hi <;> decide) (by cases hi <;> decide)
    · exact ((memStays_winUnhold s.dev w).trans (only_setBit _ _ _ false).memStays).trans (tripStep_tripRefresh _).memStays
  case cleared =>
    refine fun s w v hr hg hclr => does_of_clocked (f := (writeWstat · w v)) rfl hr ?_
    obtain ⟨hhigh, hlow⟩ := bitOf_winClear s.dev w v
    have hclear := only_winClear s.dev w v
    rw [writeWstat_of_open s.dev w v hg hclr]
    refine ⟨?_, ?_, fun u hne => ?_, ?_⟩
    · rw [bitOf, rd_refreshed_WSTAT]; exact hhigh
    · rw [bitOf, rd_refreshed_WSTAT]; exact hlow
    · rw [rd_refreshed_WSTAT]
      exact hclear.rd_other _ (WSTAT_injective fun h => hne (Fin.ext h))
    · exact (hclear.memStays.trans (only_winfRefresh _).memStays).trans (tripStep_tripRefresh _).memStays
  case started =>
    refine fun s w hr h1 => does_of_clocked (f := (winStartDone · w)) rfl hr ?_
    rw [winStartDone_of_starting s.dev w h1]
    exact ⟨gf_winState _ w (by decide), only_sf _ _ _ 2⟩
  case stopped =>
    refine fun s w hr h3 => does_of_clocked (f := (winStopDone · w)) rfl hr ?_
    by_cases hen : gf s.dev (RIND.WCFG w) RIND.WCFG_EN = 1
    · rw [winStopDone_of_wanted s.dev w h3 hen, if_pos hen]
      exact ⟨gf_winState _ w (by decide), others_winStart (advanceTo s.dev _) w, only_winStart _ w⟩
    · rw [winStopDone_of_unwanted s.dev w h3 hen, if_neg hen]
      exact ⟨gf_winState _ w (by decide), fun _ _ _ => rfl, only_sf _ _ _ 0⟩
  case settled =>
    refine fun s w t hr hhold => does_of_clocked (f := (winUnhold · w)) rfl hr ?_
    rw [winUnhold_of_hold hhold, winGet_winPut_same]
    exact ⟨rfl, others_winPut _ w _, rfl⟩
  case imports =>
    refine fun s code pip k hr hpip => does_of_clocked (f := (tripImport · code.toNat pip.toNat)) rfl hr ?_
    have hcode : code.toNat < 8 := code.isLt
    obtain ⟨hc, hp⟩ := gf_imported_RLAST s.dev hcode (pip := pip.toNat) pip.isLt
    have hcounted := only_rindCounted (imported s.dev code.toNat pip.toNat) 1 RIND.RCNT RIND.RCNT_IMP
    rw [tripImport_of_other s.dev _ _ hpip]
    refine ⟨?_, ?_, ?_, ((only_imported s.dev _ _).trans hcounted).mono (by simp)⟩
    · rw [bitOf, hcounted.regsStay RIND.RILAT (by decide), rd_imported_RILAT, BitVec.getLsbD_or,
        getLsbD_importLines s.dev hcode k.isLt]
      rfl
    · rw [gf, hcounted.regsStay RIND.RLAST (by decide), ← gf, hc]
    · rw [gf, hcounted.regsStay RIND.RLAST (by decide), ← gf, hp]
  case config =>
    refine fun s o v r m hr hg ho ht => does_of_clocked (f := (writeRindTicked · _ v)) rfl hr ?_
    rw [writeRindTicked_lower s.dev o v ho hg ht]
    exact wrPend_pendingTo s.dev r (v &&& m)

end

section

namespace Sys2Proof.Machine

open Sys2Proof

/-! What windows do at the period start of a triad (R186). -/

/-- From `d` to `e` no register of a triad but the statuses of legs has changed, and beside registers nothing but which local
causes of trips stand. -/
structure WindowStep (d e : Dev) : Prop where
  regs : ∀ r : Reg, 0x40120000 ≤ r.addr → ¬ LegStatus r → rd e r = rd d r
  frame : e = { d with regs := e.regs, tripLoc := e.tripLoc }

namespace WindowStep

variable {d e f : Dev}

theorem refl (d : Dev) : WindowStep d d := ⟨fun _ _ _ => rfl, rfl⟩

theorem trans (h : WindowStep d e) (g : WindowStep e f) : WindowStep d f where
  regs r hr hs := (g.regs r hr hs).trans (h.regs r hr hs)
  frame := by rw [g.frame, h.frame]

theorem of_only {l : List Reg} (h : Only d e l) (hl : ∀ q ∈ l, q.addr < 0x40120000) : WindowStep d e where
  regs r hr _ := h.regsStay r fun hin => by
    obtain ⟨q, hq, haddr⟩ := List.mem_map.1 hin
    exact absurd (hl q hq) (by omega)
  frame := by rw [h.1]

theorem of_tripStep (h : TripStep d e) : WindowStep d e := ⟨fun r _ hs => h.regs r hs, h.frame⟩

end WindowStep

theorem windowStep_winClear (d : Dev) {w : Nat} (hw : w < 48) (v : Word) : WindowStep d (winClear d w v) :=
  .of_only (only_winClear d w v) fun q hq => by
    rw [List.mem_singleton.1 hq]
    simp only [RIND.WSTAT]
    omega

theorem windowStep_winPeriod (d : Dev) (t : Nat) : WindowStep d (winPeriod d t) := by
  unfold winPeriod
  dsimp only
  split
  · exact .refl d
  · refine .trans (.trans ?_ (.of_only (only_winfRefresh _) (by simp [RIND.RSTAT, ipend, ICU.IPEND])))
      (.of_tripStep (tripStep_tripRefresh _))
    refine List.foldlRecOn (motive := fun e => WindowStep d e) _ _ (.refl d) fun e he w hw => he.trans ?_
    exact windowStep_winClear e (List.mem_range.1 (List.mem_filter.1 hw).1) 0xC

/-! A counter that keeps its count (R152, R153). -/

/-- From `d` to `e` at one instant the counter of triad `t` keeps its count, slope and base, its status every bit but the
flags of safe states, and memory stays. -/
structure CounterStays (t : Nat) (d e : Dev) : Prop where
  now : e.now = d.now
  run : (triGet e t).run = (triGet d t).run
  t0 : (triGet e t).t0 = (triGet d t).t0
  c0 : (triGet e t).c0 = (triGet d t).c0
  fall : (triGet e t).fall = (triGet d t).fall
  others : Others d.tri e.tri t
  stat : ∀ b, b ≠ 2 → b ≠ 3 → b < 32 → bitOf e (TRIAD.TSTAT t) b = bitOf d (TRIAD.TSTAT t) b
  mem : MemStays d e

theorem others_of_eq {α : Type} {a b : Tab α} (h : b = a) (k : Nat) : Others a b k := fun _ _ _ => by rw [h]

theorem not_legStatus_TSTAT (t : Nat) : ¬ LegStatus (TRIAD.TSTAT t) := fun hs => by
  simp only [LegStatus, TRIAD.TSTAT] at hs
  omega

namespace CounterStays

variable {t : Nat} {d e f : Dev}

theorem refl (t : Nat) (d : Dev) : CounterStays t d d :=
  ⟨rfl, rfl, rfl, rfl, rfl, fun _ _ _ => rfl, fun _ _ _ _ => rfl, fun _ => ⟨rfl, rfl⟩⟩

theorem trans (h : CounterStays t d e) (g : CounterStays t e f) : CounterStays t d f where
  now := g.now.trans h.now
  run := g.run.trans h.run
  t0 := g.t0.trans h.t0
  c0 := g.c0.trans h.c0
  fall := g.fall.trans h.fall
  others := h.others.trans g.others
  stat b h2 h3 hb := (g.stat b h2 h3 hb).trans (h.stat b h2 h3 hb)
  mem := h.mem.trans g.mem

/-- Where neither the triad nor time changes. -/
theorem of_same (htri : e.tri = d.tri) (hnow : e.now = d.now) (hmem : MemStays d e)
    (hstat : ∀ b, b ≠ 2 → b ≠ 3 → b < 32 → bitOf e (TRIAD.TSTAT t) b = bitOf d (TRIAD.TSTAT t) b) :
    CounterStays t d e := by
  have hget : triGet e t = triGet d t := by rw [triGet, htri, triGet]
  exact ⟨hnow, by rw [hget], by rw [hget], by rw [hget], by rw [hget], others_of_eq htri t, hstat, hmem⟩

theorem of_legStep {js : List Nat} (h : LegStep t js d e) : CounterStays t d e :=
  of_same (by rw [h.frame]) (by rw [h.frame]) h.memStays h.stat

theorem of_windowStep (h : WindowStep d e) : CounterStays t d e :=
  of_same (by rw [h.frame]) (by rw [h.frame]) (.of_same (by rw [h.frame]) (by rw [h.frame])) fun b _ _ _ => by
    rw [bitOf, h.regs _ (by simp only [TRIAD.TSTAT]; omega) (not_legStatus_TSTAT t), bitOf]

theorem legPut (d : Dev) (t j : Nat) (x : LegSt) : CounterStays t d (legPut d t j x) :=
  of_same rfl rfl (.of_same rfl rfl) fun _ _ _ _ => rfl

/-- Settings of the triad that are no part of its count. -/
theorem triPut {x : TriSt} (hrun : x.run = (triGet d t).run) (ht0 : x.t0 = (triGet d t).t0) (hc0 : x.c0 = (triGet d t).c0)
    (hfall : x.fall = (triGet d t).fall) : CounterStays t d (triPut d t x) := by
  have hget : triGet (Machine.triPut d t x) t = x := triGet_triPut_same d t x
  exact ⟨rfl, by rw [hget, hrun], by rw [hget, ht0], by rw [hget, hc0], by rw [hget, hfall], others_triPut d t x,
    fun _ _ _ _ => rfl, .of_same rfl rfl⟩

theorem forEach {α : Type} (l : List α) (f : Dev → α → Dev) (h : ∀ e, ∀ a ∈ l, CounterStays t e (f e a)) (d : Dev) :
    CounterStays t d (forEach l f d) :=
  List.foldlRecOn (motive := fun e => CounterStays t d e) l f (refl t d) fun e he a ha => he.trans (h e a ha)

/-- A counter whose base is now shows the count of its base. -/
theorem triCount (h : CounterStays t d e) (hrun : (triGet d t).run = true) (hbase : (triGet d t).t0 = d.now) :
    triCount e t = (triGet d t).c0 := by
  have hticks : triTicks e t = 0 := by rw [triTicks, h.now, h.t0, hbase, Nat.sub_self, Nat.zero_div]
  rw [Machine.triCount, h.run, hrun, if_pos rfl, hticks, triAt, h.c0]
  split <;> rfl

end CounterStays

theorem counterStays_triUpdate (d : Dev) (t : Nat) (lock : Bool) : CounterStays t d (triUpdate d t lock) := by
  rw [triUpdate_eq]
  refine .trans ?_ (.forEach _ _ (fun e j _ => .legPut e t j _) _)
  exact .triPut rfl rfl rfl rfl

/-- An update point that takes place. -/
def updatedWhere (c : Bool) (d : Dev) (t : Nat) : Dev := if c then triUpdate d t (triLocked d t) else d

/-- REF of every leg takes the level of a count. -/
def legsLevelled (d : Dev) (t c : Nat) : Dev := forEach legs (legLevel c (32 * d.now) t) d

theorem counterStays_updatedWhere (c : Bool) (d : Dev) (t : Nat) : CounterStays t d (updatedWhere c d t) := by
  unfold updatedWhere
  split
  · exact counterStays_triUpdate d t _
  · exact .refl t d

theorem counterStays_legsLevelled (d : Dev) (t c : Nat) : CounterStays t d (legsLevelled d t c) :=
  .of_legStep (legStep_legsLevel d t c _)

theorem legStep_legRelease {t : Nat} (ht : t < 16) (d : Dev) (j : Nat) : LegStep t [j] d (legRelease t d j) := by
  unfold legRelease
  split
  · refine .trans ?_ (.triFlag ht [j] _ (.inl rfl))
    refine .trans ?_ (.of_driven (driven_legFollow _ t j _))
    refine .trans (.trans (.setBit t j d 2 false) (.setBit t j _ 3 false)) ?_
    exact .legPut rfl
  · exact .refl t [j] d

theorem legStep_legsRelease {t : Nat} (ht : t < 16) (d : Dev) : LegStep t legs d (forEach legs (legRelease t) d) :=
  .forEach legs _ (fun e j hj => (legStep_legRelease ht e j).mono (by simpa using hj)) d

/-- An unlocked update point gives each leg the duty of its shadow (R162). -/
theorem op_triUpdate (d : Dev) (t : Nat) {j : Nat} (hj : j ∈ legs) :
    (legGet (triUpdate d t false) t j).op = (rd d (TRIAD.LDUTY t j)).toNat := by
  rw [triUpdate_eq]
  refine (forEach_all legs (legUpdated t false) (I := fun e => e.regs = d.regs)
    (P := fun j e => (legGet e t j).op = (rd d (TRIAD.LDUTY t j)).toNat) rfl (fun e he j _ => he) (fun e he j _ => ?_)
    (fun e he j _ i _ hop => ?_)).2 j hj
  · rw [legUpdated, legGet_legPut_same, rd, rd, he]
    rfl
  · by_cases hij : i = j
    · subst hij
      rw [legUpdated, legGet_legPut_same, rd, rd, he]
      rfl
    · rw [legGet, legUpdated, legPut, look_store_other _ _ _ _ _ _ (by omega)]
      exact hop

/-! The period start (R153, R162, R178). -/

/-- The state of a triad has not changed where the bits that show it have not. -/
theorem triState_congr {d e : Dev} {t : Nat}
    (h : ∀ b, 30 ≤ b → b < 32 → bitOf e (TRIAD.TSTAT t) b = bitOf d (TRIAD.TSTAT t) b) : triState e t = triState d t := by
  refine Nat.eq_of_testBit_eq fun i => ?_
  rw [triState, gf, testBit_fget, triState, gf, testBit_fget]
  by_cases hi : i < 2
  · exact congrArg _ (h (30 + i) (by omega) (by omega))
  · have hno : ¬ i < TRIAD.TSTAT_STATE.hi + 1 - TRIAD.TSTAT_STATE.lo := hi
    rw [decide_eq_false hno, Bool.false_and, Bool.false_and]

theorem triState_triSetState (d : Dev) (t : Nat) {st : Nat} (h : st < 4) : triState (triSetState d t st) t = st := by
  rw [triState, triSetState, gf_sf_same _ _ _ _ (by decide)]
  exact Nat.mod_eq_of_lt h

/-- A register of a triad that is neither its status nor that of a leg. -/
def TriadSetting (t : Nat) (r : Reg) : Prop := 0x40120000 ≤ r.addr ∧ r.addr ≠ (TRIAD.TSTAT t).addr ∧ ¬ LegStatus r

theorem triadSetting_LDUTY (t : Nat) {j : Nat} (hj : j < 3) : TriadSetting t (TRIAD.LDUTY t j) := by
  simp only [TriadSetting, LegStatus, TRIAD.LDUTY, TRIAD.TSTAT]
  omega

theorem triadSetting_TLOCK (t : Nat) : TriadSetting t (TRIAD.TLOCK t) := by
  simp only [TriadSetting, LegStatus, TRIAD.TLOCK, TRIAD.TSTAT]
  omega

/-- An event of the counter shown in the triad's status: the slope from there on, and the flag of the event. -/
def slopeShown (d : Dev) (t : Nat) (down : Bool) (b : Nat) : Dev := triFlag (setBit d (TRIAD.TSTAT t) 29 down) t b

theorem only_slopeShown (d : Dev) (t : Nat) (down : Bool) (b : Nat) :
    Only d (slopeShown d t down b) [TRIAD.TSTAT t, ipend (96 + t)] :=
  ((only_setBit d (TRIAD.TSTAT t) 29 down).trans (only_triFlag _ t b)).mono (by simp)

theorem tri_slopeShown (d : Dev) (t : Nat) (down : Bool) (b : Nat) : (slopeShown d t down b).tri = d.tri := by
  rw [(only_slopeShown d t down b).1]

theorem triGet_slopeShown (d : Dev) (t : Nat) (down : Bool) (b : Nat) : triGet (slopeShown d t down b) t = triGet d t := by
  rw [triGet, tri_slopeShown, triGet]

theorem now_slopeShown (d : Dev) (t : Nat) (down : Bool) (b : Nat) : (slopeShown d t down b).now = d.now := by
  rw [(only_slopeShown d t down b).1]

section Shown

variable (d : Dev) {t : Nat} (ht : t < 16) (down : Bool) (b : Nat)

include ht

theorem flag_slopeShown (hb : b < 32) : bitOf (slopeShown d t down b) (TRIAD.TSTAT t) b = true := by
  rw [slopeShown, bitOf_triFlag _ ht b hb, decide_eq_true rfl, Bool.or_true]

theorem slope_slopeShown (hb : b ≠ 29) : bitOf (slopeShown d t down b) (TRIAD.TSTAT t) 29 = down := by
  rw [slopeShown, bitOf_triFlag _ ht b (by decide), decide_eq_false hb, Bool.or_false, bitOf_setBit_same _ _ _ _ (by decide)]

theorem state_slopeShown (hb : b < 30) : triState (slopeShown d t down b) t = triState d t :=
  triState_congr fun c hlo hhi => by
    have hbc : b ≠ c := by omega
    rw [slopeShown, bitOf_triFlag _ ht b hhi, decide_eq_false hbc, Bool.or_false]
    exact bitOf_setBit_bit d _ 29 c down (by omega) hhi

end Shown

theorem CounterStays.state {t : Nat} {d e : Dev} (h : CounterStays t d e) : triState e t = triState d t :=
  triState_congr fun b hlo hhi => h.stat b (by omega) (by omega) hhi

/-- The counter at its base, 0, now (R153, R165, R168). -/
def periodBegun (d : Dev) (t : Nat) : Dev :=
  triPut d t { triGet d t with
    t0 := d.now, c0 := 0, fall := false, top := gf d (TRIAD.TPER t) TRIAD.TPER_TOP, hold := false, above := none }

theorem others_periodBegun (d : Dev) (t : Nat) : Others d.tri (periodBegun d t).tri t := others_triPut d t _

/-- The period start shown, and the windows' latches cleared that it clears. -/
def periodShown (d : Dev) (t : Nat) : Dev := winPeriod (slopeShown (periodBegun d t) t false 0) t

/-- A period start is an update point in the modes that say so, and where a copy waits for it. -/
def updatesAtStart (x : TriSt) : Bool := fget TRIAD.TCFG_UPD x.cfg = 0 || fget TRIAD.TCFG_UPD x.cfg = 2 || x.imm

theorem triPeriodStart_eq (d : Dev) (t : Nat) : triPeriodStart d t = forEach legs (legRelease t)
    (legsLevelled (updatedWhere (updatesAtStart (triGet d t)) (periodShown d t) t) t 0) := rfl

/-- After its base is set, nothing that a period start does moves the counter. -/
theorem counterStays_triPeriodStart (d : Dev) {t : Nat} (ht : t < 16) :
    CounterStays t (slopeShown (periodBegun d t) t false 0) (triPeriodStart d t) := by
  rw [triPeriodStart_eq]
  refine .trans ?_ (.of_legStep (legStep_legsRelease ht _))
  refine .trans ?_ (counterStays_legsLevelled _ t 0)
  exact .trans (.of_windowStep (windowStep_winPeriod _ t)) (counterStays_updatedWhere _ _ t)

/-- What a period start leaves of triad `t`. -/
structure PeriodStarted (t : Nat) (d e : Dev) : Prop where
  run : (triGet e t).run = (triGet d t).run
  count : (triGet d t).run = true → triCount e t = 0
  flag : bitOf e (TRIAD.TSTAT t) 0 = true
  slope : bitOf e (TRIAD.TSTAT t) 29 = false
  state : triState e t = triState d t
  now : e.now = d.now
  others : Others d.tri e.tri t
  mem : MemStays d e

theorem triPeriodStart_started (d : Dev) {t : Nat} (ht : t < 16) : PeriodStarted t d (triPeriodStart d t) := by
  have hstay := counterStays_triPeriodStart d ht
  have hshown := only_slopeShown (periodBegun d t) t false 0
  have hget : triGet (slopeShown (periodBegun d t) t false 0) t = { triGet d t with
      t0 := d.now, c0 := 0, fall := false, top := gf d (TRIAD.TPER t) TRIAD.TPER_TOP, hold := false, above := none } :=
    (triGet_slopeShown _ t false 0).trans (triGet_triPut_same d t _)
  have hnow : (slopeShown (periodBegun d t) t false 0).now = d.now := now_slopeShown _ t false 0
  refine ⟨by rw [hstay.run, hget], fun hrun => ?_, ?_, ?_, ?_, by rw [hstay.now, hnow], ?_, ?_⟩
  · rw [hstay.triCount (by rw [hget]; exact hrun) (by rw [hget, hnow]), hget]
  · rw [hstay.stat 0 (by decide) (by decide) (by decide)]
    exact flag_slopeShown _ ht false 0 (by decide)
  · rw [hstay.stat 29 (by decide) (by decide) (by decide)]
    exact slope_slopeShown _ ht false 0 (by decide)
  · rw [hstay.state]
    exact state_slopeShown _ ht false 0 (by decide)
  · exact ((others_periodBegun d t).trans (others_of_eq (tri_slopeShown _ t false 0) t)).trans hstay.others
  · exact (MemStays.of_same (e := periodBegun d t) rfl rfl).trans (hshown.memStays.trans hstay.mem)

theorem rd_periodShown (d : Dev) {t : Nat} (ht : t < 16) {r : Reg} (hr : TriadSetting t r) : rd (periodShown d t) r = rd d r := by
  obtain ⟨hlo, hne, hleg⟩ := hr
  have hp := ne_ipend (src := 96 + t) (by omega) (r := r) (by omega)
  rw [periodShown, (windowStep_winPeriod _ t).regs r hlo hleg,
    (only_slopeShown _ t false 0).regsStay r (by simp [hne, hp])]
  rfl

/-- Where the update point is the period start and the shadows are not locked, it gives each leg the duty of its shadow. -/
theorem op_triPeriodStart (d : Dev) {t : Nat} (ht : t < 16) (hupd : fget TRIAD.TCFG_UPD (triGet d t).cfg = 0)
    (hlock : triLocked d t = false) {j : Nat} (hj : j < 3) :
    (legGet (triPeriodStart d t) t j).op = (rd d (TRIAD.LDUTY t j)).toNat := by
  have hat : updatesAtStart (triGet d t) = true := by simp [updatesAtStart, hupd]
  have hopen : triLocked (periodShown d t) t = false := by
    rw [triLocked, gf, rd_periodShown d ht (triadSetting_TLOCK t)]
    exact hlock
  rw [triPeriodStart_eq, legGet, (legStep_legsRelease ht _).duty, legsLevelled, (legStep_legsLevel _ t 0 _).duty, hat,
    updatedWhere, if_pos rfl, hopen]
  exact (op_triUpdate (periodShown d t) t (mem_legs.2 hj)).trans (by rw [rd_periodShown d ht (triadSetting_LDUTY t hj)])

/-- A running triad at the instant of its period start, which a shortened period shows (R168, R737). -/
def periodDue (d : Dev) (t k : Nat) : Dev :=
  if (triGet d t).above.isSome then triFlag (advanceTo d ((triGet d t).t0 + k * triClk d t)) t 5
  else advanceTo d ((triGet d t).t0 + k * triClk d t)

theorem periodStart_of_going {d : Dev} {t k : Nat} (hrun : (triGet d t).run = true) (hk : triToStart d t = some k)
    (hst : triState d t ≠ 3) : periodStart d t = triPeriodStart (periodDue d t k) t := by
  rw [periodStart, if_pos hrun, hk]
  exact if_neg hst

theorem only_periodDue (d : Dev) (t k : Nat) :
    Only (advanceTo d ((triGet d t).t0 + k * triClk d t)) (periodDue d t k) [TRIAD.TSTAT t, ipend (96 + t)] := by
  unfold periodDue
  split
  · exact only_triFlag _ t 5
  · exact .refl _ _

theorem triGet_periodDue (d : Dev) (t k : Nat) : triGet (periodDue d t k) t = triGet d t := by
  have htri : (periodDue d t k).tri = d.tri := by rw [(only_periodDue d t k).1]; rfl
  rw [triGet, htri, triGet]

theorem rd_periodDue (d : Dev) {t : Nat} (ht : t < 16) (k : Nat) {r : Reg} (hr : TriadSetting t r) :
    rd (periodDue d t k) r = rd d r := by
  obtain ⟨hlo, hne, -⟩ := hr
  have hp := ne_ipend (src := 96 + t) (by omega) (r := r) (by omega)
  exact (only_periodDue d t k).regsStay r (by simp [hne, hp])

/-! The stop point and the end of STOPPING (R174). -/

/-- A leg with both outputs off, waiting for nothing. -/
def legStopped (t : Nat) (d : Dev) (j : Nat) : Dev :=
  legSet (legSet (legPut d t j { legGet d t j with wait := none, low := none }) t j true false) t j false false

/-- A counter that stands, until the triad is OFF. -/
def counterStopped (d : Dev) (t : Nat) : Dev :=
  triPut d t { triGet d t with run := false, c0 := 0, fall := false, above := none, due := d.now + 128 }

theorem triStopPoint_eq (d : Dev) (t : Nat) : triStopPoint d t = counterStopped (forEach legs (legStopped t) d) t := rfl

theorem triGet_counterStopped (d : Dev) (t : Nat) :
    (triGet (counterStopped d t) t).run = false ∧ (triGet (counterStopped d t) t).due = d.now + 128 := by
  rw [counterStopped, triGet_triPut_same]
  exact ⟨rfl, rfl⟩

theorem others_counterStopped (d : Dev) (t : Nat) : Others d.tri (counterStopped d t).tri t := others_triPut d t _

theorem legOn_counterStopped (d : Dev) (t j : Nat) (high : Bool) : legOn (counterStopped d t) t j high = legOn d t j high := by
  have hregs : (counterStopped d t).regs = d.regs := rfl
  rw [legOn, bitOf, rd, hregs, legOn, bitOf, rd]

theorem driven_legStopped (t : Nat) (d : Dev) (j : Nat) : Driven t j d (legStopped t d j) := driven_legOff d t j _ rfl rfl

theorem legOn_legStopped (t : Nat) (d : Dev) (j : Nat) (high : Bool) : legOn (legStopped t d j) t j high = false := by
  cases high
  · exact legOn_legSet_same _ t j false false
  · exact (legOn_legSet_not _ t j false false).trans (legOn_legSet_same _ t j true false)

theorem legsStopped_effect (t : Nat) (d : Dev) :
    Only { d with leg := (forEach legs (legStopped t) d).leg } (forEach legs (legStopped t) d) (legs.map (TRIAD.LSTAT t))
      ∧ ∀ j ∈ legs, ∀ high, legOn (forEach legs (legStopped t) d) t j high = false := by
  refine forEach_all legs (legStopped t) (I := fun e => Only { d with leg := e.leg } e (legs.map (TRIAD.LSTAT t)))
    (P := fun j e => ∀ high, legOn e t j high = false) (.refl d _) (fun e he j hj => ?_)
    (fun e _ j _ high => legOn_legStopped t e j high) (fun e _ j hj i hi hoff high => ?_)
  · have hstep := driven_legStopped t e j
    obtain ⟨hframe, hregs⟩ := he
    have hmem : [TRIAD.LSTAT t j] ⊆ legs.map (TRIAD.LSTAT t) :=
      List.cons_subset.2 ⟨List.mem_map_of_mem hj, List.nil_subset _⟩
    refine ⟨?_, fun r hr => (hstep.regs.mono hmem r hr).trans (hregs r hr)⟩
    rw [hstep.frame, hframe]
  · by_cases hij : i = j
    · subst hij; exact legOn_legStopped t e i high
    · have hne := LSTAT_ne_LSTAT (t := t) (u := t) (mem_legs.1 hj) (mem_legs.1 hi) fun h => hij h.2
      have hrd := (driven_legStopped t e j).regs (TRIAD.LSTAT t i) fun hin => hne (List.mem_singleton.1 hin)
      exact (congrArg (BitVec.getLsbD · _) hrd).trans (hoff high)

theorem periodStart_of_stopping {d : Dev} {t k : Nat} (hrun : (triGet d t).run = true) (hk : triToStart d t = some k)
    (hst : triState d t = 3) : periodStart d t = triStopPoint (advanceTo d ((triGet d t).t0 + k * triClk d t)) t := by
  rw [periodStart, if_pos hrun, hk]
  exact if_pos hst

/-- Triads may change beside what else has changed. -/
theorem Only.with_tri {d e : Dev} {l : List Reg} (h : Only { d with leg := e.leg } e l) (tri : Tab TriSt) :
    Only { d with tri := tri, leg := e.leg } { e with tri := tri } l :=
  ⟨congrArg (fun q : Dev => { q with tri := tri }) h.1, h.2⟩

/-- What a stop point leaves of triad `t`: its outputs off and its counter standing, and of registers only its legs' changed. -/
structure StopPointPassed (t : Nat) (d e : Dev) : Prop where
  run : (triGet e t).run = false
  off : ∀ j ∈ legs, ∀ high, legOn e t j high = false
  due : (triGet e t).due = e.now + 128
  others : Others d.tri e.tri t
  now : e.now = d.now
  only : Only { d with tri := e.tri, leg := e.leg } e (legs.map (TRIAD.LSTAT t))

theorem counterStopped_passed {d p : Dev} {t : Nat} (honly : Only { d with leg := p.leg } p (legs.map (TRIAD.LSTAT t)))
    (hoff : ∀ j ∈ legs, ∀ high, legOn p t j high = false) : StopPointPassed t d (counterStopped p t) := by
  obtain ⟨hrun, hdue⟩ := triGet_counterStopped p t
  have htri : p.tri = d.tri := by rw [honly.1]
  have hnow : p.now = d.now := by rw [honly.1]
  exact ⟨hrun, fun j hj high => (legOn_counterStopped p t j high).trans (hoff j hj high), hdue,
    (others_of_eq htri t).trans (others_counterStopped p t), hnow, honly.with_tri _⟩

theorem triStopPoint_passed (d : Dev) (t : Nat) : StopPointPassed t d (triStopPoint d t) := by
  obtain ⟨honly, hoff⟩ := legsStopped_effect t d
  rw [triStopPoint_eq]
  exact counterStopped_passed honly hoff

theorem others_triStart (d : Dev) (t : Nat) : Others d.tri (triStart d t).tri t := others_triPut d t { due := d.now + 1200 }

theorem only_triStart (d : Dev) (t : Nat) : Only { d with tri := (triStart d t).tri } (triStart d t) [TRIAD.TSTAT t] :=
  only_sf (triPut d t { due := d.now + 1200 }) _ _ 1

/-- A triad that becomes OFF, its claims released but on pins (R174, R655). -/
def triOff (d : Dev) (t : Nat) : Dev := releaseClaims (triSetState (triPut d t {}) t 0) (ownTriad t)

theorem state_triOff (d : Dev) (t : Nat) : triState (triOff d t) t = 0 := triState_triSetState (triPut d t {}) t (by decide)

theorem others_triOff (d : Dev) (t : Nat) : Others d.tri (triOff d t).tri t := others_triPut d t {}

theorem only_triOff (d : Dev) (t : Nat) :
    Only { d with tri := (triOff d t).tri, claims := (triOff d t).claims } (triOff d t) [TRIAD.TSTAT t] :=
  only_sf { triPut d t {} with claims := (triOff d t).claims } _ _ 0

theorem triStopDone_of_wanted {d : Dev} {t : Nat} (hst : triState d t = 3) (hrun : (triGet d t).run = false)
    (hen : gf d (TRIAD.TCTL t) TRIAD.TCTL_EN = 1) : triStopDone d t = triStart (advanceTo d (triGet d t).due) t := by
  rw [triStopDone, if_pos (by simp [hst, hrun])]
  exact if_pos hen

theorem triStopDone_of_unwanted {d : Dev} {t : Nat} (hst : triState d t = 3) (hrun : (triGet d t).run = false)
    (hen : gf d (TRIAD.TCTL t) TRIAD.TCTL_EN ≠ 1) :
    triStopDone d t = triOff (advanceTo d (triGet d t).due) t := by
  rw [triStopDone, if_pos (by simp [hst, hrun])]
  exact if_neg hen

/-- Where claims have been released, an owner has none left but on pins. -/
theorem pin_of_releaseClaims {d : Dev} {owner : Nat} {c : Claim} (hc : c ∈ (releaseClaims d owner).claims)
    (ho : c.owner = owner) : c.res < 0x1000 := by
  have hkeep := (List.mem_filter.1 hc).2
  simp only [ho, decide_true, Bool.true_and, Bool.not_eq_true', decide_eq_false_iff_not, Nat.not_le] at hkeep
  exact hkeep

/-! The centre (R153, R162). -/

/-- The counter at its top, from where it falls. -/
def centreReached (d : Dev) (t k : Nat) : Dev :=
  triPut (advanceTo d ((triGet d t).t0 + k * triClk d t)) t
    { triGet d t with t0 := (triGet d t).t0 + k * triClk d t, c0 := (triGet d t).top, fall := true }

theorem others_centreReached (d : Dev) (t k : Nat) : Others d.tri (centreReached d t k).tri t :=
  others_triPut (advanceTo d ((triGet d t).t0 + k * triClk d t)) t _

/-- A centre is an update point in the modes that say so, and where a copy waits for it. -/
def updatesAtCentre (x : TriSt) : Bool := fget TRIAD.TCFG_UPD x.cfg = 1 || fget TRIAD.TCFG_UPD x.cfg = 2 || x.imm

theorem centre_of_reached {d : Dev} {t k : Nat} (hrun : (triGet d t).run = true) (hk : triToCentre d t = some k) :
    centre d t = legsLevelled
      (updatedWhere (updatesAtCentre (triGet d t)) (slopeShown (centreReached d t k) t true 1) t) t (triGet d t).top := by
  rw [centre, if_pos hrun, hk]
  rfl

/-! The end of STARTING (R173, R174, R217). -/

/-- The instant at which a STARTING triad becomes RUNNING. -/
def triRunsAt (d : Dev) (t : Nat) : Nat :=
  edgeAt d (if gf d (TRIAD.TCFG t) TRIAD.TCFG_AALN = 1 then 6 else 2) (max d.now (triGet d t).due)

/-- A RUNNING triad whose counter has not been loaded yet. -/
def triRunning (d : Dev) (t : Nat) : Dev :=
  triPut (triSetState (advanceTo d (triRunsAt d t)) t 2) t
    { triGet d t with run := true, top := gf d (TRIAD.TPER t) TRIAD.TPER_TOP }

/-- The same with its counter at PHASE, on the slope of PDIR. -/
def triLoaded (d : Dev) (t : Nat) : Dev :=
  triLoad (triRunning d t) t (triRunning d t).now (gf d (TRIAD.TPHS t) TRIAD.TPHS_PHASE)
    (gf d (TRIAD.TPHS t) TRIAD.TPHS_PDIR = 1)

/-- A leg in its safe state takes the levels of it. -/
def legHeld (t : Nat) (d : Dev) (j : Nat) : Dev := if legSafe d t j then legSafeLevels d t j else d

/-- The safe request of a loop engine enters the legs of its triad. -/
def triHeard (d : Dev) (t : Nat) : Dev := if triAsked d t then forEach legs (legEnter 5 t) d else d

/-- The first shadows copied and the legs in their safe states where they have to be. -/
def triSettled (d : Dev) (t : Nat) : Dev := triHeard (forEach legs (legHeld t) (triUpdate (triLoaded d t) t false)) t

theorem triStartDone_of_starting {d : Dev} {t : Nat} (h : triState d t = 1) : triStartDone d t =
    if gf d (TRIAD.TPHS t) TRIAD.TPHS_PHASE = 0 && !decide (gf d (TRIAD.TPHS t) TRIAD.TPHS_PDIR = 1) then
      triPeriodStart (triSettled d t) t
    else legsLevelled (triSettled d t) t (gf d (TRIAD.TPHS t) TRIAD.TPHS_PHASE) := by
  rw [triStartDone, if_pos h]
  rfl

theorem legStep_legHeld (t : Nat) (d : Dev) (j : Nat) : LegStep t [j] d (legHeld t d j) :=
  .ite _ (.of_driven (driven_legSafeLevels d t j))

theorem counterStays_triSettled (d : Dev) {t : Nat} (ht : t < 16) : CounterStays t (triLoaded d t) (triSettled d t) := by
  have hheld := LegStep.forEach (t := t) legs (legHeld t)
    (fun e j hj => (legStep_legHeld t e j).mono (by simpa using hj)) (triUpdate (triLoaded d t) t false)
  refine (counterStays_triUpdate _ t false).trans (.trans (.of_legStep hheld) ?_)
  unfold triSettled triHeard
  split
  · exact .of_legStep (legsEnter_effect (by decide) (by decide) ht _).1
  · exact .refl t _

/-- A loaded counter runs from now on, at PHASE. -/
theorem triGet_triLoaded (d : Dev) (t : Nat) :
    (triGet (triLoaded d t) t).run = true ∧ (triGet (triLoaded d t) t).t0 = (triLoaded d t).now
      ∧ (triGet (triLoaded d t) t).c0 = gf d (TRIAD.TPHS t) TRIAD.TPHS_PHASE := by
  have hrun : (triGet (triRunning d t) t).run = true := by rw [triRunning, triGet_triPut_same]
  rw [triLoaded, triLoad, triGet_triPut_same]
  exact ⟨hrun, rfl, rfl⟩

theorem state_triLoaded (d : Dev) (t : Nat) : triState (triLoaded d t) t = 2 := by
  have hload : triState (triLoaded d t) t = triState (triRunning d t) t :=
    triState_congr fun b hlo hhi => bitOf_setBit_bit (triRunning d t) _ 29 b _ (by omega) hhi
  exact hload.trans (triState_triSetState _ t (by decide))

theorem others_triLoaded (d : Dev) (t : Nat) : Others d.tri (triLoaded d t).tri t :=
  (others_triPut (triSetState (advanceTo d (triRunsAt d t)) t 2) t _).trans (others_triPut _ t _)

theorem due_le_triLoaded_now (d : Dev) (t : Nat) : (triGet d t).due ≤ (triLoaded d t).now := by
  have hnow : (triLoaded d t).now = max d.now (triRunsAt d t) := advanceTo_now d (triRunsAt d t)
  have hedge : max d.now (triGet d t).due ≤ triRunsAt d t := le_edgeAt d _ _
  omega

end Sys2Proof.Machine

end

section

open Sys2Proof Sys2Proof.Machine

/-- Settles O22: at each event the counter's base is set to now, and what the event then does to windows and legs leaves it. -/
theorem triadCountsAndUpdates : Obligations.TriadCountsAndUpdates := by
  unfold Obligations.TriadCountsAndUpdates
  refine ⟨?start, ?stop, ?centre, ?running, ?stopped⟩
  case start =>
    refine fun s t k hr hrun hk hst => does_of_clocked (f := (periodStart · t)) rfl hr ?_
    have hstart := triPeriodStart_started (periodDue s.dev t k) t.isLt
    have hget := triGet_periodDue s.dev t k
    rw [periodStart_of_going hrun hk hst]
    refine ⟨hstart.count (by rw [hget]; exact hrun), by rw [hstart.run, hget]; exact hrun, hstart.flag, hstart.slope,
      fun hupd hlock j => ?_, (MemStays.trans (.of_same rfl rfl) (only_periodDue s.dev t k).memStays).trans hstart.mem⟩
    have hopen : triLocked (periodDue s.dev t k) t = false := by
      rw [triLocked, gf, rd_periodDue s.dev t.isLt k (triadSetting_TLOCK t)]
      exact hlock
    rw [op_triPeriodStart _ t.isLt (by rw [hget]; exact hupd) hopen j.isLt,
      rd_periodDue s.dev t.isLt k (triadSetting_LDUTY t j.isLt)]
  case stop =>
    refine fun s t k hr hrun hk hst => does_of_clocked (f := (periodStart · t)) rfl hr ?_
    have hpassed := triStopPoint_passed (advanceTo s.dev ((triGet s.dev t).t0 + k * triClk s.dev t)) t
    rw [periodStart_of_stopping hrun hk hst]
    refine ⟨hpassed.run, fun j => ⟨hpassed.off j (mem_legs.2 j.isLt) true, hpassed.off j (mem_legs.2 j.isLt) false⟩,
      hpassed.due, hpassed.others, ?_⟩
    rw [hpassed.now, advanceTo_now_self]
    exact hpassed.only
  case centre =>
    refine fun s t k hr hrun hk hle => does_of_clocked (f := (centre · t)) rfl hr ?_
    have hstay := (counterStays_updatedWhere (updatesAtCentre (triGet s.dev t))
      (slopeShown (centreReached s.dev t k) t true 1) t).trans (counterStays_legsLevelled _ t (triGet s.dev t).top)
    have hget := (triGet_slopeShown (centreReached s.dev t k) t true 1).trans (triGet_triPut_same _ t _)
    have hnow : (slopeShown (centreReached s.dev t k) t true 1).now = (triGet s.dev t).t0 + k * triClk s.dev t :=
      (now_slopeShown _ t true 1).trans ((advanceTo_now _ _).trans (Nat.max_eq_right hle))
    have hshown := only_slopeShown (centreReached s.dev t k) t true 1
    rw [centre_of_reached hrun hk]
    refine ⟨?_, ?_, ?_, ?_, ?_⟩
    · rw [hstay.triCount (by rw [hget]; exact hrun) (by rw [hget, hnow]), hget]
    · rw [hstay.stat 1 (by decide) (by decide) (by decide)]
      exact flag_slopeShown _ t.isLt true 1 (by decide)
    · rw [hstay.stat 29 (by decide) (by decide) (by decide)]
      exact slope_slopeShown _ t.isLt true 1 (by decide)
    · exact ((others_centreReached s.dev t k).trans (others_of_eq (tri_slopeShown _ t true 1) t)).trans hstay.others
    · exact (MemStays.of_same (e := centreReached s.dev t k) rfl rfl).trans (hshown.memStays.trans hstay.mem)
  case running =>
    refine fun s t hr hst => does_of_clocked (f := (triStartDone · t)) rfl hr ?_
    obtain ⟨hrun, hbase, hcount⟩ := triGet_triLoaded s.dev t
    have hsettled := counterStays_triSettled s.dev t.isLt
    have hmem : MemStays s.dev (triSettled s.dev t) := (MemStays.of_same rfl rfl).trans hsettled.mem
    rw [triStartDone_of_starting hst]
    split
    next hzero =>
      simp only [Bool.and_eq_true, decide_eq_true_eq] at hzero
      have hstart := triPeriodStart_started (triSettled s.dev t) t.isLt
      refine ⟨?_, ?_, ?_, ?_, ?_, hmem.trans hstart.mem⟩
      · rw [hstart.state, hsettled.state, state_triLoaded]
      · rw [hstart.run, hsettled.run, hrun]
      · rw [hstart.count (hsettled.run.trans hrun), hzero.1]
      · rw [hstart.now, hsettled.now]; exact due_le_triLoaded_now s.dev t
      · exact ((others_triLoaded s.dev t).trans hsettled.others).trans hstart.others
    next =>
      have hstay := hsettled.trans (counterStays_legsLevelled (triSettled s.dev t) t (gf s.dev (TRIAD.TPHS t) TRIAD.TPHS_PHASE))
      refine ⟨?_, ?_, ?_, ?_, ?_, (MemStays.of_same rfl rfl).trans hstay.mem⟩
      · rw [hstay.state, state_triLoaded]
      · rw [hstay.run, hrun]
      · rw [hstay.triCount hrun hbase, hcount]
      · rw [hstay.now]; exact due_le_triLoaded_now s.dev t
      · exact (others_triLoaded s.dev t).trans hstay.others
  case stopped =>
    refine fun s t hr hst hrun => does_of_clocked (f := (triStopDone · t)) rfl hr ?_
    by_cases hen : gf s.dev (TRIAD.TCTL t) TRIAD.TCTL_EN = 1
    · rw [triStopDone_of_wanted hst hrun hen]
      exact ⟨fun _ => ⟨triState_triSetState _ t (by decide), rfl⟩, fun hno => absurd hen hno,
        others_triStart (advanceTo s.dev _) t, only_triStart _ t⟩
    · rw [triStopDone_of_unwanted hst hrun hen]
      exact ⟨fun hyes => absurd hyes hen, fun _ => ⟨state_triOff _ t, fun _ hc ho => pin_of_releaseClaims hc ho⟩,
        others_triOff (advanceTo s.dev _) t, only_triOff _ t⟩

end

section

namespace Sys2Proof.Machine

open Sys2Proof

/-! Loop engines beside their registers. -/

@[simp] theorem leGet_lePut_same (d : Dev) (n : Nat) (x : LeSt) : leGet (lePut d n x) n = x :=
  look_store_same d.le n x {}

theorem others_lePut (d : Dev) (n : Nat) (x : LeSt) : Others d.le (lePut d n x).le n :=
  fun j y hj => look_store_other d.le n j x {} y hj

/-- The state of the engines may change beside what else has changed. -/
theorem Only.with_le {d e : Dev} {l : List Reg} (h : Only d e l) (le : Tab LeSt) :
    Only { d with le := le } { e with le := le } l :=
  ⟨congrArg (fun q : Dev => { q with le := le }) h.1, h.2⟩

theorem Only.le {d e : Dev} {l : List Reg} (h : Only d e l) : e.le = d.le := by rw [h.1]

/-- An engine's own state changes between two changes of registers. -/
theorem Only.lePut_trans {d e f : Dev} {l m : List Reg} {n : Nat} (h : Only d e l) (x : LeSt) (g : Only (lePut e n x) f m) :
    Only { d with le := f.le } f (l ++ m) := by
  rw [g.le]
  exact (h.with_le _).trans g

theorem Only.now {d e : Dev} {l : List Reg} (h : Only d e l) : e.now = d.now := by rw [h.1]

theorem Only.leGet {d e : Dev} {l : List Reg} (h : Only d e l) (n : Nat) : leGet e n = leGet d n := by
  rw [Machine.leGet, h.le, Machine.leGet]

/-- The FABRIC cycle lasts as its divisor says. -/
theorem fabDiv_congr {d e : Dev} (h : rd e SYSCFG.SCLK = rd d SYSCFG.SCLK) : fabDiv e = fabDiv d := by
  rw [fabDiv, gf, h, fabDiv, gf]

/-! Flags of a loop engine, and the counters beside them (R18, R202). -/

/-- No register of the loop engines is one of the pending bits. -/
theorem engine_ne_ipend {src : Nat} (h : src < 1024) {r : Reg} (hr : 0x40140000 ≤ r.addr) : r.addr ≠ (ipend src).addr :=
  ne_ipend h (by omega)

theorem LSTAT_ge (n : Nat) : 0x40140000 ≤ (LE.LSTAT n).addr := by simp only [LE.LSTAT]; omega

theorem srcReserved_engine {src : Nat} (hlo : 112 ≤ src) (hhi : src < 144) : srcReserved src = false := by
  simp only [srcReserved, Bool.or_eq_false_iff, Bool.and_eq_false_iff, decide_eq_false_iff_not]
  omega

theorem leFlag_flagUp (d : Dev) {n : Nat} (hn : n < 16) (b : Nat) :
    FlagUp d (leFlag d n b) (LE.LSTAT n) b (gf d (LE.LSEL n) LE.LSEL_IE) (112 + n) :=
  setFlag_flagUp d (LE.LSTAT n) b _ (112 + n) (srcReserved_engine (by omega) (by omega))
    (engine_ne_ipend (by omega) (LSTAT_ge n)).symm

theorem only_leFlag (d : Dev) (n b : Nat) : Only d (leFlag d n b) [LE.LSTAT n, ipend (112 + n)] :=
  only_setFlag d (LE.LSTAT n) b _ (112 + n)

/-- An event of an engine that is flagged and counted. -/
theorem bump_leFlag_effect (d : Dev) {n : Nat} (hn : n < 16) (b : Nat) {r : Reg} {f : Fld} (hr : 0x40140000 ≤ r.addr)
    (hs : r.addr ≠ (LE.LSTAT n).addr) (hf : f.hi < 32) :
    FlagUp d (bump (leFlag d n b) r f) (LE.LSTAT n) b (gf d (LE.LSEL n) LE.LSEL_IE) (112 + n)
      ∧ gf (bump (leFlag d n b) r f) r f = min (gf d r f + 1) (ftop f)
      ∧ Only d (bump (leFlag d n b) r f) [r, LE.LSTAT n, ipend (112 + n)] := by
  have hp := engine_ne_ipend (src := 112 + n) (by omega) hr
  have honly := only_leFlag d n b
  have hcount := only_bump (leFlag d n b) r f 1
  have hsame : rd (leFlag d n b) r = rd d r := honly.regsStay r (by simp [hs, hp])
  refine ⟨(leFlag_flagUp d hn b).congr rfl rfl (hcount.rd_other _ hs.symm) (hcount.rd_other _ hp.symm), ?_,
    (honly.trans hcount).mono (by simp)⟩
  rw [gf_bump_same _ _ _ _ hf, gf, hsame, gf]

/-! The release of a hook (R226 to R228). -/

/-- The words that show an open hook, after it is closed. -/
def hookClosed (d : Dev) (n : Nat) : Dev := setBit (setBit d (LE.LHSEQ n) 16 false) (LE.LSTAT n) 25 false

theorem only_hookClosed (d : Dev) (n : Nat) : Only d (hookClosed d n) [LE.LHSEQ n, LE.LSTAT n] :=
  (only_setBit d (LE.LHSEQ n) 16 false).trans (only_setBit _ (LE.LSTAT n) 25 false)

theorem LHSEQ_ne_LSTAT (n : Nat) : (LE.LHSEQ n).addr ≠ (LE.LSTAT n).addr := by simp [LE.LHSEQ, LE.LSTAT]

theorem bitOf_hookClosed (d : Dev) (n : Nat) :
    bitOf (hookClosed d n) (LE.LHSEQ n) 16 = false ∧ bitOf (hookClosed d n) (LE.LSTAT n) 25 = false
      ∧ ∀ b, b ≠ 25 → b < 32 → bitOf (hookClosed d n) (LE.LSTAT n) b = bitOf d (LE.LSTAT n) b := by
  refine ⟨?_, bitOf_setBit_same _ _ _ _ (by decide), fun b hne hb => ?_⟩
  · rw [hookClosed, bitOf_setBit_other _ _ _ _ _ _ (LHSEQ_ne_LSTAT n)]
    exact bitOf_setBit_same _ _ _ _ (by decide)
  · rw [hookClosed, bitOf_setBit_bit _ _ _ _ _ hne hb]
    exact bitOf_setBit_other _ _ _ _ _ _ (LHSEQ_ne_LSTAT n).symm

/-- A release closes the hook and lets its set go on, with or without override. -/
theorem leRelease_eq (d : Dev) (n : Nat) (x : LeSet) (t : Nat) (duties : Option (Word × Word)) :
    ∃ due, leRelease d n x t duties = lePut (hookClosed d n) n
      { leGet d n with comp := some { x with stage := 2, due := due, duties := duties } } := ⟨_, rfl⟩

/-- What a release leaves of engine `n`. -/
structure HookReleased (n : Nat) (duties : Option (Word × Word)) (d e : Dev) : Prop where
  set : (leGet e n).comp.map (fun y => (y.stage, y.duties)) = some (2, duties)
  bad : (leGet e n).bad = (leGet d n).bad
  seq : bitOf e (LE.LHSEQ n) 16 = false
  shown : bitOf e (LE.LSTAT n) 25 = false
  stat : ∀ b, b ≠ 25 → b < 32 → bitOf e (LE.LSTAT n) b = bitOf d (LE.LSTAT n) b
  others : Others d.le e.le n
  only : Only { d with le := e.le } e [LE.LHSEQ n, LE.LSTAT n]

theorem leRelease_released (d : Dev) (n : Nat) (x : LeSet) (t : Nat) (duties : Option (Word × Word)) :
    HookReleased n duties d (leRelease d n x t duties) := by
  obtain ⟨due, heq⟩ := leRelease_eq d n x t duties
  obtain ⟨hseq, hshown, hstat⟩ := bitOf_hookClosed d n
  rw [heq]
  exact ⟨by rw [leGet_lePut_same]; rfl, by rw [leGet_lePut_same], hseq, hshown, hstat, others_lePut (hookClosed d n) n _,
    (only_hookClosed d n).with_le _⟩

/-- The command word of engine `n` after a write. -/
def goWritten (d : Dev) (n : Nat) (v : Word) : Dev := wr d (LE.LHCMD n) (v &&& 0xFFFF0002)

theorem only_goWritten (d : Dev) (n : Nat) (v : Word) : Only d (goWritten d n v) [LE.LHCMD n] := only_wr d _ _

theorem writeLhcmd_of_none {d : Dev} {n : Nat} {v : Word} (hg : gateOpen d 13 = true) (hc : (leGet d n).comp = none)
    (hv : v.getLsbD 0 = true) : writeLhcmd d n v = leHklate (goWritten d n v) n := by
  have hcomp : (leGet (goWritten d n v) n).comp = none := hc
  rw [writeLhcmd, if_pos hg]
  dsimp only
  rw [if_pos hv, ← goWritten, hcomp]

/-- A GO with the open hook's number before its deadline (R226). -/
theorem writeLhcmd_of_open {d : Dev} {n : Nat} {x : LeSet} {v : Word} (hg : gateOpen d 13 = true)
    (hc : (leGet d n).comp = some x) (hx : x.stage = 1) (ht : d.now ≤ leDeadline d n x) (hv : v.getLsbD 0 = true)
    (hseq : fget LE.LHCMD_SEQ v = gf d (LE.LHSEQ n) LE.LHSEQ_SEQ) :
    writeLhcmd d n v = leRelease (goWritten d n v) n x d.now
      (if v.getLsbD 1 then some (rd d (LE.LHOD n), rd d (LE.LHOQ n)) else none) := by
  have hother := (only_goWritten d n v).rd_other
  have hcomp : (leGet (goWritten d n v) n).comp = some x := hc
  have hnow : (goWritten d n v).now = d.now := rfl
  have hfab : fabDiv (goWritten d n v) = fabDiv d := fabDiv_congr (hother _ (by simp only [SYSCFG.SCLK, LE.LHCMD]; omega))
  have hdead : leDeadline (goWritten d n v) n x = leDeadline d n x := by rw [leDeadline, hfab, leDeadline]
  have hnum : gf (goWritten d n v) (LE.LHSEQ n) LE.LHSEQ_SEQ = gf d (LE.LHSEQ n) LE.LHSEQ_SEQ :=
    gf_wr_other _ _ _ _ _ (by simp [LE.LHSEQ, LE.LHCMD])
  rw [writeLhcmd, if_pos hg]
  dsimp only
  rw [if_pos hv, ← goWritten, hcomp]
  dsimp only
  rw [if_neg (not_not_intro hx), hdead, hnow, if_neg (Nat.not_lt.2 ht), hnum, if_pos hseq,
    hother _ (by simp [LE.LHOD, LE.LHCMD]), hother _ (by simp [LE.LHOQ, LE.LHCMD])]

/-- The deadline of an open hook has passed: the miss is counted and flagged, and the engine has missed its work (R227). -/
def hookMissed (d : Dev) (n : Nat) (x : LeSet) : Dev :=
  bump (leFlag (advanceTo d (leDeadline d n x)) n 7) (LE.LERRB n) LE.LERRB_HKMISS

theorem leHkmiss_of_open {d : Dev} {n : Nat} {x : LeSet} (hc : (leGet d n).comp = some x) (hx : x.stage = 1) :
    leHkmiss d n = leRelease (lePut (hookMissed d n x) n { leGet (hookMissed d n x) n with bad := true }) n x
      (leDeadline d n x) none := by
  rw [leHkmiss, hc]
  exact if_pos hx

/-- An event of the hook, with its flag and its counter in `LERRB`. -/
theorem LERRB_effect (d : Dev) {n : Nat} (hn : n < 16) (b : Nat) {f : Fld} (hf : f.hi < 32) :
    FlagUp d (bump (leFlag d n b) (LE.LERRB n) f) (LE.LSTAT n) b (gf d (LE.LSEL n) LE.LSEL_IE) (112 + n)
      ∧ gf (bump (leFlag d n b) (LE.LERRB n) f) (LE.LERRB n) f = min (gf d (LE.LERRB n) f + 1) (ftop f)
      ∧ Only d (bump (leFlag d n b) (LE.LERRB n) f) [LE.LERRB n, LE.LSTAT n, ipend (112 + n)] :=
  bump_leFlag_effect d hn b (by simp only [LE.LERRB]; omega) (by simp [LE.LERRB, LE.LSTAT]) hf

theorem leHklate_effect (d : Dev) {n : Nat} (hn : n < 16) :
    FlagUp d (leHklate d n) (LE.LSTAT n) 8 (gf d (LE.LSEL n) LE.LSEL_IE) (112 + n)
      ∧ gf (leHklate d n) (LE.LERRB n) LE.LERRB_HKLATE = min (gf d (LE.LERRB n) LE.LERRB_HKLATE + 1) (ftop LE.LERRB_HKLATE)
      ∧ Only d (leHklate d n) [LE.LERRB n, LE.LSTAT n, ipend (112 + n)] := LERRB_effect d hn 8 (by decide)

/-- A GO that releases nothing, beside its command word (R228). -/
theorem lateGo_effect (d : Dev) {n : Nat} (hn : n < 16) (v : Word) :
    FlagUp d (leHklate (goWritten d n v) n) (LE.LSTAT n) 8 (gf d (LE.LSEL n) LE.LSEL_IE) (112 + n)
      ∧ gf (leHklate (goWritten d n v) n) (LE.LERRB n) LE.LERRB_HKLATE
          = min (gf d (LE.LERRB n) LE.LERRB_HKLATE + 1) (ftop LE.LERRB_HKLATE)
      ∧ Only d (leHklate (goWritten d n v) n) [LE.LHCMD n, LE.LERRB n, LE.LSTAT n, ipend (112 + n)] := by
  obtain ⟨hflag, hcount, honly⟩ := leHklate_effect (goWritten d n v) hn
  have hcmd := only_goWritten d n v
  have hsel : gf (goWritten d n v) (LE.LSEL n) LE.LSEL_IE = gf d (LE.LSEL n) LE.LSEL_IE :=
    gf_wr_other _ _ _ _ _ (by simp [LE.LSEL, LE.LHCMD])
  have herr : gf (goWritten d n v) (LE.LERRB n) LE.LERRB_HKLATE = gf d (LE.LERRB n) LE.LERRB_HKLATE :=
    gf_wr_other _ _ _ _ _ (by simp [LE.LERRB, LE.LHCMD])
  have hpend : (ipend (112 + n)).addr ≠ (LE.LHCMD n).addr :=
    (engine_ne_ipend (by omega) (by simp only [LE.LHCMD]; omega)).symm
  rw [hsel] at hflag
  rw [herr] at hcount
  exact ⟨hflag.congr (hcmd.rd_other _ (by simp [LE.LSTAT, LE.LHCMD])).symm (hcmd.rd_other _ hpend).symm rfl rfl, hcount,
    hcmd.trans honly⟩

theorem hookMissed_effect (d : Dev) {n : Nat} (hn : n < 16) (x : LeSet) :
    FlagUp d (hookMissed d n x) (LE.LSTAT n) 7 (gf d (LE.LSEL n) LE.LSEL_IE) (112 + n)
      ∧ gf (hookMissed d n x) (LE.LERRB n) LE.LERRB_HKMISS
          = min (gf d (LE.LERRB n) LE.LERRB_HKMISS + 1) (ftop LE.LERRB_HKMISS)
      ∧ Only (advanceTo d (leDeadline d n x)) (hookMissed d n x) [LE.LERRB n, LE.LSTAT n, ipend (112 + n)] :=
  LERRB_effect (advanceTo d (leDeadline d n x)) hn 7 (by decide)

/-! The hook point (R225, R742). -/

/-- The value of an angle term may be free, and then one is drawn. -/
theorem angleTerm_frame (d : Dev) (w : Word) (k : Int) :
    (angleTerm d w k).2 = { d with free := (angleTerm d w k).2.free } := by
  unfold angleTerm
  dsimp only
  split <;> rfl

/-- From `d` to `e` the Park stage of set `x` has ended: the engine shows the set's instant and spread; its hook sequence and
the divisor of FABRIC stay, and so does everything but registers and the values drawn. -/
structure ParkShown (n : Nat) (x : LeSet) (d e : Dev) : Prop where
  ts : rd e (LE.LTS n) = x.ts
  skew : rd e (LE.LSKEW n) = BitVec.ofNat 32 x.skew
  seq : rd e (LE.LHSEQ n) = rd d (LE.LHSEQ n)
  clock : rd e SYSCFG.SCLK = rd d SYSCFG.SCLK
  frame : e = { d with regs := e.regs, free := e.free }

/-- The results of the Park stage, as registers show them. -/
def parkResults (d : Dev) (n : Nat) (x : LeSet) (id iq the : Word) : Dev :=
  wr (wr (wr (wr (wr d (LE.LID n) id) (LE.LIQ n) iq) (LE.LTHE n) the) (LE.LTS n) x.ts) (LE.LSKEW n) (BitVec.ofNat 32 x.skew)

theorem only_parkResults (d : Dev) (n : Nat) (x : LeSet) (id iq the : Word) :
    Only d (parkResults d n x id iq the) [LE.LID n, LE.LIQ n, LE.LTHE n, LE.LTS n, LE.LSKEW n] :=
  ((((only_wr d _ id).trans (only_wr _ _ iq)).trans (only_wr _ _ the)).trans (only_wr _ _ x.ts)).trans (only_wr _ _ _)

theorem parkResults_shown (d : Dev) (n : Nat) (x : LeSet) (w : Word) (k : Int) (id iq the : Word) :
    ParkShown n x d (parkResults (angleTerm d w k).2 n x id iq the) := by
  have hdraw := angleTerm_frame d w k
  have hrd : ∀ r : Reg, rd (angleTerm d w k).2 r = rd d r := fun r => by rw [hdraw]; rfl
  have honly := only_parkResults (angleTerm d w k).2 n x id iq the
  refine ⟨?_, rd_wr_same _ _ _, ?_, ?_, ?_⟩
  · rw [parkResults, rd_wr_other _ _ _ _ (by simp [LE.LTS, LE.LSKEW]), rd_wr_same]
  · rw [honly.regsStay _ (by simp [LE.LHSEQ, LE.LID, LE.LIQ, LE.LTHE, LE.LTS, LE.LSKEW]), hrd]
  · rw [honly.regsStay _ (by simp [SYSCFG.SCLK, LE.LID, LE.LIQ, LE.LTHE, LE.LTS, LE.LSKEW]; omega), hrd]
  · rw [honly.1, hdraw]

/-- The hook of set `y` is shown as open, with its currents and its number (R225). -/
def hookShown (d : Dev) (n : Nat) (y : LeSet) : Dev :=
  let d := wr (wr d (LE.LHID n) y.id) (LE.LHIQ n) y.iq
  let d := sf d (LE.LHSEQ n) LE.LHSEQ_SEQ (gf d (LE.LHSEQ n) LE.LHSEQ_SEQ + 1)
  setBit (setBit d (LE.LHSEQ n) 16 true) (LE.LSTAT n) 25 true

/-- The hook opens on the set `y`, and its source rises (R225). -/
def hookOpened (d : Dev) (n : Nat) (y : LeSet) : Dev :=
  raise (lePut (hookShown d n y) n { leGet d n with comp := some { y with stage := 1 } }) (128 + n)

/-- With the hook off the set waits for its shadow write (R229). -/
def hookPassed (d : Dev) (n : Nat) (y : LeSet) : Dev :=
  lePut d n { leGet d n with comp := some { y with stage := 2, due := y.t0 + 64 * fabDiv d } }

/-- The end of the Park stage of a set that drives: it is shown, and the hook opens or is passed. -/
theorem leHookPoint_of_driving {d : Dev} {n : Nat} {x : LeSet} (hc : (leGet d n).comp = some x) (hx : x.stage = 0)
    (hd : fget LE.LCTL_DRIVE (x.reg (LE.LCTL n)) = 1) :
    ∃ p y, ParkShown n x (advanceTo d (x.t0 + 27 * fabDiv d)) p ∧ y.t0 = x.t0
      ∧ leHookPoint d n = if fget LE.LHOOK_HKEN (x.reg (LE.LHOOK n)) = 1 then hookOpened p n y else hookPassed p n y := by
  unfold leHookPoint
  rw [hc]
  dsimp -zeta only
  rw [if_pos hx]
  extract_lets d₁ q d₂ the c s id iq d₃ p y
  rw [if_neg (by rw [hd]; decide)]
  exact ⟨p, y, parkResults_shown d₁ n x _ _ id iq the, rfl, rfl⟩

theorem only_hookShown (d : Dev) (n : Nat) (y : LeSet) :
    Only d (hookShown d n y) [LE.LHID n, LE.LHIQ n, LE.LHSEQ n, LE.LSTAT n] :=
  (((((only_wr d _ y.id).trans (only_wr _ _ y.iq)).trans (only_sf _ _ _ _)).trans (only_setBit _ _ 16 true)).trans
    (only_setBit _ _ 25 true)).mono (by simp)

theorem hookShown_effect (d : Dev) (n : Nat) (y : LeSet) :
    gf (hookShown d n y) (LE.LHSEQ n) LE.LHSEQ_SEQ = (gf d (LE.LHSEQ n) LE.LHSEQ_SEQ + 1) % 2 ^ 16
      ∧ bitOf (hookShown d n y) (LE.LHSEQ n) 16 = true ∧ bitOf (hookShown d n y) (LE.LSTAT n) 25 = true := by
  refine ⟨?_, ?_, bitOf_setBit_same _ _ _ _ (by decide)⟩
  · have hcur : gf (wr (wr d (LE.LHID n) y.id) (LE.LHIQ n) y.iq) (LE.LHSEQ n) LE.LHSEQ_SEQ
        = gf d (LE.LHSEQ n) LE.LHSEQ_SEQ := by
      rw [gf_wr_other _ _ _ _ _ (by simp [LE.LHSEQ, LE.LHIQ]), gf_wr_other _ _ _ _ _ (by simp [LE.LHSEQ, LE.LHID])]
    rw [hookShown, gf, (only_setBit _ (LE.LSTAT n) 25 true).rd_other _ (LHSEQ_ne_LSTAT n), ← gf,
      gf_setBit_field _ _ _ _ _ (by decide) (by decide), gf_sf_same _ _ _ _ (by decide), hcur]
    rfl
  · rw [hookShown, bitOf_setBit_other _ _ _ _ _ _ (LHSEQ_ne_LSTAT n)]
    exact bitOf_setBit_same _ _ _ _ (by decide)

/-- What the opening of a hook leaves of engine `n`. -/
structure HookOpen (n : Nat) (d e : Dev) : Prop where
  seq : gf e (LE.LHSEQ n) LE.LHSEQ_SEQ = (gf d (LE.LHSEQ n) LE.LHSEQ_SEQ + 1) % 2 ^ 16
  pend : bitOf e (LE.LHSEQ n) 16 = true
  shown : bitOf e (LE.LSTAT n) 25 = true
  source : bitOf e (ipend (128 + n)) ((128 + n) % 32) = true
  stage : (leGet e n).comp.map LeSet.stage = some 1
  ts : rd e (LE.LTS n) = rd d (LE.LTS n)
  skew : rd e (LE.LSKEW n) = rd d (LE.LSKEW n)
  others : Others d.le e.le n
  only : Only { d with le := e.le } e [LE.LHID n, LE.LHIQ n, LE.LHSEQ n, LE.LSTAT n, ipend (128 + n)]

theorem hookOpened_open (d : Dev) {n : Nat} (hn : n < 16) (y : LeSet) : HookOpen n d (hookOpened d n y) := by
  obtain ⟨hseq, hpend, hshown⟩ := hookShown_effect d n y
  have hup := only_raise (lePut (hookShown d n y) n { leGet d n with comp := some { y with stage := 1 } }) (128 + n)
  have hrd : ∀ r : Reg, 0x40140000 ≤ r.addr → rd (hookOpened d n y) r = rd (hookShown d n y) r :=
    fun r hr => hup.rd_other r (engine_ne_ipend (by omega) hr)
  have hsq := hrd (LE.LHSEQ n) (by simp only [LE.LHSEQ]; omega)
  have hts := hrd (LE.LTS n) (by simp only [LE.LTS]; omega)
  have hskew := hrd (LE.LSKEW n) (by simp only [LE.LSKEW]; omega)
  refine ⟨?_, ?_, ?_, ?_, ?_, hts.trans ?_, hskew.trans ?_, ?_, (only_hookShown d n y).lePut_trans _ hup⟩
  · rw [gf, hsq, ← gf, hseq]
  · rw [bitOf, hsq, ← bitOf, hpend]
  · rw [bitOf, hrd _ (LSTAT_ge n), ← bitOf, hshown]
  · rw [hookOpened, raise_eq _ (srcReserved_engine (by omega) (by omega))]
    exact bitOf_setBit_same _ _ _ _ (Nat.mod_lt _ (by decide))
  · rw [hookOpened, hup.leGet, leGet_lePut_same]
    rfl
  · exact (only_hookShown d n y).regsStay _ (by simp [LE.LTS, LE.LHID, LE.LHIQ, LE.LHSEQ, LE.LSTAT])
  · exact (only_hookShown d n y).regsStay _ (by simp [LE.LSKEW, LE.LHID, LE.LHIQ, LE.LHSEQ, LE.LSTAT])
  · rw [hookOpened, hup.le]
    exact others_lePut (hookShown d n y) n _

end Sys2Proof.Machine

end

section

open Sys2Proof Sys2Proof.Machine

/-- Settles O26: the end of the Park stage opens the hook or passes it; a GO in time and the deadline release it alike. -/
theorem loopEngineHook : Obligations.LoopEngineHook := by
  unfold Obligations.LoopEngineHook
  refine ⟨?point, ?go, ?late, ?miss⟩
  case point =>
    refine fun s n x hr hc hx hd => does_of_clocked (f := (leHookPoint · n)) rfl hr ?_
    obtain ⟨p, y, hshown, hy, heq⟩ := leHookPoint_of_driving hc hx hd
    have hseq : gf p (LE.LHSEQ n) LE.LHSEQ_SEQ = gf s.dev (LE.LHSEQ n) LE.LHSEQ_SEQ := by rw [gf, hshown.seq]; rfl
    have hfab : fabDiv p = fabDiv s.dev := fabDiv_congr hshown.clock
    have hle : p.le = s.dev.le := by rw [hshown.frame]; rfl
    have hnow : p.now = max s.dev.now (x.t0 + 27 * fabDiv s.dev) := by rw [hshown.frame, ← advanceTo_now]
    have hmem : MemStays s.dev p := .of_same (by rw [hshown.frame]; rfl) (by rw [hshown.frame]; rfl)
    rw [heq]
    by_cases hk : fget LE.LHOOK_HKEN (x.reg (LE.LHOOK n)) = 1
    · have hopen := hookOpened_open p n.isLt y
      rw [if_pos hk]
      refine ⟨hopen.ts.trans hshown.ts, hopen.skew.trans hshown.skew, ?_,
        fun _ => ⟨?_, hopen.pend, hopen.shown, hopen.source, hopen.stage⟩,
        fun hno => absurd (hk.symm.trans hno) (by decide), ?_, ?_⟩
      · rw [hopen.only.now]; exact hnow
      · rw [hopen.seq, hseq]
      · exact (others_of_eq hle n).trans hopen.others
      · exact hmem.trans (MemStays.trans (.of_same rfl rfl) hopen.only.memStays)
    · rw [if_neg hk]
      refine ⟨hshown.ts, hshown.skew, hnow, fun hyes => absurd hyes hk, fun _ => ?_,
        (others_of_eq hle n).trans (others_lePut p n _), hmem.trans (.of_same rfl rfl)⟩
      rw [hookPassed, leGet_lePut_same, hfab, hy]
      rfl
  case go =>
    refine fun s n x v hr hg hc hx ht hv hseq => does_of_clocked (f := (writeLhcmd · n v)) rfl hr ?_
    have hrel := leRelease_released (goWritten s.dev n v) n x s.dev.now
      (if v.getLsbD 1 then some (rd s.dev (LE.LHOD n), rd s.dev (LE.LHOQ n)) else none)
    rw [writeLhcmd_of_open hg hc hx ht hv hseq]
    exact ⟨hrel.set, hrel.seq, hrel.shown, hrel.others, ((only_goWritten s.dev n v).with_le _).trans hrel.only⟩
  case late =>
    refine fun s n v hr hg hc hv => does_of_clocked (f := (writeLhcmd · n v)) rfl hr ?_
    rw [writeLhcmd_of_none hg hc hv]
    exact lateGo_effect s.dev n.isLt v
  case miss =>
    refine fun s n x hr hc hx => does_of_clocked (f := (leHkmiss · n)) rfl hr ?_
    obtain ⟨hflag, hcount, honly⟩ := hookMissed_effect s.dev n.isLt x
    have hrel := leRelease_released (lePut (hookMissed s.dev n x) n { leGet (hookMissed s.dev n x) n with bad := true }) n x
      (leDeadline s.dev n x) none
    have herr := hrel.only.regsStay (LE.LERRB n) (by simp [LE.LERRB, LE.LHSEQ, LE.LSTAT])
    have hle : (hookMissed s.dev n x).le = s.dev.le := honly.le
    rw [leHkmiss_of_open hc hx]
    refine ⟨hrel.set, ?_, ?_, ?_, hrel.shown, ?_, ((honly.with_le _).trans hrel.only).mono (by simp)⟩
    · rw [hrel.bad, leGet_lePut_same]
    · rw [gf, herr]; exact hcount
    · rw [hrel.stat 7 (by decide) (by decide)]
      exact (hflag.bitOf (by decide)).trans (by simp)
    · exact (others_of_eq hle n).trans ((others_lePut _ _ _).trans hrel.others)

end

section

namespace Sys2Proof.Machine

open Sys2Proof

/-! The duties of a triad, written by its engine (R162, R164, R216). -/

/-- From `d` to `e` a triad has taken new shadows: no register from the loop engines on has changed, and nothing beside
registers but triads, legs and the values drawn. -/
structure DutyStep (d e : Dev) : Prop where
  regs : ∀ r : Reg, 0x40140000 ≤ r.addr → rd e r = rd d r
  frame : e = { d with regs := e.regs, tri := e.tri, leg := e.leg, free := e.free }

namespace DutyStep

variable {d e f : Dev}

theorem refl (d : Dev) : DutyStep d d := ⟨fun _ _ => rfl, rfl⟩

theorem trans (h : DutyStep d e) (g : DutyStep e f) : DutyStep d f where
  regs r hr := (g.regs r hr).trans (h.regs r hr)
  frame := by rw [g.frame, h.frame]

theorem of_workFrom (h : WorkFrom d e) : DutyStep d e where
  regs r _ := h.rd r
  frame := by
    unfold WorkFrom at h
    rw [h]

theorem of_legStep {t : Nat} (ht : t < 16) (h : LegStep t legs d e) : DutyStep d e where
  regs r hr := h.rd_other fun hin => by
    simp only [legRegs, List.map_append, List.map_map, List.mem_append, List.mem_map, Function.comp_apply, mem_legs,
      List.map_cons, List.map_nil, List.mem_cons, List.not_mem_nil, or_false, TRIAD.LSTAT, TRIAD.TSTAT, TRIAD.TERR, ipend,
      ICU.IPEND] at hin
    omega
  frame := by rw [h.frame]

end DutyStep

theorem dutyStep_triWritten (d : Dev) {t : Nat} (ht : t < 16) : DutyStep d (triWritten d t) := by
  unfold triWritten triCopyAt
  dsimp only
  split
  · split
    · exact ⟨fun _ _ => rfl, rfl⟩
    · exact .trans (.of_workFrom (workFrom_triUpdate d t _)) (.of_legStep ht (legStep_legsLevel _ t _ _))
  · exact .refl d

theorem leDuty_frame (d : Dev) (v : Word) (top : Nat) : (leDuty d v top).2 = { d with free := (leDuty d v top).2.free } := by
  unfold leDuty
  dsimp only
  split
  · split <;> rfl
  · rfl

theorem LDUTY_ne_of_engine {t j : Nat} (ht : t < 16) (hj : j < 3) {r : Reg} (hr : 0x40140000 ≤ r.addr) :
    (TRIAD.LDUTY t j).addr ≠ r.addr := by
  simp only [TRIAD.LDUTY]
  omega

/-- One duty becomes the shadow of leg `j`. -/
theorem dutyStep_shadow (d : Dev) {t j : Nat} (ht : t < 16) (hj : j < 3) (v : Word) (top : Nat) :
    DutyStep d (wr (leDuty d v top).2 (TRIAD.LDUTY t j) (BitVec.ofNat 32 (leDuty d v top).1)) := by
  have hdraw := leDuty_frame d v top
  have hwr := only_wr (leDuty d v top).2 (TRIAD.LDUTY t j) (BitVec.ofNat 32 (leDuty d v top).1)
  refine ⟨fun r hr => (hwr.rd_other r ?_).trans (by rw [hdraw]; rfl), by rw [hwr.1, hdraw]⟩
  exact (LDUTY_ne_of_engine ht hj hr).symm

theorem dutyStep_leWriteDuties (d : Dev) {t : Nat} (ht : t < 16) {vs : List Word} (hvs : vs.length ≤ 3) :
    DutyStep d (leWriteDuties d t vs) := by
  refine .trans ?_ (dutyStep_triWritten _ ht)
  refine List.foldlRecOn (motive := fun e => DutyStep d e) _ _ (.refl d) fun e he a ha => he.trans ?_
  exact dutyStep_shadow e ht (Nat.lt_of_lt_of_le (List.snd_lt_of_mem_zipIdx ha) hvs) a.1 _

/-! The computation up to the shadow write (R215 to R219). -/

/-- From `d` to `e` engine `n` has computed: its safe request and its count of sets stay, with a safe request every duty, and
so does everything but registers, triads, legs and the values drawn. -/
structure ShadowStep (n : Nat) (d e : Dev) : Prop where
  sets : rd e (LE.LSETS n) = rd d (LE.LSETS n)
  safe : bitOf e (LE.LSTAT n) 29 = bitOf d (LE.LSTAT n) 29
  duty : bitOf d (LE.LSTAT n) 29 = true → ∀ t j, t < 16 → j < 3 → rd e (TRIAD.LDUTY t j) = rd d (TRIAD.LDUTY t j)
  frame : e = { d with regs := e.regs, tri := e.tri, leg := e.leg, free := e.free }

theorem LDUTY_ne_ipend {src t j : Nat} (h : src < 1024) : (TRIAD.LDUTY t j).addr ≠ (ipend src).addr :=
  ne_ipend h (by simp only [TRIAD.LDUTY]; omega)

namespace ShadowStep

variable {n : Nat} {d e f : Dev}

theorem refl (n : Nat) (d : Dev) : ShadowStep n d d := ⟨rfl, rfl, fun _ _ _ _ _ => rfl, rfl⟩

theorem trans (h : ShadowStep n d e) (g : ShadowStep n e f) : ShadowStep n d f where
  sets := g.sets.trans h.sets
  safe := g.safe.trans h.safe
  duty hs t j ht hj := (g.duty (h.safe.trans hs) t j ht hj).trans (h.duty hs t j ht hj)
  frame := by rw [g.frame, h.frame]

theorem ite (c : Prop) [Decidable c] (h : ShadowStep n d e) : ShadowStep n d (if c then e else d) := by
  split
  · exact h
  · exact refl n d

/-- The registers that show the results of a computation. -/
theorem results (h : Only d e [LE.LINTD n, LE.LINTQ n, LE.LVD n, LE.LVQ n, LE.LVDC n]) : ShadowStep n d e where
  sets := h.regsStay _ (by simp [LE.LSETS, LE.LINTD, LE.LINTQ, LE.LVD, LE.LVQ, LE.LVDC])
  safe := congrArg (BitVec.getLsbD · 29)
    (h.regsStay _ (by simp [LE.LSTAT, LE.LINTD, LE.LINTQ, LE.LVD, LE.LVQ, LE.LVDC]))
  duty _ t j ht hj := h.regsStay _ (by
    simp only [List.map_cons, List.map_nil, List.mem_cons, List.not_mem_nil, or_false, TRIAD.LDUTY, LE.LINTD, LE.LINTQ,
      LE.LVD, LE.LVQ, LE.LVDC]
    omega)
  frame := by rw [h.1]

theorem leFlag (hn : n < 16) (d : Dev) {b : Nat} (hb : b ≠ 29) : ShadowStep n d (leFlag d n b) where
  sets := (only_leFlag d n b).regsStay _ (by
    have hp := engine_ne_ipend (src := 112 + n) (r := LE.LSETS n) (by omega) (by simp only [LE.LSETS]; omega)
    have hne : (LE.LSETS n).addr ≠ (LE.LSTAT n).addr := by simp [LE.LSETS, LE.LSTAT]
    simp [hp, hne])
  safe := ((leFlag_flagUp d hn b).bitOf (by decide)).trans (by simp [hb])
  duty _ t j ht hj := (only_leFlag d n b).regsStay _ (by
    have hp := LDUTY_ne_ipend (src := 112 + n) (t := t) (j := j) (by omega)
    simp [hp, LDUTY_ne_of_engine ht hj (LSTAT_ge n)])
  frame := by rw [(only_leFlag d n b).1]

theorem angleTerm (n : Nat) (d : Dev) (w : Word) (k : Int) : ShadowStep n d (angleTerm d w k).2 := by
  rw [angleTerm_frame]
  exact ⟨rfl, rfl, fun _ _ _ _ _ => rfl, rfl⟩

/-- Duties are written where no safe request stands (R232). -/
theorem duties (n : Nat) (h : DutyStep d e) : ShadowStep n d (if bitOf d (LE.LSTAT n) 29 then d else e) := by
  by_cases hs : bitOf d (LE.LSTAT n) 29 = true
  · rw [if_pos hs]
    exact refl n d
  · rw [if_neg hs]
    exact ⟨h.regs _ (by simp only [LE.LSETS]; omega), congrArg (BitVec.getLsbD · 29) (h.regs _ (LSTAT_ge n)),
      fun hyes => absurd hyes hs, h.frame⟩

end ShadowStep

/-- The shadow write of a released set: a computation that keeps what `ShadowStep` says, and then the end of the set. -/
theorem leShadow_of_released {d : Dev} {n : Nat} {x : LeSet} (hn : n < 16) (hc : (leGet d n).comp = some x)
    (hx : x.stage = 2) : ∃ e, ShadowStep n (advanceTo d x.due) e ∧ leShadow d n = leDone e n := by
  unfold leShadow
  rw [hc]
  dsimp -zeta only
  rw [if_pos hx]
  extract_lets d₀ r t meas vmin d₁ vdc svm vmax hold pd vd pq vq d₂ q d₃ tv c s val vbe h m v0 v1 v2 z raw lo hi ds sat d₄
    d₅ d₆
  have hlow : ShadowStep n d₀ d₁ := by
    unfold d₁
    clear_value meas
    split
    · exact .ite _ (.leFlag hn d₀ (by decide))
    · exact .refl n d₀
  have hint : ShadowStep n d₁ d₂ := by
    unfold d₂
    split
    · exact .refl n d₁
    · exact .results (((only_wr d₁ _ _).trans (only_wr _ _ _)).mono (by simp))
  have hsat : ShadowStep n d₃ d₄ := .ite _ (.leFlag hn d₃ (by decide))
  have hres : ShadowStep n d₄ d₅ :=
    .results ((((only_wr d₄ _ _).trans (only_wr _ _ _)).trans (only_wr _ _ _)).mono (by simp))
  have hduty : ShadowStep n d₅ d₆ := .duties n (dutyStep_leWriteDuties d₅ (fget_lt LE.LBIND_TRI _) (by simp [ds, raw]))
  exact ⟨d₆, ((((hlow.trans hint).trans (.angleTerm n d₂ _ _)).trans hsat).trans hres).trans hduty, rfl⟩

/-! The end of a computation (R230, R231). -/

/-- A computed set is flagged and counted. -/
def setCounted (d : Dev) (n : Nat) : Dev := bumpWrap (leFlag (setBit d (LE.LSTAT n) 26 false) n 0) (LE.LSETS n)

theorem only_setFlagged (d : Dev) (n : Nat) :
    Only d (leFlag (setBit d (LE.LSTAT n) 26 false) n 0) [LE.LSTAT n, ipend (112 + n)] :=
  ((only_setBit d (LE.LSTAT n) 26 false).trans (only_leFlag _ n 0)).mono (by simp)

theorem only_bumpWrap (d : Dev) (r : Reg) : Only d (bumpWrap d r) [r] := only_wr d r _

theorem only_setCounted (d : Dev) (n : Nat) : Only d (setCounted d n) [LE.LSTAT n, ipend (112 + n), LE.LSETS n] :=
  (only_setFlagged d n).trans (only_bumpWrap _ _)

theorem LSETS_ne (n : Nat) (hn : n < 16) :
    (LE.LSETS n).addr ≠ (LE.LSTAT n).addr ∧ (LE.LSETS n).addr ≠ (ipend (112 + n)).addr :=
  ⟨by simp [LE.LSETS, LE.LSTAT], engine_ne_ipend (by omega) (by simp only [LE.LSETS]; omega)⟩

theorem setCounted_effect (d : Dev) {n : Nat} (hn : n < 16) :
    rd (setCounted d n) (LE.LSETS n) = rd d (LE.LSETS n) + 1 ∧ bitOf (setCounted d n) (LE.LSTAT n) 0 = true := by
  obtain ⟨hstat, hpend⟩ := LSETS_ne n hn
  constructor
  · rw [setCounted, rd_bumpWrap_same, (only_setFlagged d n).regsStay _ (by simp [hstat, hpend])]
  · rw [setCounted, bitOf, (only_bumpWrap _ _).rd_other _ hstat.symm, ← bitOf, (leFlag_flagUp _ hn 0).bitOf (by decide)]
    simp

/-- A waiting set starts at the end of the one before it. -/
theorem leEnd_effect (d : Dev) (n : Nat) :
    leEnd d n = { d with le := (leEnd d n).le } ∧ Others d.le (leEnd d n).le n
      ∧ ((leGet d n).wait = none → (leGet (leEnd d n) n).comp = none) := by
  cases hw : (leGet d n).wait with
  | none =>
    rw [leEnd, hw]
    exact ⟨rfl, others_lePut d n _, fun _ => by rw [leGet_lePut_same]⟩
  | some x =>
    rw [leEnd, hw]
    exact ⟨rfl, (others_lePut d n _).trans (others_lePut _ n _), fun h => absurd h (by simp)⟩

/-- What the end of a computation leaves of engine `n`. -/
structure SetDone (n : Nat) (d e : Dev) : Prop where
  sets : rd e (LE.LSETS n) = rd d (LE.LSETS n) + 1
  flag : bitOf e (LE.LSTAT n) 0 = true
  idle : (leGet d n).wait = none → (leGet e n).comp = none
  others : Others d.le e.le n
  only : Only { d with le := e.le } e [LE.LSTAT n, ipend (112 + n), LE.LSETS n]

theorem leDone_done (d : Dev) {n : Nat} (hn : n < 16) : SetDone n d (leDone d n) := by
  generalize hp : lePut d n { leGet d n with disc := 0 } = p
  have hput : Others d.le p.le n := by rw [← hp]; exact others_lePut d n _
  have hbase : ∀ le : Tab LeSt, { p with le := le } = { d with le := le } := fun le => by rw [← hp]; rfl
  have hwait : (leGet p n).wait = (leGet d n).wait := by rw [← hp, leGet_lePut_same]
  have hsets : rd p (LE.LSETS n) = rd d (LE.LSETS n) := by rw [← hp]; rfl
  have heq : leDone d n = leEnd (setCounted p n) n := by rw [← hp]; rfl
  obtain ⟨hcount, hflag⟩ := setCounted_effect p hn
  have honly := only_setCounted p n
  obtain ⟨hframe, hother, hidle⟩ := leEnd_effect (setCounted p n) n
  have hrd : ∀ r, rd (leEnd (setCounted p n) n) r = rd (setCounted p n) r := fun r => by rw [hframe]; rfl
  rw [heq]
  refine ⟨by rw [hrd, hcount, hsets], by rw [bitOf, hrd, ← bitOf, hflag], fun h => hidle ?_, ?_, ?_⟩
  · rw [honly.leGet, hwait, h]
  · exact hput.trans ((others_of_eq honly.le n).trans hother)
  · rw [← hbase, hframe]
    exact honly.with_le _

/-- A computation that ends leaves the duties of all triads. -/
theorem SetDone.rd_LDUTY {n : Nat} {d e : Dev} (h : SetDone n d e) (hn : n < 16) {t j : Nat} (ht : t < 16) (hj : j < 3) :
    rd e (TRIAD.LDUTY t j) = rd d (TRIAD.LDUTY t j) := by
  have hpend := LDUTY_ne_ipend (src := 112 + n) (t := t) (j := j) (by omega)
  have hsets := LDUTY_ne_of_engine ht hj (r := LE.LSETS n) (by simp only [LE.LSETS]; omega)
  exact h.only.regsStay _ (by simp [hpend, hsets, LDUTY_ne_of_engine ht hj (LSTAT_ge n)])

/-! Commands of an engine (R212, R220, R233). -/

theorem leIrst_of_open (d : Dev) (n : Nat) (hg : gateOpen d 13 = true) : leIrst d n = leIntZero d n := if_pos hg

/-- Both integrators are cleared, and nothing else changes (R220). -/
theorem leIntZero_effect (d : Dev) (n : Nat) :
    rd (leIntZero d n) (LE.LINTD n) = 0 ∧ rd (leIntZero d n) (LE.LINTQ n) = 0
      ∧ Only d (leIntZero d n) [LE.LINTD n, LE.LINTQ n] := by
  refine ⟨?_, rd_wr_same _ _ _, (only_wr d _ _).trans (only_wr _ _ _)⟩
  rw [leIntZero, rd_wr_other _ _ _ _ (by simp [LE.LINTD, LE.LINTQ]), rd_wr_same]

theorem leResume_of_calm (d : Dev) (n : Nat) (hg : gateOpen d 13 = true) (hc : leCause d n = false) :
    leResume d n = leWithdraw d n := if_pos (by simp [hg, hc])

theorem leResume_of_cause (d : Dev) (n : Nat) (hc : leCause d n = true) : leResume d n = d := if_neg (by simp [hc])

/-- The cause of an engine's safe request ends on every leg of a triad, and nothing else changes. -/
theorem legsCauseEnd_effect (t : Nat) (d : Dev) :
    Only d (forEach legs (legCauseEnd 5 t) d) (legs.map (TRIAD.LSTAT t))
      ∧ ∀ j ∈ legs, bitOf (forEach legs (legCauseEnd 5 t) d) (TRIAD.LSTAT t j) 5 = false := by
  refine forEach_all legs (legCauseEnd 5 t) (I := fun e => Only d e (legs.map (TRIAD.LSTAT t)))
    (P := fun j e => bitOf e (TRIAD.LSTAT t j) 5 = false) (.refl d _) (fun e he j hj => ?_)
    (fun e _ j _ => bitOf_setBit_same e _ 5 false (by decide)) (fun e _ j hj i hi hoff => ?_)
  · exact (he.trans (only_setBit e (TRIAD.LSTAT t j) 5 false)).mono
      (List.append_subset.2 ⟨List.Subset.refl _, List.cons_subset.2 ⟨List.mem_map_of_mem hj, List.nil_subset _⟩⟩)
  · by_cases hij : i = j
    · subst hij
      exact bitOf_setBit_same e _ 5 false (by decide)
    · have hne := LSTAT_ne_LSTAT (t := t) (u := t) (mem_legs.1 hj) (mem_legs.1 hi) fun h => hij h.2
      exact (bitOf_setBit_other e _ _ 5 5 false hne).trans hoff

theorem leWithdraw_of_request {d : Dev} {n : Nat} (h : bitOf d (LE.LSTAT n) 29 = true) :
    leWithdraw d n = forEach legs (legCauseEnd 5 (leTri d n)) (setBit d (LE.LSTAT n) 29 false) := if_pos h

theorem leWithdraw_of_none {d : Dev} {n : Nat} (h : ¬ bitOf d (LE.LSTAT n) 29 = true) : leWithdraw d n = d := if_neg h

/-- The status of an engine is none of a triad's legs. -/
theorem engineStatus_not_leg (n t : Nat) :
    (LE.LSTAT n).addr ∉ (legs.map (TRIAD.LSTAT t)).map Reg.addr := by
  simp only [List.map_map, List.mem_map, Function.comp_apply, mem_legs, TRIAD.LSTAT, LE.LSTAT, not_exists, not_and]
  omega

/-- A safe request that is withdrawn stands no longer, neither in the engine nor on its triad's legs (R233). -/
theorem leWithdraw_effect (d : Dev) (n : Nat) :
    bitOf (leWithdraw d n) (LE.LSTAT n) 29 = false
      ∧ (bitOf d (LE.LSTAT n) 29 = true → ∀ j ∈ legs, bitOf (leWithdraw d n) (TRIAD.LSTAT (leTri d n) j) 5 = false)
      ∧ Only d (leWithdraw d n) (LE.LSTAT n :: legs.map (TRIAD.LSTAT (leTri d n))) := by
  by_cases hreq : bitOf d (LE.LSTAT n) 29 = true
  · obtain ⟨honly, hoff⟩ := legsCauseEnd_effect (leTri d n) (setBit d (LE.LSTAT n) 29 false)
    rw [leWithdraw_of_request hreq]
    refine ⟨?_, fun _ => hoff, (only_setBit d (LE.LSTAT n) 29 false).trans honly⟩
    rw [bitOf, honly.regsStay _ (engineStatus_not_leg n (leTri d n)), ← bitOf]
    exact bitOf_setBit_same d _ 29 false (by decide)
  · rw [leWithdraw_of_none hreq]
    exact ⟨by simpa using hreq, fun hyes => absurd hyes hreq, .refl d _⟩

/-- The software angle triple as a write of its instant latches it (R212). -/
theorem writeLswts_of_open (d : Dev) (n : Nat) (v : Word) (hg : gateOpen d 13 = true) :
    writeLswts d n v = lePut (wr d (LE.LSWTS n) v) n
      { leGet d n with sw := some (rd d (LE.LSWANG n), rd d (LE.LSWSPD n), v) } := if_pos hg

/-! The ends of STARTING and STOPPING (R205, R235, R655). -/

theorem leState_leSetState (d : Dev) (n : Nat) {st : Nat} (h : st < 4) : leState (leSetState d n st) n = st := by
  rw [leState, leSetState, gf_sf_same _ _ _ _ (by decide)]
  exact Nat.mod_eq_of_lt h

/-- The state of an engine beside another bit of its status. -/
theorem leState_setBit (d : Dev) (n : Nat) {b : Nat} (hb : b < 30) (v : Bool) :
    leState (setBit d (LE.LSTAT n) b v) n = leState d n := gf_setBit_field d _ b v _ (.inr hb) (by decide)

/-- An engine that does not drive raises no safe request: only its feedback cause follows. -/
theorem leRefresh_of_idle {d : Dev} {n : Nat} (h : leDrive d n = false) :
    ∃ cf, leRefresh d n = setBit d (LE.LSTAT n) 27 cf := by
  have hne : (LE.LCTL n).addr ≠ (LE.LSTAT n).addr := by simp [LE.LCTL, LE.LSTAT]
  have hdrive : ∀ cf, leDrive (setBit d (LE.LSTAT n) 27 cf) n = false := fun cf => by
    rw [leDrive, setBit, gf_sf_other _ _ _ _ _ _ hne]
    exact h
  unfold leRefresh
  dsimp only
  rw [hdrive]
  exact ⟨_, if_neg (by simp)⟩

/-- A STARTING engine at its end: RUNNING, with no software triple (R212). -/
def engineRuns (d : Dev) (n : Nat) : Dev :=
  leSetState (lePut (advanceTo d (leGet d n).due) n { leGet d n with sw := none }) n 2

theorem leStartDone_of_starting {d : Dev} {n : Nat} (h : leState d n = 1) :
    leStartDone d n = leRefresh (engineRuns d n) n := if_pos h

/-- An engine at the end of STARTING, its feedback cause as it stands then. -/
theorem engineRuns_effect (d : Dev) (n : Nat) (cf : Bool) :
    leState (setBit (engineRuns d n) (LE.LSTAT n) 27 cf) n = 2
      ∧ (leGet (setBit (engineRuns d n) (LE.LSTAT n) 27 cf) n).sw = none
      ∧ Others d.le (setBit (engineRuns d n) (LE.LSTAT n) 27 cf).le n
      ∧ Only { advanceTo d (leGet d n).due with le := (setBit (engineRuns d n) (LE.LSTAT n) 27 cf).le }
          (setBit (engineRuns d n) (LE.LSTAT n) 27 cf) [LE.LSTAT n] := by
  have hbit := only_setBit (engineRuns d n) (LE.LSTAT n) 27 cf
  have hget : leGet (engineRuns d n) n = { leGet d n with sw := none } := leGet_lePut_same (advanceTo d _) n _
  have hput : Others d.le (engineRuns d n).le n := others_lePut (advanceTo d _) n _
  have hstate := only_sf (lePut (advanceTo d (leGet d n).due) n { leGet d n with sw := none }) (LE.LSTAT n) LE.LSTAT_STATE 2
  refine ⟨(leState_setBit _ n (by decide) cf).trans (leState_leSetState _ n (by decide)), ?_, ?_,
    (hstate.trans hbit).mono (by simp)⟩
  · rw [hbit.leGet, hget]
  · rw [hbit.le]; exact hput

theorem leDrive_engineRuns (d : Dev) (n : Nat) : leDrive (engineRuns d n) n = leDrive d n := by
  have hne : (LE.LCTL n).addr ≠ (LE.LSTAT n).addr := by simp [LE.LCTL, LE.LSTAT]
  rw [leDrive, engineRuns, leSetState, gf_sf_other _ _ _ _ _ _ hne]
  rfl

/-- An engine's own state and its status as it starts anew. -/
def engineReset (d : Dev) (n : Nat) : Dev :=
  leSetState (lePut d n { due := d.now + 32 * fabDiv d, bad := (leGet d n).bad }) n 1

/-- The open hook and the causes CA and CD shown before a start are shown no longer. -/
def setHidden (d : Dev) (n : Nat) : Dev :=
  setBit (setBit (setBit (setBit d (LE.LHSEQ n) 16 false) (LE.LSTAT n) 25 false) (LE.LSTAT n) 28 false) (LE.LSTAT n) 26 false

theorem leStart_eq (d : Dev) (n : Nat) : leStart d n = setHidden (leIntZero (engineReset d n) n) n := rfl

theorem only_setHidden (d : Dev) (n : Nat) : Only d (setHidden d n) [LE.LHSEQ n, LE.LSTAT n] :=
  ((((only_setBit d (LE.LHSEQ n) 16 false).trans (only_setBit _ (LE.LSTAT n) 25 false)).trans
    (only_setBit _ (LE.LSTAT n) 28 false)).trans (only_setBit _ (LE.LSTAT n) 26 false)).mono (by simp)

theorem leState_setHidden (d : Dev) (n : Nat) : leState (setHidden d n) n = leState d n := by
  rw [setHidden, leState_setBit _ _ (by decide), leState_setBit _ _ (by decide), leState_setBit _ _ (by decide)]
  exact gf_sf_other _ _ _ _ _ _ (LHSEQ_ne_LSTAT n).symm

/-- What a start leaves of engine `n`. -/
structure EngineStarted (n : Nat) (d e : Dev) : Prop where
  state : leState e n = 1
  intd : rd e (LE.LINTD n) = 0
  intq : rd e (LE.LINTQ n) = 0
  others : Others d.le e.le n
  only : Only { d with le := e.le } e [LE.LSTAT n, LE.LINTD n, LE.LINTQ n, LE.LHSEQ n]

theorem leStart_started (d : Dev) (n : Nat) : EngineStarted n d (leStart d n) := by
  obtain ⟨hintd, hintq, hzero⟩ := leIntZero_effect (engineReset d n) n
  have hhide := only_setHidden (leIntZero (engineReset d n) n) n
  have hreset : Only { d with le := (leStart d n).le } (engineReset d n) [LE.LSTAT n] := only_sf (lePut d n _) _ _ 1
  rw [leStart_eq]
  refine ⟨?_, ?_, ?_, ?_, ((hreset.trans hzero).trans hhide).mono (by simp)⟩
  · rw [leState_setHidden, leState, gf, hzero.regsStay _ (by simp [LE.LSTAT, LE.LINTD, LE.LINTQ]), ← gf, ← leState]
    exact leState_leSetState _ n (by decide)
  · rw [hhide.regsStay _ (by simp [LE.LINTD, LE.LHSEQ, LE.LSTAT]), hintd]
  · rw [hhide.regsStay _ (by simp [LE.LINTQ, LE.LHSEQ, LE.LSTAT]), hintq]
  · exact others_lePut d n _

theorem leStopDone_of_wanted {d : Dev} {n : Nat} (hst : leState d n = 3) (hc : (leGet d n).comp = none)
    (hen : gf d (LE.LCTL n) LE.LCTL_EN = 1) : leStopDone d n = leStart (advanceTo d (leGet d n).due) n := by
  rw [leStopDone, if_pos (by simp [hst, hc])]
  exact if_pos hen

theorem leStopDone_of_unwanted {d : Dev} {n : Nat} (hst : leState d n = 3) (hc : (leGet d n).comp = none)
    (hen : gf d (LE.LCTL n) LE.LCTL_EN ≠ 1) : leStopDone d n = leOff (advanceTo d (leGet d n).due) n := by
  rw [leStopDone, if_pos (by simp [hst, hc])]
  exact if_neg hen

theorem leState_leOff (d : Dev) (n : Nat) : leState (leOff d n) n = 0 :=
  (leState_setBit _ n (by decide) false).trans (leState_leSetState _ n (by decide))

theorem others_leOff (d : Dev) (n : Nat) : Others d.le (leOff d n).le n := others_lePut d n { bad := (leGet d n).bad }

theorem only_leOff (d : Dev) (n : Nat) :
    Only { d with le := (leOff d n).le, claims := (leOff d n).claims } (leOff d n) [LE.LSTAT n] := by
  have hoff := (only_sf { d with le := (leOff d n).le, claims := (leOff d n).claims } (LE.LSTAT n) LE.LSTAT_STATE 0).trans
    (only_setBit _ (LE.LSTAT n) 27 false)
  exact hoff.mono (by simp)

/-! Configuration writes of the engines (R19, R224, R237). -/

/-- A write inside engine `n` goes to the ticked register of its offset, or is refused with the error flag. -/
theorem writeLeTicked_engine (d : Dev) (n : Fin 16) (o : Nat) (v : Word) {r : Reg} {m : Word} {bad q : Bool} (ho : o < 0x400)
    (hg : gateOpen d 13 = true) (ht : leTicked n o v = some (r, m, bad, q)) :
    writeLeTicked d (0x40140000 + 0x400 * n + o) v = if bad then leFlag d n 9 else wrPend d r (v &&& m) := by
  have hlt := n.isLt
  have hsub : 0x40140000 + 0x400 * (n : Nat) + o - 0x40140000 = 0x400 * n + o := by omega
  have hwin : ¬ 0x8000 ≤ 0x400 * (n : Nat) + o := by omega
  have hin : (decide (0x40140000 ≤ 0x40140000 + 0x400 * (n : Nat) + o)
      && decide (0x400 * (n : Nat) + o < 16 * 0x400)) = true := by
    simp only [Bool.and_eq_true, decide_eq_true_eq]; omega
  have hnum : (0x400 * (n : Nat) + o) / 0x400 = n := by omega
  have hoff : (0x400 * (n : Nat) + o) % 0x400 = o := by omega
  simp only [writeLeTicked, hsub, if_neg hwin, hin, hnum, hoff, hg, ht, Bool.true_and, if_true]

end Sys2Proof.Machine

end

section

open Sys2Proof Sys2Proof.Machine

/-- Settles O27: the shadow write is a computation that leaves the duties under a safe request, and the end of a set; the
commands and timed events each have the effect of their operation. -/
theorem loopEngineShadowsAndCommands : Obligations.LoopEngineShadowsAndCommands := by
  unfold Obligations.LoopEngineShadowsAndCommands
  refine ⟨?shadow, ?irst, ?resume, ?caused, ?triple, ?started, ?stopped, ?config⟩
  case shadow =>
    refine fun s n x hr hc hx => does_of_clocked (f := (leShadow · n)) rfl hr ?_
    obtain ⟨p, hstep, heq⟩ := leShadow_of_released n.isLt hc hx
    have hdone := leDone_done p n.isLt
    have hle : p.le = s.dev.le := by rw [hstep.frame]; rfl
    have hwait : (leGet p n).wait = (leGet s.dev n).wait := by rw [leGet, hle, ← leGet]
    have hnow : p.now = max s.dev.now x.due := by rw [hstep.frame, ← advanceTo_now]
    have hmem : MemStays s.dev p := .of_same (by rw [hstep.frame]; rfl) (by rw [hstep.frame]; rfl)
    rw [heq]
    refine ⟨?_, hdone.flag, ?_, fun h => hdone.idle (hwait.trans h), fun hreq j => ?_,
      (others_of_eq hle n).trans hdone.others, hmem.trans (MemStays.trans (.of_same rfl rfl) hdone.only.memStays)⟩
    · rw [hdone.sets, hstep.sets]; rfl
    · rw [hdone.only.now]; exact hnow
    · have ht := leTri_lt s.dev n
      rw [hdone.rd_LDUTY n.isLt ht j.isLt, hstep.duty hreq _ _ ht j.isLt]
      rfl
  case irst =>
    refine fun s n hr hg => does_of_clocked (f := (leIrst · n)) rfl hr ?_
    rw [leIrst_of_open s.dev n hg]
    exact leIntZero_effect s.dev n
  case resume =>
    refine fun s n hr hg hc => does_of_clocked (f := (leResume · n)) rfl hr ?_
    obtain ⟨hreq, hoff, honly⟩ := leWithdraw_effect s.dev n
    rw [leResume_of_calm s.dev n hg hc]
    exact ⟨hreq, fun h j => hoff h j (mem_legs.2 j.isLt), honly⟩
  case caused =>
    refine fun s n hr hc => (clocked_next s (leResume · n) hr).trans ?_
    rw [leResume_of_cause s.dev n hc]
  case triple =>
    refine fun s n v hr hg => does_of_clocked (f := (writeLswts · n v)) rfl hr ?_
    rw [writeLswts_of_open s.dev n v hg]
    exact ⟨rd_wr_same s.dev _ v, by rw [leGet_lePut_same], others_lePut (wr s.dev _ v) n _,
      (only_wr s.dev _ v).with_le _⟩
  case started =>
    refine fun s n hr hst hd => does_of_clocked (f := (leStartDone · n)) rfl hr ?_
    obtain ⟨cf, heq⟩ := leRefresh_of_idle ((leDrive_engineRuns s.dev n).trans hd)
    rw [leStartDone_of_starting hst, heq]
    exact engineRuns_effect s.dev n cf
  case stopped =>
    refine fun s n hr hst hc => does_of_clocked (f := (leStopDone · n)) rfl hr ?_
    by_cases hen : gf s.dev (LE.LCTL n) LE.LCTL_EN = 1
    · have hstart := leStart_started (advanceTo s.dev (leGet s.dev n).due) n
      rw [leStopDone_of_wanted hst hc hen]
      exact ⟨fun _ => ⟨hstart.state, hstart.intd, hstart.intq, rfl⟩, fun hno => absurd hen hno, hstart.others,
        hstart.only⟩
    · rw [leStopDone_of_unwanted hst hc hen]
      exact ⟨fun hyes => absurd hyes hen, fun _ => ⟨leState_leOff _ n, fun _ hcl ho => pin_of_releaseClaims hcl ho⟩,
        others_leOff (advanceTo s.dev _) n, (only_leOff _ n).mono (by simp)⟩
  case config =>
    refine fun s n o v r m q hr hg ho ht => does_of_clocked (f := (writeLeTicked · _ v)) rfl hr ?_
    rw [writeLeTicked_engine s.dev n o v ho hg ht]
    exact wrPend_pendingTo s.dev r (v &&& m)

end

section

namespace Sys2Proof.Machine

open Sys2Proof

/-! Configuration writes of contexts, lanes and the output stage (R248, R291, R332). -/

/-- A flag of the Press is set with its source, and nothing else changes (R293). -/
theorem pressFlag_flagUp (d : Dev) (b : Nat) :
    FlagUp d (pressFlag d b) PRESS.PSTAT b (gf d PRESS.PSEL PRESS.PSEL_IE) 57
      ∧ Only d (pressFlag d b) [PRESS.PSTAT, ipend 57] :=
  ⟨setFlag_flagUp d PRESS.PSTAT b _ 57 (by decide) (by decide), only_setFlag d PRESS.PSTAT b _ 57⟩

/-- A write to a word of a context sets its pending copy, or is refused with the error flag. -/
theorem writeCtxTicked_context (d : Dev) {a c o : Nat} (v : Word) (hg : gateOpen d 14 = true) (ha : ctxAddr a = some (c, o))
    (hm : ctxMask o ≠ 0) :
    writeCtxTicked d a v
      = if ctxWordBad o v then pressFlag d 0 else wrPend d (ctxRegAt c (4 * (o / 4))) (v &&& ctxMask o) := by
  simp only [writeCtxTicked, hg, ha, if_neg hm, Bool.not_true, Bool.false_eq_true, if_false]

/-- No lane's address lies in a context's window. -/
theorem ctxAddr_lane (c : Fin 128) : ctxAddr (0x40200100 + 4 * c) = none := by
  have hc := c.isLt
  have hpend : (decide (0x40240000 ≤ 0x40200100 + 4 * (c : Nat)) && decide (0x40200100 + 4 * (c : Nat) < 0x40280000)) = false := by
    simp only [Bool.and_eq_false_iff, decide_eq_false_iff_not]; omega
  have hact : decide (0x40280000 ≤ 0x40200100 + 4 * (c : Nat)) = false := decide_eq_false (by omega)
  simp only [ctxAddr, hpend, hact, Bool.false_and, Bool.false_eq_true, if_false]

/-- A write of a legal decimation to a lane's `LNCFG` sets its pending copy. -/
theorem writeCtxTicked_lane (d : Dev) (c : Fin 128) (v : Word) (hg : gateOpen d 14 = true) (hlo : 2 ≤ fget PRESS.LNCFG_MC v)
    (hhi : fget PRESS.LNCFG_MC v ≤ 1024) :
    writeCtxTicked d (0x40200100 + 4 * c) v = wrPend d (PRESS.LNCFG c) (v &&& 0x800007FF) := by
  have hc := c.isLt
  have hoff : 0x40200100 + 4 * (c : Nat) - 0x40200000 = 0x100 + 4 * c := by omega
  have hlower : ¬ 0x800 ≤ 0x100 + 4 * (c : Nat) := by omega
  have hin : (decide (0x40200000 ≤ 0x40200100 + 4 * (c : Nat)) && decide (0x100 ≤ 0x100 + 4 * (c : Nat))
      && decide (0x100 + 4 * (c : Nat) < 0x300)) = true := by
    simp only [Bool.and_eq_true, decide_eq_true_eq]; omega
  have hnum : (0x100 + 4 * (c : Nat) - 0x100) / 4 = c := by omega
  have hmc : (decide (fget PRESS.LNCFG_MC v < 2) || decide (1024 < fget PRESS.LNCFG_MC v)) = false := by
    simp only [Bool.or_eq_false_iff, decide_eq_false_iff_not]; omega
  simp only [writeCtxTicked, hg, ctxAddr_lane, hoff, if_neg hlower, hin, hnum, hmc, Bool.not_true, Bool.false_eq_true, if_false,
    if_true]

/-- A write in the lower half of the output stage goes to the ticked register of its offset, or is refused with the error
flag. -/
theorem writePoutTicked_lower (d : Dev) {o : Nat} (v : Word) {r : Reg} {m : Word} {bad : Bool} (ho : o < 0x800)
    (hg : gateOpen d 14 = true) (ht : poutTicked d o v = some (r, m, bad)) :
    writePoutTicked d (0x40210000 + o) v = if bad then poutFlag d 0 else wrPend d r (v &&& m) := by
  have hsub : 0x40210000 + o - 0x40210000 = o := by omega
  have hlower : ¬ 0x800 ≤ o := by omega
  have hin : decide (0x40210000 ≤ 0x40210000 + o) = true := decide_eq_true (by omega)
  simp only [writePoutTicked, hsub, if_neg hlower, hin, hg, ht, Bool.true_and, if_true]

end Sys2Proof.Machine

end

section

open Sys2Proof Sys2Proof.Machine

/-- Settles O32: each address leads to one ticked word, whose write sets its pending copy or the error flag. -/
theorem pressConfigurationIsPending : Obligations.PressConfigurationIsPending := by
  unfold Obligations.PressConfigurationIsPending
  refine ⟨?word, ?forbidden, ?lane, ?stage⟩
  case word =>
    refine fun s a c o v hr hg ha hm hbad => does_of_clocked (f := (writeCtxTicked · a v)) rfl hr ?_
    rw [writeCtxTicked_context s.dev v hg ha hm, hbad]
    exact wrPend_pendingTo s.dev _ (v &&& ctxMask o)
  case forbidden =>
    refine fun s a c o v hr hg ha hm hbad => does_of_clocked (f := (writeCtxTicked · a v)) rfl hr ?_
    rw [writeCtxTicked_context s.dev v hg ha hm, hbad]
    exact pressFlag_flagUp s.dev 0
  case lane =>
    refine fun s c v hr hg hlo hhi => does_of_clocked (f := (writeCtxTicked · _ v)) rfl hr ?_
    rw [writeCtxTicked_lane s.dev c v hg hlo hhi]
    exact wrPend_pendingTo s.dev (PRESS.LNCFG c) (v &&& 0x800007FF)
  case stage =>
    refine fun s o v r m hr hg ho ht => does_of_clocked (f := (writePoutTicked · _ v)) rfl hr ?_
    rw [writePoutTicked_lower s.dev v ho hg ht]
    exact wrPend_pendingTo s.dev r (v &&& m)

end

section

namespace Sys2Proof.Machine

open Sys2Proof

/-! The operations at the end of a job leave the jobs in hand and the present instant. -/

/-- From `d` to `e` neither the jobs in hand nor the present instant have changed. -/
structure JobsStay (d e : Dev) : Prop where
  jobs : e.jobs = d.jobs
  now : e.now = d.now

namespace JobsStay

variable {d e f : Dev}

theorem refl (d : Dev) : JobsStay d d := ⟨rfl, rfl⟩

theorem trans (h : JobsStay d e) (g : JobsStay e f) : JobsStay d f := ⟨g.jobs.trans h.jobs, g.now.trans h.now⟩

theorem forEach {α : Type} (l : List α) (f : Dev → α → Dev) (h : ∀ e a, JobsStay e (f e a)) (d : Dev) :
    JobsStay d (forEach l f d) :=
  List.foldlRecOn (motive := fun e => JobsStay d e) l f (refl d) fun _ he a _ => he.trans (h _ a)

theorem of_only {l : List Reg} (h : Only d e l) : JobsStay d e := ⟨by rw [h.1], h.now⟩

theorem of_mirrored (h : MirroredFrom d e) : JobsStay d e := ⟨by rw [h], by rw [h]⟩

theorem ctxPut (h : JobsStay d e) (c : Nat) (x : CtxSt) : JobsStay d (ctxPut e c x) := h.trans ⟨rfl, rfl⟩

theorem wrBytes (h : JobsStay d e) (k : Nat) (l : List Byte) : JobsStay d (wrBytes e k l) :=
  h.trans ⟨by rw [wrBytes_dev], by rw [wrBytes_dev]⟩

theorem wr (h : JobsStay d e) (r : Reg) (v : Word) : JobsStay d (wr e r v) := h.trans (of_only (only_wr e r v))

theorem sf (h : JobsStay d e) (r : Reg) (g : Fld) (v : Nat) : JobsStay d (sf e r g v) := h.wr r _

theorem bump (h : JobsStay d e) (r : Reg) (g : Fld) (k : Nat) : JobsStay d (bump e r g k) := h.sf r g _

theorem setFlag (h : JobsStay d e) (r : Reg) (b ie src : Nat) : JobsStay d (setFlag e r b ie src) :=
  h.trans (of_only (only_setFlag e r b ie src))

theorem pressFlag (h : JobsStay d e) (b : Nat) : JobsStay d (pressFlag e b) := h.setFlag PRESS.PSTAT b _ 57

theorem poutFlag (h : JobsStay d e) (b : Nat) : JobsStay d (poutFlag e b) := h.setFlag POUT.OSTAT b _ 58

theorem twinFlag (h : JobsStay d e) (b : Nat) : JobsStay d (twinFlag e b) := h.setFlag PAIRC.TWSTAT b _ 12

end JobsStay

/-! Alarms (R279, R280). -/

theorem jobsStay_alarmOne (c base : Nat) (used : Nat → Bool) (r : Dev × List (Nat × Bool)) (e : Word × Nat) :
    JobsStay r.1 (alarmOne c base used r e).1 := by
  unfold alarmOne
  dsimp only
  split
  · exact ((JobsStay.refl r.1).ctxPut c _).sf _ _ _
  · exact .refl _

theorem jobsStay_alarms (d : Dev) (c : Nat) (cfg : Tab Word) (empty : Bool) (f : Feats) :
    JobsStay d (alarms d c cfg empty f).1 := by
  unfold alarms
  extract_lets kept nb no used base r
  have hr : JobsStay d r.1 := List.foldlRecOn (motive := fun q => JobsStay d q.1) _ _ (.refl d)
    fun q hq e _ => hq.trans (jobsStay_alarmOne c base used q e)
  split
  · exact .refl d
  · split
    · exact hr.pressFlag 7
    · exact hr

/-! The output queue (R304, R306, R310) and the standby's signatures (R459). -/

theorem jobsStay_oqRoom (n : Nat) (l : List OqRes) : ∀ d : Dev, JobsStay d (oqRoom n l d) := by
  induction l with
  | nil => exact .refl
  | cons r l ih =>
    intro d
    rw [oqRoom]
    extract_lets counted
    have hcounted : JobsStay d counted := by
      refine JobsStay.bump (.poutFlag ?_ 3) _ _ _
      exact ⟨rfl, rfl⟩
    split
    · exact .refl d
    · refine JobsStay.trans ?_ (ih _)
      exact hcounted.trans ⟨rfl, rfl⟩

theorem jobsStay_oqRecord (dropped : Bool) (d : Dev) (bytes : List Byte) : JobsStay d (oqRecord dropped d bytes).1 := by
  unfold oqRecord
  dsimp only
  split
  · exact ⟨rfl, rfl⟩
  · exact .refl d

theorem jobsStay_oqRecords (dropped : Bool) (l : List (List Byte)) : ∀ d : Dev, JobsStay d (oqRecords dropped d l).1 := by
  induction l with
  | nil => exact .refl
  | cons b l ih => exact fun d => (jobsStay_oqRecord dropped d b).trans (ih _)

theorem jobsStay_oqEnter (d : Dev) (ring : Nat) (recs : List (List Byte)) : JobsStay d (oqEnter d ring recs) := by
  unfold oqEnter
  extract_lets e q x
  have hq : JobsStay d q.1 := (jobsStay_oqRoom recs.length d.oq d).trans (jobsStay_oqRecords _ recs e)
  refine JobsStay.sf ?_ _ _ _
  exact hq.trans ⟨rfl, rfl⟩

theorem jobsStay_sigArrive (d : Dev) (own : Bool) (c rseq : Nat) (sig : Word) : JobsStay d (sigArrive d own c rseq sig) := by
  unfold sigArrive
  extract_lets l same x met counted y
  have hmet : JobsStay d met := ⟨rfl, rfl⟩
  have hcounted : JobsStay d counted := (hmet.twinFlag 4).bump _ _ 1
  split
  · split
    · exact hmet
    · exact hcounted.trans ⟨rfl, rfl⟩
  · exact ⟨rfl, rfl⟩

theorem jobsStay_resultOut (d : Dev) (ring c rseq : Nat) (recs : List (List Byte)) : JobsStay d (resultOut d ring c rseq recs) := by
  unfold resultOut
  dsimp only
  split
  · exact .refl d
  · split
    · exact jobsStay_sigArrive d true c _ _
    · exact (jobsStay_oqEnter d ring recs).trans (.of_mirrored (mirroredFrom_mirror _ _))

/-! Records and averages (R267, R280, R294 to R304, R322). -/

theorem jobsStay_snTrigger (d : Dev) (s src t ctx rseq : Nat) : JobsStay d (snTrigger d s src t ctx rseq) := by
  unfold snTrigger
  dsimp only
  split
  · split
    · exact ⟨rfl, rfl⟩
    · split
      · refine JobsStay.bump ?_ _ _ 1
        exact ⟨rfl, rfl⟩
      · split
        · exact ((JobsStay.refl d).poutFlag 6).bump _ _ 1
        · exact ⟨rfl, rfl⟩
  · exact .refl d

theorem jobsStay_emitResult (d : Dev) (c : Nat) (cfg : Tab Word) : JobsStay d (emitResult d c cfg) := by
  unfold emitResult
  extract_lets x a cp empty f stored r raised sev defs triggered bit flags kinds recs queued y avg kept
  have hraised : JobsStay d raised := ((JobsStay.refl d).wrBytes _ _).trans (jobsStay_alarms stored c cfg empty f)
  have htriggered : JobsStay d triggered := hraised.trans (.forEach _ _ (fun _ _ => jobsStay_snTrigger _ _ _ _ _ _) raised)
  have hkept : JobsStay d kept := (htriggered.trans (jobsStay_resultOut triggered _ c _ recs)).ctxPut c _
  exact (hkept.wr _ _).wr _ _

theorem jobsStay_setStep (d : Dev) (j : Job) (a : AvgSt) : JobsStay d (setStep d j a) := by
  unfold setStep
  extract_lets c cp x joined shown
  have hshown : JobsStay d shown := ((JobsStay.refl d).ctxPut c _).wr _ _
  split
  · exact hshown.trans (jobsStay_emitResult shown c j.cfg)
  · exact hshown

theorem jobsStay_jobDone (d : Dev) (j : Job) : JobsStay d (jobDone d j) := by
  unfold jobDone
  split
  · exact .refl d
  · exact ((JobsStay.refl d).wrBytes _ _).trans (jobsStay_setStep _ j _)

/-- A job that belongs to no average any more changes nothing at its end. -/
theorem jobDone_of_orphan (d : Dev) {j : Job} (h : j.avgNo = 0) : jobDone d j = d := if_pos h

/-! The engines (R269, R270, R284, R308). -/

/-- From `d` to `e` nothing has changed but the jobs and the engines. -/
def JobsFrom (d e : Dev) : Prop := e = { d with jobs := e.jobs, eng := e.eng }

theorem JobsFrom.trans {d e f : Dev} (h : JobsFrom d e) (g : JobsFrom e f) : JobsFrom d f := by
  unfold JobsFrom at *
  rw [g, h]

theorem JobsFrom.now {d e : Dev} (h : JobsFrom d e) : e.now = d.now := by rw [h]

theorem JobsFrom.rd {d e : Dev} (h : JobsFrom d e) (r : Reg) : rd e r = rd d r := by rw [h]; rfl

/-- Registers may change between two steps of the jobs and engines. -/
theorem JobsFrom.only_trans {d e f p : Dev} {l : List Reg} (h : JobsFrom d e) (g : Only e f l) (k : JobsFrom f p) :
    Only { d with jobs := p.jobs, eng := p.eng } p l := by
  refine ⟨?_, fun r hr => (k.rd r).trans ((g.2 r hr).trans (h.rd r))⟩
  unfold JobsFrom at *
  rw [k, g.1, h]

theorem jobsFrom_jobSet (d : Dev) (j : Job) : JobsFrom d (jobSet d j) := rfl

theorem jobsFrom_jobDel (d : Dev) (id : Nat) : JobsFrom d (jobDel d id) := rfl

/-- An engine that takes a job changes the engines alone. -/
theorem engTake_jobs (d : Dev) (u : Nat) : (engTake d u).jobs = d.jobs := by
  unfold engTake
  split
  · rfl
  · split <;> rfl

theorem jobsFrom_engTake (d : Dev) (u : Nat) : JobsFrom d (engTake d u) := by
  unfold engTake
  split
  · rfl
  · split <;> rfl

/-- The job of an engine is in hand. -/
theorem engJob_mem {d : Dev} {u : Nat} {j : Job} {t : Nat} (h : engJob d u = some (j, t)) : j ∈ d.jobs := by
  unfold engJob at h
  split at h
  · cases h
  · obtain ⟨k, hk, heq⟩ := Option.map_eq_some_iff.1 h
    obtain ⟨rfl, -⟩ := Prod.mk.inj heq
    exact List.mem_of_find?_eq_some hk

/-- A job in hand that is set is in hand. -/
theorem mem_jobSet {d : Dev} {j k : Job} (hj : j ∈ d.jobs) (hid : j.id = k.id) : k ∈ (jobSet d k).jobs :=
  List.mem_map.2 ⟨j, hj, if_pos hid⟩

theorem only_ctxJobRegs (d : Dev) (c : Nat) : Only d (ctxJobRegs d c) [CTX.CPEND c, CTX.CDEAD c] := by
  unfold ctxJobRegs
  dsimp only
  split
  · exact (only_sf d _ _ _).mono (by simp)
  · exact (only_sf d _ _ _).trans (only_wr _ _ _)

/-- The instant at which the running pass of a job ends that started at `t`. -/
def passEnd (d : Dev) (j : Job) (t : Nat) : Nat := t + jobPassLen j * fabDiv d

/-- The job with its running pass behind it. -/
def jobNext (j : Job) : Job := { j with pass := j.pass + 1, rem := j.rem - jobPassLen j }

/-- The device after a pass that is not the job's last, before the engine takes the next job. -/
def passDone (d : Dev) (u : Nat) (j : Job) (t : Nat) : Dev :=
  { jobSet (advanceTo d (passEnd d j t)) (jobNext j) with eng := del d.eng u }

theorem jobPassEnd_of_more {d : Dev} {u : Nat} {j : Job} {t : Nat} (h : engJob d u = some (j, t)) (hlast : jobLast j = false) :
    jobPassEnd d u = engTake (passDone d u j t) u := by
  simp only [jobPassEnd, h, hlast, Bool.false_eq_true, if_false]
  rfl

/-- The end of a pass changes, beside time, the jobs and the engines. -/
theorem jobsFrom_jobPassEnd {d : Dev} {u : Nat} {j : Job} {t : Nat} (h : engJob d u = some (j, t)) (hlast : jobLast j = false) :
    JobsFrom (advanceTo d (passEnd d j t)) (jobPassEnd d u) := by
  have hset : JobsFrom (jobSet (advanceTo d (passEnd d j t)) (jobNext j)) (passDone d u j t) := rfl
  rw [jobPassEnd_of_more h hlast]
  exact ((jobsFrom_jobSet _ _).trans hset).trans (jobsFrom_engTake _ u)

theorem jobNext_mem_jobPassEnd {d : Dev} {u : Nat} {j : Job} {t : Nat} (h : engJob d u = some (j, t))
    (hlast : jobLast j = false) : jobNext j ∈ (jobPassEnd d u).jobs := by
  rw [jobPassEnd_of_more h hlast, engTake_jobs]
  exact mem_jobSet (d := advanceTo d _) (k := jobNext j) (engJob_mem h) rfl

/-- The device after the last pass of an engine's job, before the engine takes the next one. -/
def jobEnded (d : Dev) (j : Job) (t : Nat) : Dev :=
  ctxJobRegs (jobDone (jobDel (advanceTo d (passEnd d j t)) j.id) j) j.ctx

theorem jobComplete_of_last {d : Dev} {u : Nat} {j : Job} {t : Nat} (h : engJob d u = some (j, t)) (hlast : jobLast j = true) :
    jobComplete d u = engTake (jobEnded d j t) u := by
  simp only [jobComplete, h, hlast, if_true]
  rfl

theorem jobsStay_jobEnded (d : Dev) (j : Job) (t : Nat) : JobsStay (jobDel (advanceTo d (passEnd d j t)) j.id) (jobEnded d j t) :=
  (jobsStay_jobDone _ j).trans (.of_only (only_ctxJobRegs _ j.ctx))

/-- At the end of its last pass an engine's job is gone. -/
theorem jobComplete_jobs {d : Dev} {u : Nat} {j : Job} {t : Nat} (h : engJob d u = some (j, t)) (hlast : jobLast j = true) :
    (jobComplete d u).jobs = d.jobs.filter (fun k => k.id != j.id) := by
  rw [jobComplete_of_last h hlast, engTake_jobs]
  exact (jobsStay_jobEnded d j t).jobs

theorem jobComplete_now {d : Dev} {u : Nat} {j : Job} {t : Nat} (h : engJob d u = some (j, t)) (hlast : jobLast j = true) :
    (jobComplete d u).now = (advanceTo d (passEnd d j t)).now := by
  rw [jobComplete_of_last h hlast]
  exact (jobsFrom_engTake _ u).now.trans (jobsStay_jobEnded d j t).now

/-- The end of a job of no average changes, beside time, jobs and engines, what shows its context's jobs. -/
theorem only_jobComplete {d : Dev} {u : Nat} {j : Job} {t : Nat} (h : engJob d u = some (j, t)) (hlast : jobLast j = true)
    (havg : j.avgNo = 0) :
    Only { advanceTo d (passEnd d j t) with jobs := (jobComplete d u).jobs, eng := (jobComplete d u).eng } (jobComplete d u)
      [CTX.CPEND j.ctx, CTX.CDEAD j.ctx] := by
  have hended : Only (jobDel (advanceTo d (passEnd d j t)) j.id) (jobEnded d j t) [CTX.CPEND j.ctx, CTX.CDEAD j.ctx] := by
    rw [jobEnded, jobDone_of_orphan _ havg]
    exact only_ctxJobRegs _ j.ctx
  rw [jobComplete_of_last h hlast]
  exact (jobsFrom_jobDel _ j.id).only_trans hended (jobsFrom_engTake _ u)

end Sys2Proof.Machine

end

section

open Sys2Proof Sys2Proof.Machine

/-- Settles O31: a pass end sets the engine's job on and a completion removes it; what a completion gives out leaves the
jobs and the instant. -/
theorem fftEnginesAdvanceJobs : Obligations.FftEnginesAdvanceJobs := by
  unfold Obligations.FftEnginesAdvanceJobs
  refine ⟨?pass, ?orphan, ?complete⟩
  case pass =>
    refine fun s u j t hr hj hlast => does_of_clocked (f := (jobPassEnd · u)) rfl hr ?_
    have hfrom := jobsFrom_jobPassEnd hj hlast
    refine ⟨⟨jobNext j, jobNext_mem_jobPassEnd hj hlast, rfl⟩, hfrom.now.trans (advanceTo_now s.dev _), ?_⟩
    rw [hfrom.now, advanceTo_now_self]
    exact hfrom
  case orphan =>
    refine fun s u j t hr hj hlast havg => does_of_clocked (f := (jobComplete · u)) rfl hr ?_
    have hnow := jobComplete_now hj hlast
    refine ⟨jobComplete_jobs hj hlast, hnow.trans (advanceTo_now s.dev _), ?_⟩
    rw [hnow, advanceTo_now_self]
    exact only_jobComplete hj hlast havg
  case complete =>
    exact fun s u j t hr hj hlast => does_of_clocked (f := (jobComplete · u)) rfl hr
      ⟨jobComplete_jobs hj hlast, (jobComplete_now hj hlast).trans (advanceTo_now s.dev _)⟩

end

section

namespace Sys2Proof.Machine

open Sys2Proof

/-! A lane's output enters the lane's ring in the Cellar (R247, R315, R561). -/

/-- From `d` to `e` outputs of lane `c` may have gone to its ring: the Cellar, memory and the lane's epoch may have changed,
but not the lane's samples, and nothing else has. -/
structure CellarStep (c : Nat) (d e : Dev) : Prop where
  samples : (look e.lane c {}).n = (look d.lane c {}).n
  others : Others d.lane e.lane c
  frame : e = { d with cel := e.cel, mem := e.mem, lane := e.lane }

namespace CellarStep

variable {c : Nat} {d e f : Dev}

theorem refl (c : Nat) (d : Dev) : CellarStep c d d := ⟨rfl, fun _ _ _ => rfl, rfl⟩

theorem trans (h : CellarStep c d e) (g : CellarStep c e f) : CellarStep c d f where
  samples := g.samples.trans h.samples
  others := h.others.trans g.others
  frame := by rw [g.frame, h.frame]

theorem ctx (h : CellarStep c d e) : e.ctx = d.ctx := by rw [h.frame]

theorem jobs (h : CellarStep c d e) : e.jobs = d.jobs := by rw [h.frame]

end CellarStep

theorem cellarStep_hold (d : Dev) (c : Nat) (x : Tab CelSt) : CellarStep c d { d with cel := x } :=
  ⟨rfl, fun _ _ _ => rfl, rfl⟩

theorem cellarStep_celPut (d : Dev) (c : Nat) (w : Word) (t : Nat) : CellarStep c d (celPut d c w t) := by
  unfold celPut
  extract_lets s l no s' e
  have he : e = { d with mem := e.mem } := wrBytes_dev _ d _
  have hlane : e.lane = d.lane := by rw [he]
  refine ⟨?_, fun k x hk => ?_, ?_⟩
  · rw [look_put_same]
  · rw [hlane]; exact look_put_other _ _ _ _ _ hk
  · rw [he]

theorem cellarStep_celDrain (c : Nat) (l : List (Word × Nat)) : ∀ d : Dev, CellarStep c d (celDrain c l d) := by
  induction l with
  | nil => exact fun d => cellarStep_hold d c _
  | cons x l ih =>
    intro d
    rw [celDrain]
    split
    · exact (cellarStep_celPut d c _ _).trans (ih _)
    · exact cellarStep_hold d c _

theorem cellarStep_celWrite (d : Dev) (c : Nat) (w : Word) (t : Nat) : CellarStep c d (celWrite d c w t) := by
  unfold celWrite
  dsimp only
  split
  · exact cellarStep_celDrain c _ d
  · exact .refl c d

/-! The chain of a context with no job in hand (R251, R254 to R257, R263). -/

@[simp] theorem ctxGet_ctxPut_same (d : Dev) (c : Nat) (x : CtxSt) : ctxGet (ctxPut d c x) c = x :=
  look_put_same d.ctx c x {}

theorem others_ctxPut (d : Dev) (c : Nat) (x : CtxSt) : Others d.ctx (ctxPut d c x).ctx c :=
  fun j _ hj => look_put_other d.ctx c j x _ hj

/-- From `d` to `e` context `c` has worked on the inputs it has: lanes, jobs and the other contexts stay, and so does the
number of its inputs. -/
structure ChainStep (c : Nat) (d e : Dev) : Prop where
  lane : e.lane = d.lane
  jobs : e.jobs = d.jobs
  others : Others d.ctx e.ctx c
  inputs : (ctxGet e c).nIn = (ctxGet d c).nIn

namespace ChainStep

variable {c : Nat} {d e f : Dev}

theorem of_same (hl : e.lane = d.lane) (hj : e.jobs = d.jobs) (hc : e.ctx = d.ctx) : ChainStep c d e :=
  ⟨hl, hj, others_of_eq hc c, by rw [ctxGet, hc, ← ctxGet]⟩

theorem refl (c : Nat) (d : Dev) : ChainStep c d d := of_same rfl rfl rfl

theorem trans (h : ChainStep c d e) (g : ChainStep c e f) : ChainStep c d f where
  lane := g.lane.trans h.lane
  jobs := g.jobs.trans h.jobs
  others := h.others.trans g.others
  inputs := g.inputs.trans h.inputs

theorem ctxPut (h : ChainStep c d e) {x : CtxSt} (hx : x.nIn = (ctxGet e c).nIn) : ChainStep c d (ctxPut e c x) :=
  h.trans ⟨rfl, rfl, others_ctxPut e c x, by rw [ctxGet_ctxPut_same, hx]⟩

theorem wrW (h : ChainStep c d e) (k : Nat) (w : Word) : ChainStep c d (wrW e k w) := by
  have hw : Machine.wrW e k w = { e with mem := (Machine.wrW e k w).mem } := wrBytes_dev _ e k
  exact h.trans (of_same (by rw [hw]) (by rw [hw]) (by rw [hw]))

theorem freeSample (h : ChainStep c d e) : ChainStep c d (freeSample e).2 := h.trans (of_same rfl rfl rfl)

end ChainStep

/-- The registers that show a block change alone. -/
theorem chainStep_blkShow (d : Dev) (c k : Nat) : ChainStep k d (blkShow d c) := by
  unfold blkShow
  dsimp only
  split <;> exact .of_same rfl rfl rfl

/-- With no job in hand none is shed. -/
theorem ringShed_of_no_jobs {d : Dev} (h : d.jobs = []) (c k : Nat) : ringShed d c k = d := by simp [ringShed, h]

theorem chainStep_blkAdd {d : Dev} (h : d.jobs = []) (c : Nat) (s : Sample) : ChainStep c d (blkAdd d c s) := by
  unfold blkAdd
  extract_lets x k shed stored y
  split
  · exact (ChainStep.refl c d).ctxPut rfl
  · have hshed : shed = d := ringShed_of_no_jobs h c k
    have hstored : ChainStep c d stored := by
      refine ChainStep.wrW ?_ _ _
      rw [hshed]
      exact .refl c d
    refine ChainStep.trans ?_ (chainStep_blkShow _ c c)
    exact hstored.ctxPut rfl

theorem chainStep_streamSample {d : Dev} (h : d.jobs = []) (c : Nat) (v : Word) (t : Nat) :
    ChainStep c d (streamSample d c v t) := by
  unfold streamSample
  extract_lets x kept
  have hkept : ChainStep c d kept := (ChainStep.refl c d).ctxPut rfl
  split
  · exact hkept
  · exact hkept.trans (chainStep_blkAdd (hkept.jobs.trans h) c _)

/-- A context with one input more. -/
def inputCounted (d : Dev) (c : Nat) : Dev := ctxPut d c { ctxGet d c with nIn := (ctxGet d c).nIn + 1 }

theorem chainStep_ctxInput (w : Word) (t : Nat) {d : Dev} (h : d.jobs = []) (c : Nat) :
    ChainStep c (inputCounted d c) (ctxInput w t d c) := by
  unfold ctxInput
  extract_lets x cp mx per counted r t' drawn y v z mixed ed q
  have hdrawn : ChainStep c counted drawn := by
    by_cases hmx : mx = 1
    · simp only [drawn, r, if_pos hmx]; exact .refl c counted
    · simp only [drawn, r, if_neg hmx]; exact (ChainStep.refl c counted).freeSample
  have hmixed : ChainStep c counted mixed := hdrawn.ctxPut rfl
  split
  · exact .refl c counted
  · split
    · split
      · have hq : ChainStep c counted q.2 := hmixed.freeSample
        exact hq.trans (chainStep_streamSample (hq.jobs.trans h) c _ _)
      · exact hmixed
    · exact hmixed.trans (chainStep_streamSample (hmixed.jobs.trans h) c v t')

/-- An input of context `c` counts there and nowhere else. -/
theorem nIn_ctxInput (w : Word) (t : Nat) {d : Dev} (h : d.jobs = []) (c k : Nat) :
    (ctxGet (ctxInput w t d c) k).nIn = (ctxGet d k).nIn + if c = k then 1 else 0 := by
  have hstep := chainStep_ctxInput w t h c
  by_cases hk : c = k
  · subst hk
    rw [if_pos rfl, hstep.inputs, inputCounted, ctxGet_ctxPut_same]
  · have hother : ctxGet (ctxInput w t d c) k = ctxGet d k :=
      (hstep.others k _ (Ne.symm hk)).trans (others_ctxPut d c _ k _ (Ne.symm hk))
    rw [if_neg hk, hother, Nat.add_zero]

/-- Inputs given to the contexts of a list leave the lanes, and each context has as many more as the list names it. -/
theorem ctxInputs_effect (w : Word) (t : Nat) (l : List Nat) : ∀ {d : Dev}, d.jobs = [] →
    (forEach l (ctxInput w t) d).lane = d.lane
      ∧ ∀ k, (ctxGet (forEach l (ctxInput w t) d) k).nIn = (ctxGet d k).nIn + l.count k := by
  induction l with
  | nil => exact fun _ => ⟨rfl, fun _ => rfl⟩
  | cons c l ih =>
    intro d h
    have hstep := chainStep_ctxInput w t h c
    obtain ⟨hlane, hin⟩ := ih (hstep.jobs.trans h)
    refine ⟨hlane.trans hstep.lane, fun k => ?_⟩
    show (ctxGet (forEach l (ctxInput w t) (ctxInput w t d c)) k).nIn = _
    rw [hin k, nIn_ctxInput w t h, List.count_cons]
    simp only [beq_iff_eq]
    omega

/-! A lane's output (R240, R241, R245). -/

/-- The instant of an output of lane `c`: its newest sample's, less the delay of its decimator. -/
def outputAt (d : Dev) (c : Nat) : Nat :=
  (look d.lane c {}).inst - 3 * (look d.lane c {}).len
    * (5 * (gf d (PRESS.LNCFG c) PRESS.LNCFG_MC - 1) + 254 * gf d (PRESS.LNCFG c) PRESS.LNCFG_MC)

/-- Lane `c` without the samples of an output. -/
def samplesTaken (d : Dev) (c : Nat) : Dev :=
  { d with lane := put d.lane c { look d.lane c {} with
      n := (look d.lane c {}).n - 2 * gf d (PRESS.LNCFG c) PRESS.LNCFG_MC } }

/-- Context `k` takes an output of lane `c` at the instant `t`. -/
def takesOutput (d : Dev) (c t k : Nat) : Bool :=
  gf d (CTX.CCTL k) CTX.CCTL_CHAN = c && ctxTakes d k && decide ((ctxGet d k).start < t)

/-- The contexts that take an output of lane `c` at the instant `t`. -/
def outputTakers (d : Dev) (c t : Nat) : List Nat := (ctxLive d).filter (takesOutput d c t)

/-- The way into the Cellar does not change who takes an output. -/
theorem CellarStep.outputTakers {c : Nat} {d e : Dev} (h : CellarStep c d e) (k t : Nat) :
    outputTakers e k t = outputTakers d k t := by
  rw [h.frame]
  rfl

theorem laneOutput_of_due {d : Dev} {c : Nat} (w : Word) (ha : laneActive d c = true) (hg : gateOpen d 14 = true)
    (hn : 2 * gf d (PRESS.LNCFG c) PRESS.LNCFG_MC ≤ (look d.lane c {}).n) :
    laneOutput d c w
      = forEach (outputTakers (celWrite (samplesTaken d c) c w (outputAt d c)) c (outputAt d c)) (ctxInput w (outputAt d c))
          (celWrite (samplesTaken d c) c w (outputAt d c)) := by
  simp only [laneOutput, ha, hg, decide_eq_true hn, Bool.and_self, if_true]
  rfl

/-- An output of a lane takes its samples from the lane and gives each context that takes it one input. -/
theorem laneOutput_effect {d : Dev} {c : Nat} (w : Word) (ha : laneActive d c = true) (hg : gateOpen d 14 = true)
    (hn : 2 * gf d (PRESS.LNCFG c) PRESS.LNCFG_MC ≤ (look d.lane c {}).n) (hj : d.jobs = []) :
    (look (laneOutput d c w).lane c {}).n = (look d.lane c {}).n - 2 * gf d (PRESS.LNCFG c) PRESS.LNCFG_MC
      ∧ Others d.lane (laneOutput d c w).lane c
      ∧ ∀ k, (ctxGet (laneOutput d c w) k).nIn = (ctxGet d k).nIn + (outputTakers d c (outputAt d c)).count k := by
  have hcel := cellarStep_celWrite (samplesTaken d c) c w (outputAt d c)
  obtain ⟨hlane, hin⟩ := ctxInputs_effect w (outputAt d c) (outputTakers d c (outputAt d c)) (hcel.jobs.trans hj)
  have htakers : outputTakers (celWrite (samplesTaken d c) c w (outputAt d c)) c (outputAt d c)
      = outputTakers d c (outputAt d c) := hcel.outputTakers c _
  rw [laneOutput_of_due w ha hg hn, htakers]
  refine ⟨?_, ?_, fun k => ?_⟩
  · rw [hlane, hcel.samples, samplesTaken, look_put_same]
  · rw [hlane]
    exact Others.trans (fun k _ hk => look_put_other d.lane c k _ _ hk) hcel.others
  · rw [hin k, ctxGet, hcel.ctx]
    rfl

theorem count_outputTakers {d : Dev} {c t k : Nat} (h : takesOutput d c t k = true) :
    (outputTakers d c t).count k = (ctxLive d).count k := List.count_filter h

/-! A context becomes RUNNING (R251). -/

theorem contextRunning_of_ready {d : Dev} {c : Nat} (hst : ctxState d c = 1) (hs : ctxSusp d c = false)
    (hn : 32 ≤ (ctxGet d c).nOut) (ho : ctxOrder d c = false ∨ (ctxGet d c).grid.got = true) :
    contextRunning d c = sf d (CTX.CSTAT c) CTX.CSTAT_STATE 2 := by
  have hgot : (!ctxOrder d c || (ctxGet d c).grid.got) = true := by
    rcases ho with ho | ho <;> simp [ho]
  simp only [contextRunning, hst, hs, hgot, decide_eq_true hn, decide_true, Bool.not_false, Bool.and_self, if_true]

end Sys2Proof.Machine

end

section

open Sys2Proof Sys2Proof.Machine

/-- Settles O29: the samples leave the lane before its ring and its contexts take the output, and neither adds a sample or
an input of its own. -/
theorem lanesFeedContexts : Obligations.LanesFeedContexts := by
  unfold Obligations.LanesFeedContexts
  refine ⟨?output, ?running⟩
  case output =>
    refine fun s c x hr ha hg hn hj => does_of_clocked (f := (laneOutput · c x)) rfl hr ?_
    obtain ⟨hsamples, hothers, hin⟩ := laneOutput_effect x ha hg hn hj
    refine ⟨hsamples, hothers, fun k _ honce hchan htakes hstart => ?_⟩
    have htaker : takesOutput s.dev c (outputAt s.dev c) k = true := by
      simp only [takesOutput, hchan, htakes, decide_true, Bool.true_and]
      exact decide_eq_true hstart
    rw [hin k, count_outputTakers htaker, honce]
  case running =>
    refine fun s c hr hst hs hn ho => does_of_clocked (f := (contextRunning · c)) rfl hr ?_
    rw [contextRunning_of_ready hst hs hn ho]
    exact ⟨gf_sf_same s.dev _ CTX.CSTAT_STATE 2 (by decide), only_sf s.dev _ _ 2⟩

end
